-- ==== Sys2Proof/Word.lean ====
section
/-!
DEFINITION. The widths the manual works with: 64-bit words, bytes, 32-bit instruction words (00 R6, 04 R102).
-/

namespace Sys2Proof

/-- A scalar register, a CSR, a virtual address: 64 bits (01 R10, R11). -/
abbrev Word := BitVec 64

/-- One byte of memory (00 R6). -/
abbrev Byte := BitVec 8

/-- An instruction word (04 R102), or an FP32 pattern. -/
abbrev Word32 := BitVec 32

/-- The numeral of a Boolean, for one-bit fields. -/
def bitOf (b : Bool) : Nat := if b then 1 else 0

end Sys2Proof
end

