-- ==== Sys2Proof/Syntax.lean ====
section
/-!
DEFINITION. The instructions of Porost revision 1 (04 R112) and the happenings of the Bolzan's other agents
(the rows of spec/opcode_table.json that have no word), as data. The encodings are in Decode.lean.
-/

namespace Sys2Proof

/-- A scalar register field, s0 to s127 (04 R105). -/
abbrev SReg := BitVec 7
/-- A vector handle field, v0 to v127 (04 R105). -/
abbrev VReg := BitVec 7
/-- A mask field, k0 to k15 (04 R105). -/
abbrev KReg := BitVec 4
/-- A scalar base, or the operand of an atomic, s0 to s63 (04 R104, R105). -/
abbrev BaseReg := BitVec 6
/-- An accumulator tile, acc0 to acc3 (04 R105). -/
abbrev AccReg := BitVec 2
/-- A codebook bank, cb0 to cb15 (04 R105). -/
abbrev BankReg := BitVec 4
/-- A coverage accumulator, cov0 or cov1 (04 R105). -/
abbrev CovReg := BitVec 1
/-- CTXID[11:0]: die, quad, core position, context (01 R35). -/
abbrev CtxId := BitVec 12
/-- A core of the package: 144 times the die plus 4 times the quad plus the core position (15 R314). -/
abbrev CoreId := BitVec 10
/-- A die of the package (21 R387). -/
abbrev DieId := BitVec 2
/-- A tenant number (19 R353). -/
abbrev TenantId := BitVec 4

/-- The element formats, in the order of their codes (01 R21). -/
inductive Fmt where
  | f32 | bf16 | f16 | e5m2 | e4m3 | mx8 | nx4 | ix4 | ix8 | i8 | i16 | i32 | i64 | n8 | n16 | n32 | n64 | b32 | b64
  deriving DecidableEq, Repr

/-- The scopes, in the order of their codes (00 R4, 04 R108). -/
inductive Scope where
  | ctx | core | quad | die | pkg | pod
  deriving DecidableEq, Repr

/-- How operand b is read (04 R107). -/
inductive Variant where
  | vv | vs | vc | vi | sv
  deriving DecidableEq, Repr

/-- The conditions of vcmp (04 R110). -/
inductive Cond where
  | eq | ne | lt | le | gt | ge | un | ord
  deriving DecidableEq, Repr

/-- The orders of a fence (04 R109). -/
inductive FenceOrder where
  | acq | rel | ar | sc
  deriving DecidableEq, Repr

/-- The orders of an atomic (04 R109). -/
inductive AmoOrder where
  | rlx | acq | rel | ar
  deriving DecidableEq, Repr

/-- The block geometries 16, 32 and 64, codes 1 to 3 (03 R83). -/
inductive Geo where
  | g16 | g32 | g64
  deriving DecidableEq, Repr

/-- The operations of vscan (07 R198). -/
inductive ScanOp where
  | add | max | min | and | or | xor
  deriving DecidableEq, Repr

/-- The operations of vrbit (07 R204). -/
inductive BitOp where
  | and | or | xor
  deriving DecidableEq, Repr

/-- The soft errors of a core (10 R242). -/
inductive CoreError where
  /-- parity in an operand bank, a queue or the slide ring, met by the strip on a lane group -/
  | strip (group : BitVec 3)
  /-- a correctable error in lane-private SRAM -/
  | lanePrivateCorrected (lane : BitVec 6) (offset : BitVec 14)
  /-- an uncorrectable error in lane-private SRAM -/
  | lanePrivateLost (lane : BitVec 6) (offset : BitVec 14)
  /-- an uncorrectable error in a codebook bank's word (11 R247) -/
  | bankLost (bank : BankReg) (word : BitVec 9)
  /-- an uncorrectable error in a pair of a coverage accumulator (13 R296) -/
  | covLost (cov : CovReg) (pair : BitVec 13)
  /-- an error in a line of the data cache (10 R241) -/
  | cacheLine (line : Word)
  /-- parity in a context's held stores or run-ahead state -/
  | held (ctx : BitVec 2)
  deriving DecidableEq, Repr

/-- The fields of a tenant record (19 R353). -/
inductive TenantField where
  | valid | quads | ptroot | sidebase16 | sidebase32 | sidebase64 | keyslot | inbox | events | dirtyb
  deriving DecidableEq, Repr

/-- The die and core registers that have no event of their own (11 R249, 13 R297, 21 R410, R412). -/
inductive HwReg where
  | cbown (core : CoreId) | cvown (core : CoreId)
  | wpctl (slot : BitVec 3) | wpbase (slot : BitVec 3) | wplen (slot : BitVec 3)
  | trbase | trslots
  deriving DecidableEq, Repr

/-- What a management command writes of a tenant's pod access (22 R420). -/
inductive GrantCmd where
  /-- the pod entry -/
  | ptid (value : BitVec 16)
  /-- one entry of the grant table -/
  | entry (slot : BitVec 6) (base len : Word) (ptid : BitVec 16) (perm : BitVec 2)
  deriving DecidableEq, Repr

/-- The virtual channels of a link direction (21 R387). -/
inductive Channel where
  | req | rsp | bulk | side
  deriving DecidableEq, Repr

/-- A link of the package (21 R387): the die that sends and the die that receives. -/
structure LinkDir where
  src : DieId
  dst : DieId
  deriving DecidableEq, Repr

/-- The operations of an atomic (05 R153). -/
inductive AtomicOp where
  | add | swp | cas | minS | minZ | maxS | maxZ | and | or | xor
  deriving DecidableEq, Repr

/-- What a pod-window request asks of its target (22 R420). -/
inductive PodAccess where
  | read (bytes : Nat)
  | write (data : List Byte)
  /-- an atomic of 8 bytes, or of 4, with its operand and, for cas, its expected value -/
  | atomic (op : AtomicOp) (wide : Bool) (operand expected : Word)
  deriving DecidableEq, Repr


/-- One constructor for each row of spec/opcode_table.json: the instructions, then the events of the other agents. -/
inductive Instr where
  /-- R129: add -/
  | add (d : SReg) (a : SReg) (b : SReg)
  /-- R129: sub -/
  | sub (d : SReg) (a : SReg) (b : SReg)
  /-- R129: and -/
  | and (d : SReg) (a : SReg) (b : SReg)
  /-- R129: or -/
  | or (d : SReg) (a : SReg) (b : SReg)
  /-- R129: xor -/
  | xor (d : SReg) (a : SReg) (b : SReg)
  /-- R129: shl -/
  | shl (d : SReg) (a : SReg) (b : SReg)
  /-- R129: shr -/
  | shr (d : SReg) (a : SReg) (b : SReg)
  /-- R129: sra -/
  | sra (d : SReg) (a : SReg) (b : SReg)
  /-- R129: slt -/
  | slt (d : SReg) (a : SReg) (b : SReg)
  /-- R129: sltn -/
  | sltn (d : SReg) (a : SReg) (b : SReg)
  /-- R129: min.s -/
  | minS (d : SReg) (a : SReg) (b : SReg)
  /-- R129: min.z -/
  | minZ (d : SReg) (a : SReg) (b : SReg)
  /-- R129: max.s -/
  | maxS (d : SReg) (a : SReg) (b : SReg)
  /-- R129: max.z -/
  | maxZ (d : SReg) (a : SReg) (b : SReg)
  /-- R129: mul -/
  | mul (d : SReg) (a : SReg) (b : SReg)
  /-- R129: mulh.s -/
  | mulhS (d : SReg) (a : SReg) (b : SReg)
  /-- R129: mulh.z -/
  | mulhZ (d : SReg) (a : SReg) (b : SReg)
  /-- R129: div.s -/
  | divS (d : SReg) (a : SReg) (b : SReg)
  /-- R129: div.z -/
  | divZ (d : SReg) (a : SReg) (b : SReg)
  /-- R129: rem.s -/
  | remS (d : SReg) (a : SReg) (b : SReg)
  /-- R129: rem.z -/
  | remZ (d : SReg) (a : SReg) (b : SReg)
  /-- R131: clz -/
  | clz (d : SReg) (a : SReg)
  /-- R131: ctz -/
  | ctz (d : SReg) (a : SReg)
  /-- R131: popc -/
  | popc (d : SReg) (a : SReg)
  /-- R131: bswap -/
  | bswap (d : SReg) (a : SReg)
  /-- R131: fsh -/
  | fsh (d : SReg) (a : SReg) (b : SReg)
  /-- R130: addi -/
  | addi (d : SReg) (a : SReg) (imm : BitVec 11)
  /-- R130: andi -/
  | andi (d : SReg) (a : SReg) (imm : BitVec 11)
  /-- R130: ori -/
  | ori (d : SReg) (a : SReg) (imm : BitVec 11)
  /-- R130: xori -/
  | xori (d : SReg) (a : SReg) (imm : BitVec 11)
  /-- R130: shli -/
  | shli (d : SReg) (a : SReg) (sh : BitVec 6)
  /-- R130: shri -/
  | shri (d : SReg) (a : SReg) (sh : BitVec 6)
  /-- R130: srai -/
  | srai (d : SReg) (a : SReg) (sh : BitVec 6)
  /-- R132: bfx.z -/
  | bfxZ (d : SReg) (a : SReg) (pos : BitVec 6) (len : BitVec 5)
  /-- R132: bfx.s -/
  | bfxS (d : SReg) (a : SReg) (pos : BitVec 6) (len : BitVec 5)
  /-- R132: bfi -/
  | bfi (d : SReg) (a : SReg) (pos : BitVec 6) (len : BitVec 5)
  /-- R133: lui -/
  | lui (d : SReg) (imm : BitVec 18)
  /-- R133: pcadd -/
  | pcadd (d : SReg) (imm : BitVec 18)
  /-- R135: fadd -/
  | fadd (d : SReg) (a : SReg) (b : SReg)
  /-- R135: fsub -/
  | fsub (d : SReg) (a : SReg) (b : SReg)
  /-- R135: fmul -/
  | fmul (d : SReg) (a : SReg) (b : SReg)
  /-- R135: fdiv -/
  | fdiv (d : SReg) (a : SReg) (b : SReg)
  /-- R137: fmin -/
  | fmin (d : SReg) (a : SReg) (b : SReg)
  /-- R137: fmax -/
  | fmax (d : SReg) (a : SReg) (b : SReg)
  /-- R135: fsqrt -/
  | fsqrt (d : SReg) (a : SReg)
  /-- R135: fma -/
  | fma (d : SReg) (a : SReg) (b : SReg)
  /-- R136: fcmp.eq -/
  | fcmpEq (d : SReg) (a : SReg) (b : SReg)
  /-- R136: fcmp.lt -/
  | fcmpLt (d : SReg) (a : SReg) (b : SReg)
  /-- R136: fcmp.le -/
  | fcmpLe (d : SReg) (a : SReg) (b : SReg)
  /-- R136: fcmp.un -/
  | fcmpUn (d : SReg) (a : SReg) (b : SReg)
  /-- R138: fcvt.T.f32 -/
  | fcvtFromF32 (t : Fmt) (d : SReg) (a : SReg)
  /-- R138: fcvt.f32.T -/
  | fcvtToF32 (t : Fmt) (d : SReg) (a : SReg)
  /-- R147: ldb -/
  | ldb (sx : Bool) (acq : Option Scope) (off : BitVec 6) (base : BaseReg) (d : SReg)
  /-- R147: ldh -/
  | ldh (sx : Bool) (acq : Option Scope) (off : BitVec 6) (base : BaseReg) (d : SReg)
  /-- R147: ldw -/
  | ldw (sx : Bool) (acq : Option Scope) (off : BitVec 6) (base : BaseReg) (d : SReg)
  /-- R147: ldd -/
  | ldd (acq : Option Scope) (off : BitVec 6) (base : BaseReg) (d : SReg)
  /-- R147: stb -/
  | stb (rel : Option Scope) (off : BitVec 7) (base : BaseReg) (d : SReg)
  /-- R147: sth -/
  | sth (rel : Option Scope) (off : BitVec 7) (base : BaseReg) (d : SReg)
  /-- R147: stw -/
  | stw (rel : Option Scope) (off : BitVec 7) (base : BaseReg) (d : SReg)
  /-- R147: std -/
  | std (rel : Option Scope) (off : BitVec 7) (base : BaseReg) (d : SReg)
  /-- R156: fence -/
  | fence (o : FenceOrder) (sc : Scope)
  /-- R153: amoadd -/
  | amoadd (o : AmoOrder) (sc : Scope) (wd : Bool) (val : BaseReg) (base : BaseReg) (d : SReg)
  /-- R153: amoswp -/
  | amoswp (o : AmoOrder) (sc : Scope) (wd : Bool) (val : BaseReg) (base : BaseReg) (d : SReg)
  /-- R153: amocas -/
  | amocas (o : AmoOrder) (sc : Scope) (wd : Bool) (val : BaseReg) (base : BaseReg) (d : SReg)
  /-- R153: amomin.s -/
  | amominS (o : AmoOrder) (sc : Scope) (wd : Bool) (val : BaseReg) (base : BaseReg) (d : SReg)
  /-- R153: amomin.z -/
  | amominZ (o : AmoOrder) (sc : Scope) (wd : Bool) (val : BaseReg) (base : BaseReg) (d : SReg)
  /-- R153: amomax.s -/
  | amomaxS (o : AmoOrder) (sc : Scope) (wd : Bool) (val : BaseReg) (base : BaseReg) (d : SReg)
  /-- R153: amomax.z -/
  | amomaxZ (o : AmoOrder) (sc : Scope) (wd : Bool) (val : BaseReg) (base : BaseReg) (d : SReg)
  /-- R153: amoand -/
  | amoand (o : AmoOrder) (sc : Scope) (wd : Bool) (val : BaseReg) (base : BaseReg) (d : SReg)
  /-- R153: amoor -/
  | amoor (o : AmoOrder) (sc : Scope) (wd : Bool) (val : BaseReg) (base : BaseReg) (d : SReg)
  /-- R153: amoxor -/
  | amoxor (o : AmoOrder) (sc : Scope) (wd : Bool) (val : BaseReg) (base : BaseReg) (d : SReg)
  /-- R139: beq -/
  | beq (a : SReg) (b : SReg) (off : BitVec 11)
  /-- R139: bne -/
  | bne (a : SReg) (b : SReg) (off : BitVec 11)
  /-- R139: blt -/
  | blt (a : SReg) (b : SReg) (off : BitVec 11)
  /-- R139: bge -/
  | bge (a : SReg) (b : SReg) (off : BitVec 11)
  /-- R139: bltn -/
  | bltn (a : SReg) (b : SReg) (off : BitVec 11)
  /-- R139: bgen -/
  | bgen (a : SReg) (b : SReg) (off : BitVec 11)
  /-- R140: jal -/
  | jal (d : SReg) (off : BitVec 18)
  /-- R140: jalr -/
  | jalr (d : SReg) (a : SReg) (imm : BitVec 8)
  /-- R142: wcall -/
  | wcall (n : BitVec 3) (off : BitVec 15)
  /-- R143: wret -/
  | wret (n : BitVec 3)
  /-- R144: winb -/
  | winb (n : BitVec 4)
  /-- R119: rep -/
  | rep (st : BitVec 2) (cnt : BitVec 6) (fm : BitVec 3)
  /-- R146: bkany -/
  | bkany (k : KReg) (off : BitVec 15)
  /-- R146: bknone -/
  | bknone (k : KReg) (off : BitVec 15)
  /-- R375: csrr -/
  | csrr (d : SReg) (n : BitVec 11)
  /-- R375: csrw -/
  | csrw (d : SReg) (a : SReg) (n : BitVec 11)
  /-- R375: csrset -/
  | csrset (d : SReg) (a : SReg) (n : BitVec 11)
  /-- R375: csrclr -/
  | csrclr (d : SReg) (a : SReg) (n : BitVec 11)
  /-- R371: trap -/
  | trap (a : SReg)
  /-- R373: wfe -/
  | wfe (a : SReg)
  /-- R366: tlbinv -/
  | tlbinv (a : SReg) (b : SReg)
  /-- R374: dcinv -/
  | dcinv (a : SReg) (b : SReg)
  /-- R376: freeze -/
  | freeze (d : SReg) (a : SReg) (b : SReg)
  /-- R357: launch -/
  | launch (d : SReg) (a : SReg) (b : SReg)
  /-- R355: lwait -/
  | lwait (d : SReg) (a : SReg)
  /-- R167: vadd -/
  | vadd (f : Variant) (m : Bool) (d : VReg) (a : VReg) (b : VReg)
  /-- R167: vsub -/
  | vsub (f : Variant) (m : Bool) (d : VReg) (a : VReg) (b : VReg)
  /-- R167: vmul -/
  | vmul (f : Variant) (m : Bool) (d : VReg) (a : VReg) (b : VReg)
  /-- R167: vdiv -/
  | vdiv (f : Variant) (m : Bool) (d : VReg) (a : VReg) (b : VReg)
  /-- R167: vmin -/
  | vmin (f : Variant) (m : Bool) (d : VReg) (a : VReg) (b : VReg)
  /-- R167: vmax -/
  | vmax (f : Variant) (m : Bool) (d : VReg) (a : VReg) (b : VReg)
  /-- R168: vfma -/
  | vfma (f : Variant) (m : Bool) (d : VReg) (a : VReg) (b : VReg)
  /-- R168: vfms -/
  | vfms (f : Variant) (m : Bool) (d : VReg) (a : VReg) (b : VReg)
  /-- R169: vsqrt -/
  | vsqrt (m : Bool) (d : VReg) (a : VReg)
  /-- R169: vabs -/
  | vabs (m : Bool) (d : VReg) (a : VReg)
  /-- R169: vneg -/
  | vneg (m : Bool) (d : VReg) (a : VReg)
  /-- R169: vrcp -/
  | vrcp (m : Bool) (d : VReg) (a : VReg)
  /-- R169: vrsq -/
  | vrsq (m : Bool) (d : VReg) (a : VReg)
  /-- R169: vexp2 -/
  | vexp2 (m : Bool) (d : VReg) (a : VReg)
  /-- R169: vlog2 -/
  | vlog2 (m : Bool) (d : VReg) (a : VReg)
  /-- R169: vtanh -/
  | vtanh (m : Bool) (d : VReg) (a : VReg)
  /-- R169: vsigm -/
  | vsigm (m : Bool) (d : VReg) (a : VReg)
  /-- R170: vand -/
  | vand (f : Variant) (m : Bool) (d : VReg) (a : VReg) (b : VReg)
  /-- R170: vor -/
  | vor (f : Variant) (m : Bool) (d : VReg) (a : VReg) (b : VReg)
  /-- R170: vxor -/
  | vxor (f : Variant) (m : Bool) (d : VReg) (a : VReg) (b : VReg)
  /-- R170: vshl -/
  | vshl (f : Variant) (m : Bool) (d : VReg) (a : VReg) (b : VReg)
  /-- R170: vshr -/
  | vshr (f : Variant) (m : Bool) (d : VReg) (a : VReg) (b : VReg)
  /-- R170: vsra -/
  | vsra (f : Variant) (m : Bool) (d : VReg) (a : VReg) (b : VReg)
  /-- R170: vmulh -/
  | vmulh (f : Variant) (m : Bool) (d : VReg) (a : VReg) (b : VReg)
  /-- R171: vcmp -/
  | vcmp (f : Variant) (m : Bool) (cc : Cond) (kd : KReg) (a : VReg) (b : VReg)
  /-- R172: vsel -/
  | vsel (f : Variant) (d : VReg) (a : VReg) (b : VReg)
  /-- R173: vcvt -/
  | vcvt (t : Fmt) (m : Bool) (d : VReg) (a : VReg)
  /-- R174: vscl -/
  | vscl (f : Variant) (m : Bool) (d : VReg) (a : VReg) (b : VReg)
  /-- R175: vblk -/
  | vblk (g : Geo) (m : Bool) (d : VReg) (a : VReg)
  /-- R177: vrng.raw -/
  | vrngRaw (m : Bool) (d : VReg) (a : SReg)
  /-- R177: vrng.unif -/
  | vrngUnif (m : Bool) (d : VReg) (a : SReg)
  /-- R158: setvli -/
  | setvli (d : SReg) (a : SReg) (req : BitVec 11)
  /-- R158: setvl -/
  | setvl (d : SReg) (a : SReg) (b : SReg)
  /-- R159: setel -/
  | setel (a : SReg)
  /-- R160: vforce -/
  | vforce (d : VReg)
  /-- R161: dead -/
  | deadScalar (d : SReg) (a : SReg)
  /-- R161: dead -/
  | deadVector (d : VReg) (a : VReg)
  /-- R161: dead -/
  | deadMask (d : KReg) (a : KReg)
  /-- R178: kmeet -/
  | kmeet (d : KReg) (a : KReg) (b : KReg)
  /-- R178: kjoin -/
  | kjoin (d : KReg) (a : KReg) (b : KReg)
  /-- R178: kdiff -/
  | kdiff (d : KReg) (a : KReg) (b : KReg)
  /-- R178: kless -/
  | kless (d : KReg) (a : KReg) (b : KReg)
  /-- R178: kflip -/
  | kflip (d : KReg) (a : KReg)
  /-- R178: kcopy -/
  | kcopy (d : KReg) (a : KReg)
  /-- R178: kmsk -/
  | kmsk (d : KReg) (a : KReg)
  /-- R178: kset -/
  | kset (d : KReg) (a : SReg)
  /-- R179: kpop -/
  | kpop (d : SReg) (a : KReg)
  /-- R179: kfirst -/
  | kfirst (d : SReg) (a : KReg)
  /-- R185: vld -/
  | vld (m : Bool) (d : VReg) (base : BaseReg) (x : BitVec 7)
  /-- R185: vlds -/
  | vlds (m : Bool) (d : VReg) (base : BaseReg) (x : SReg)
  /-- R187: vldx -/
  | vldx (m : Bool) (d : VReg) (base : BaseReg) (x : VReg)
  /-- R186: vldb -/
  | vldb (m : Bool) (d : VReg) (base : BaseReg) (x : BitVec 7)
  /-- R188: vst -/
  | vst (m : Bool) (d : VReg) (base : BaseReg) (x : BitVec 7)
  /-- R188: vsts -/
  | vsts (m : Bool) (d : VReg) (base : BaseReg) (x : SReg)
  /-- R189: vstx -/
  | vstx (m : Bool) (d : VReg) (base : BaseReg) (x : VReg)
  /-- R197: vext -/
  | vext (d : SReg) (a : VReg) (b : SReg)
  /-- R194: vslup -/
  | vslup (m : Bool) (d : VReg) (a : VReg) (b : SReg)
  /-- R194: vsldn -/
  | vsldn (m : Bool) (d : VReg) (a : VReg) (b : SReg)
  /-- R195: vperm -/
  | vperm (m : Bool) (d : VReg) (a : VReg) (b : VReg)
  /-- R196: vcmpr -/
  | vcmpr (m : Bool) (d : VReg) (a : VReg)
  /-- R196: vexpd -/
  | vexpd (m : Bool) (d : VReg) (a : VReg)
  /-- R198: vscan -/
  | vscan (op : ScanOp) (m : Bool) (d : VReg) (a : VReg)
  /-- R201: vrsumo -/
  | vrsumo (m : Bool) (d : SReg) (a : VReg)
  /-- R201: vrsumt -/
  | vrsumt (m : Bool) (d : SReg) (a : VReg)
  /-- R202: vrmax -/
  | vrmax (m : Bool) (d : SReg) (a : VReg)
  /-- R202: vrmin -/
  | vrmin (m : Bool) (d : SReg) (a : VReg)
  /-- R203: vrargx -/
  | vrargx (m : Bool) (d : SReg) (a : VReg)
  /-- R204: vrbit -/
  | vrbit (op : BitOp) (m : Bool) (d : SReg) (a : VReg)
  /-- R227: vpart -/
  | vpart (d : SReg) (a : SReg)
  /-- R238: vlpld -/
  | vlpld (m : Bool) (d : VReg) (a : VReg) (b : SReg)
  /-- R238: vlpst -/
  | vlpst (m : Bool) (d : VReg) (a : VReg) (b : SReg)
  /-- R238: vlpst.b -/
  | vlpstB (m : Bool) (d : VReg) (b : SReg)
  /-- R261: cbld -/
  | cbld (d : BankReg) (a : SReg) (b : SReg)
  /-- R262: cbst -/
  | cbst (d : BankReg) (a : SReg) (b : SReg)
  /-- R263: cbwr -/
  | cbwr (d : BankReg) (a : SReg) (b : SReg)
  /-- R263: cbrd -/
  | cbrd (d : SReg) (a : BankReg) (b : SReg)
  /-- R264: cbval -/
  | cbval (d : BankReg) (a : SReg) (b : SReg)
  /-- R265: cbsel.b -/
  | cbselB (d : BankReg)
  /-- R265: cbsel.m -/
  | cbselM (d : BankReg)
  /-- R267: vcbx -/
  | vcbx (d : VReg) (a : VReg) (b : BankReg)
  /-- R278: comba -/
  | comba (c : Bool) (acc : AccReg) (a : VReg) (b : VReg)
  /-- R278: combs -/
  | combs (c : Bool) (acc : AccReg) (a : VReg) (b : VReg)
  /-- R279: combi -/
  | combi (acc : AccReg) (a : VReg) (b : VReg)
  /-- R271: msetvl -/
  | msetvl (d : SReg) (a : SReg)
  /-- R291: mzero -/
  | mzero (d : AccReg)
  /-- R293: mrdr -/
  | mrdr (d : VReg) (a : AccReg) (b : SReg)
  /-- R293: mrdc -/
  | mrdc (d : VReg) (a : AccReg) (b : SReg)
  /-- R292: mwrr -/
  | mwrr (d : AccReg) (a : VReg) (b : SReg)
  /-- R294: mld -/
  | mld (d : AccReg) (a : SReg) (b : SReg)
  /-- R294: mst -/
  | mst (d : AccReg) (a : SReg) (b : SReg)
  /-- R283: smode -/
  | smode (d : VReg) (a : SReg)
  /-- R290: sexit -/
  | sexit (d : VReg)
  /-- R290: sprog -/
  | sprog (d : SReg) (a : VReg)
  /-- R300: cvset -/
  | cvset (d : CovReg) (a : SReg) (b : SReg)
  /-- R303: cvwt -/
  | cvwt (d : CovReg) (a : VReg)
  /-- R305: cvprb -/
  | cvprb (d : SReg) (a : CovReg) (b : VReg)
  /-- R306: cvprbb -/
  | cvprbb (d : VReg) (a : CovReg) (n : BitVec 6) (b : VReg)
  /-- R307: cvcom -/
  | cvcom (d : CovReg) (a : VReg)
  /-- R308: cvsel -/
  | cvsel (d : SReg) (a : VReg) (b : VReg)
  /-- R309: cvrd -/
  | cvrd (d : VReg) (a : CovReg) (b : SReg)
  /-- R319: bxfer -/
  | bxfer (g : BitVec 4) (d : SReg) (a : SReg) (b : SReg)
  /-- R328: bbini -/
  | bbini (a : SReg) (b : SReg)
  /-- R329: bbexp -/
  | bbexp (a : SReg) (b : SReg)
  /-- R329: bbarv -/
  | bbarv (a : SReg) (b : SReg)
  /-- R330: bbwait -/
  | bbwait (d : SReg) (a : SReg) (b : SReg)
  /-- R331: bbtest -/
  | bbtest (d : KReg) (a : SReg) (b : SReg)
  /-- R333: vldc -/
  | vldc (m : Bool) (d : VReg) (base : BaseReg) (x : SReg)
  /-- R335: bar -/
  | bar (sc : Scope)
  /-- R338: bind -/
  | bind (d : SReg) (a : SReg) (b : SReg)
  /-- R338: unbind -/
  | unbind (a : SReg)
  /-- R113: nop -/
  | nop (h : BitVec 25)
  /-- R47: The chaining sequencer takes a pending pass once the previous pass completed and a lane group is free. -/
  | passTake (c : CtxId)
  /-- R229: A freed lane group is given a ready strip by forced queue and pass age. -/
  | stripDispatch (core : CoreId) (g : BitVec 3)
  /-- R228: A strip finishes on its lane group. -/
  | stripFinish (core : CoreId) (g : BitVec 3)
  /-- R236: A sink completes when its pass has finished and its writes have performed. -/
  | sinkComplete (c : CtxId)
  /-- R43: A full brood table is freed by running a pass or materialising the oldest live node. -/
  | implicitMaterialisation (c : CtxId)
  /-- R242: A parity error reruns a strip, or stops the pass on a second error. -/
  | coreParityError (core : CoreId) (e : CoreError)
  /-- R281: An outer-product step has updated all its rows and its flags enter FLAGS. -/
  | combStepCommit (c : CtxId)
  /-- R286: The stream unit starts fetching rows ahead of the next unassigned row. -/
  | streamRowFetch (c : CtxId) (v : VReg)
  /-- R287: A fetched stream row arrives, or records its fault. -/
  | streamRowArrive (c : CtxId) (v : VReg)
  /-- R365: A walk engine completes a table walk, setting A and D bits. -/
  | pageWalk (c : CtxId) (va : Word) (write : Bool)
  /-- R317: A held bxfer is launched once earlier sinks completed and a slot is free. -/
  | foragerLaunch (c : CtxId)
  /-- R321: All bytes of a chunk have performed and the object is updated. -/
  | foragerChunkLand (x : Nat) (chunk : BitVec 8)
  /-- R335: The last participant arrives, and every waiter acquires and continues. -/
  | barEpisodeComplete (c : CtxId)
  /-- R330: A polling bbwait sees the phase change and performs its acquire. -/
  | bbwaitComplete (c : CtxId)
  /-- R373: A wfe completes on the event bit or a write to its line. -/
  | wfeWake (c : CtxId)
  /-- R373: A wfe completes after 65,536 cycles. -/
  | wfeTimeout (c : CtxId)
  /-- R373: A yield completes after another context issues or 64 cycles. -/
  | yieldComplete (c : CtxId)
  /-- R340: A mesh flit with a bad check code is re-sent. -/
  | meshFlitResend (core : CoreId) (dir : BitVec 2)
  /-- R340: A link failing 16 re-sends is routed round and the nurse notified. -/
  | meshLinkFail (core : CoreId) (dir : BitVec 2)
  /-- R340: A forager buffer parity error recopies a chunk or ends the transfer. -/
  | foragerBufferParity (x : Nat) (chunk : BitVec 8)
  /-- R340: A barrier-wire parity error resends the signal or stops waiters with POISON. -/
  | barrierWireParity (c : CtxId)
  /-- R382: A memory ECC error is corrected or marks the word poisoned and is logged. -/
  | eccError (pa : Word) (uncorrectable : Bool)
  /-- R359: The dispatcher places the head waiting launch when it is placeable. -/
  | launchPlace (die : DieId)
  /-- R361: The completion record is sent once transfers and pod-window stores have drained. -/
  | complete (die : DieId) (seq : Word32)
  /-- R383: A failing nurse stops the die and ends its launches. -/
  | nurseFailure (die : DieId)
  /-- R417: A LAUNCH host message lands in the tenant's inbox. -/
  | launchMessage (die : DieId) (tenant : TenantId) (msg : List Byte)
  /-- R367: An ANSWER message delivers a RESUME or FATAL verdict for a service request. -/
  | answer (die : DieId) (tenant : TenantId) (msg : List Byte)
  /-- R429: A FREEZE message freezes a launch into snapshot slots and reports FROZEN. -/
  | freezeMessage (die : DieId) (tenant : TenantId) (msg : List Byte)
  /-- R416: The management path creates a tenant and its keys. -/
  | tenantCreate (tenant : TenantId) (dies : BitVec 4)
  /-- R354: The management path tears down a tenant in the fixed order. -/
  | tenantTeardown (die : DieId) (tenant : TenantId)
  /-- R353: The nurse writes a tenant record on management command. -/
  | tenantRecordWrite (die : DieId) (tenant : TenantId) (field : TenantField) (value : Word)
  /-- R420: A target package accepts or refuses an incoming pod-window access. -/
  | podRequestAccept (ptid : BitVec 16) (offset : Word) (access : PodAccess)
  /-- R422: The acknowledgement or error of a pod-window write returns. -/
  | podAck (req : Nat) (ok : Bool) (data : List Byte)
  /-- R421: A pod-window load or atomic without answer in 10 ms traps REMOTE. -/
  | podTimeout (req : Nat)
  /-- R316: A read, write or atomic sent over the mesh, a die-to-die link or the fabric performs at its home and its data or acknowledgement returns to the issuer. -/
  | performAtHome (core : CoreId) (k : Nat)
  /-- R382: Memory controllers scrub every word at least every 24 hours. -/
  | scrub (die : DieId)
  /-- R429: A DIRTY message swaps the dirty bitmap into a buffer. -/
  | dirty (die : DieId) (tenant : TenantId) (msg : List Byte)
  /-- R432: An ATTEST message is answered by a signed REPORT. -/
  | attest (die : DieId) (tenant : TenantId) (msg : List Byte)
  /-- R419: The management path sets the package number and pod connection. -/
  | podidWrite (value : Word)
  /-- R420: The management path writes a pod entry or grant table. -/
  | grantWrite (tenant : TenantId) (cmd : GrantCmd)
  /-- R424: The management path writes a link graph, failing if invalid. -/
  | linkGraphWrite (tenant : TenantId) (graph : BitVec 4) (bytes : List Byte)
  /-- R405: The management path writes the waggle registers on every die. -/
  | waggleConfigure (ctl start base slots : Word)
  /-- R408: A sketch control write clears the array and TOTAL and draws new hash constants. -/
  | skctlWrite (die : DieId) (unit : BitVec 1) (value : Word)
  /-- R410: A write to a die or core register that has no row of its own. -/
  | registerWrite (die : DieId) (reg : HwReg) (value : Word)
  /-- R406: Every die latches its counters on each sampled tick and writes a record. -/
  | waggleSample (tick : Word)
  /-- R388: A link flit failing its CRC is dropped and replay requested. -/
  | linkCrcError (l : LinkDir) (seq : Nat)
  /-- R389: A slot return raises the sender's freed count FK. -/
  | slotReturn (l : LinkDir) (ch : Channel) (k : Nat)
  /-- R389: Every 65,536 flit times the receiver sends an audit of FREED. -/
  | auditSend (l : LinkDir) (ch : Channel)
  /-- R389: An audit sets the sender's FK to FREED. -/
  | auditReceive (l : LinkDir) (ch : Channel) (parityOk : Bool)
  /-- R390: A parity or credit error starts a link retrain. -/
  | retrain (l : LinkDir)
  /-- R390: A retrain completes, counts are exchanged and the retry buffer replayed. -/
  | retrainComplete (l : LinkDir)
  /-- R391: A retrain unfinished after 2 ms loses the link and fails its traffic. -/
  | linkLost (l : LinkDir)
  /-- R391: Reserved slots whose flits have not arrived 2 ms after a loss are reclaimed. -/
  | slotReclaim (l : LinkDir) (ch : Channel)
  /-- R400: Every 10 µs the controller steps MVLCAP, clock or dispatch gate per die. -/
  | powerSample (die : DieId) (exceeds riseOk : Bool)
  /-- R402: Path-delay monitors are read at boot and every 24 hours and voltages planned. -/
  | monitorReading (die : DieId) (readings : List (Nat × List Nat))
  /-- R432: Each die's boot ROM checks the firmware signature. -/
  | boot (die : DieId) (signatureOk : Bool)
  /-- R388: The receiver's acknowledgement of a flit sequence number arrives and the sender releases those flits from its retry buffer. -/
  | flitAcknowledgement (l : LinkDir) (seq : Nat)
  /-- R372: eret -/
  | eret
  /-- R373: yield -/
  | yield
  /-- R371: brk -/
  | brk
  /-- R374: dcwb -/
  | dcwb
  /-- R360: halt -/
  | halt
  /-- R265: cbsel.nb -/
  | cbselNb
  /-- R265: cbsel.nm -/
  | cbselNm
  /-- R266: cbfence -/
  | cbfence
  /-- R401: Core-rail current above 6,000 A cuts the rail and stops the package. -/
  | railCut
  /-- R114: A fetched word that no instruction describes traps ILLEGAL precisely at issue. -/
  | undefinedWord
  /-- R102: An instruction fetch from an unmapped, non-canonical or non-executable page faults PAGE or PERM with FAULTVA equal to PC. -/
  | fetchFault
  deriving DecidableEq, Repr

end Sys2Proof
end

