-- ==== Sys2Proof/WellFormed.lean ====
section
/-!
DEFINITION. The codes of the modifier fields (04 R107 to R110, R115, 01 R21) and the checks on an instruction whose
fields are all assigned: what R107, R109, R111, R118 and 06 R163 refuse. What depends on the machine's state (a CSR
number, k0 as a destination, the mode) is the instruction's own business, not this file's.
-/

namespace Sys2Proof

/-- The code of a format (01 R21). -/
def Fmt.code : Fmt → Nat
  | .f32 => 0 | .bf16 => 1 | .f16 => 2 | .e5m2 => 3 | .e4m3 => 4 | .mx8 => 5 | .nx4 => 6 | .ix4 => 7 | .ix8 => 8
  | .i8 => 9 | .i16 => 10 | .i32 => 11 | .i64 => 12 | .n8 => 13 | .n16 => 14 | .n32 => 15 | .n64 => 16
  | .b32 => 17 | .b64 => 18

/-- The format of a code, 0 to 18 (01 R21). -/
def Fmt.ofCode : Nat → Option Fmt
  | 0 => some .f32 | 1 => some .bf16 | 2 => some .f16 | 3 => some .e5m2 | 4 => some .e4m3 | 5 => some .mx8
  | 6 => some .nx4 | 7 => some .ix4 | 8 => some .ix8 | 9 => some .i8 | 10 => some .i16 | 11 => some .i32
  | 12 => some .i64 | 13 => some .n8 | 14 => some .n16 | 15 => some .n32 | 16 => some .n64 | 17 => some .b32
  | 18 => some .b64 | _ => none

/-- The code of a scope (04 R108). -/
def Scope.code : Scope → Nat
  | .ctx => 0 | .core => 1 | .quad => 2 | .die => 3 | .pkg => 4 | .pod => 5

/-- The scope of a code (04 R108). -/
def Scope.ofCode : Nat → Option Scope
  | 0 => some .ctx | 1 => some .core | 2 => some .quad | 3 => some .die | 4 => some .pkg | 5 => some .pod | _ => none

/-- The code of an operand variant (04 R107). -/
def Variant.code : Variant → Nat
  | .vv => 0 | .vs => 1 | .vc => 2 | .vi => 3 | .sv => 4

/-- The operand variant of a code (04 R107). -/
def Variant.ofCode : Nat → Option Variant
  | 0 => some .vv | 1 => some .vs | 2 => some .vc | 3 => some .vi | 4 => some .sv | _ => none

/-- The code of a condition (04 R110). -/
def Cond.code : Cond → Nat
  | .eq => 0 | .ne => 1 | .lt => 2 | .le => 3 | .gt => 4 | .ge => 5 | .un => 6 | .ord => 7

/-- The condition of a code (04 R110). -/
def Cond.ofCode : Nat → Option Cond
  | 0 => some .eq | 1 => some .ne | 2 => some .lt | 3 => some .le | 4 => some .gt | 5 => some .ge | 6 => some .un
  | 7 => some .ord | _ => none

/-- The order field of a fence (04 R109). -/
def FenceOrder.code : FenceOrder → Nat
  | .acq => 1 | .rel => 2 | .ar => 3 | .sc => 3

/-- The sc bit of a fence (04 R109). -/
def FenceOrder.scBit : FenceOrder → Nat
  | .sc => 1 | _ => 0

/-- The order of a fence from its two fields (04 R109). -/
def FenceOrder.ofCode : Nat → Nat → Option FenceOrder
  | 1, 0 => some .acq | 2, 0 => some .rel | 3, 0 => some .ar | 3, 1 => some .sc | _, _ => none

/-- The order field of an atomic (04 R109). -/
def AmoOrder.code : AmoOrder → Nat
  | .rlx => 0 | .acq => 1 | .rel => 2 | .ar => 3

/-- The order of an atomic (04 R109). -/
def AmoOrder.ofCode : Nat → Option AmoOrder
  | 0 => some .rlx | 1 => some .acq | 2 => some .rel | 3 => some .ar | _ => none

/-- The code of a block geometry (03 R83). -/
def Geo.code : Geo → Nat
  | .g16 => 1 | .g32 => 2 | .g64 => 3

/-- The geometry of a code (03 R83). -/
def Geo.ofCode : Nat → Option Geo
  | 1 => some .g16 | 2 => some .g32 | 3 => some .g64 | _ => none

/-- The number of elements in a block (03 R83). -/
def Geo.size : Geo → Nat
  | .g16 => 16 | .g32 => 32 | .g64 => 64

/-- The code of a scan operation (04 R112). -/
def ScanOp.code : ScanOp → Nat
  | .add => 0 | .max => 1 | .min => 2 | .and => 3 | .or => 4 | .xor => 5

/-- The scan operation of a code (04 R112). -/
def ScanOp.ofCode : Nat → Option ScanOp
  | 0 => some .add | 1 => some .max | 2 => some .min | 3 => some .and | 4 => some .or | 5 => some .xor | _ => none

/-- The code of a bit reduction (04 R112). -/
def BitOp.code : BitOp → Nat
  | .and => 0 | .or => 1 | .xor => 2

/-- The bit reduction of a code (04 R112). -/
def BitOp.ofCode : Nat → Option BitOp
  | 0 => some .and | 1 => some .or | 2 => some .xor | _ => none

/-- The formats a scalar or vector conversion names, beside the class of its own (05 R138, 06 R173). -/
def Fmt.scalarConvertible : Fmt → Bool
  | .bf16 | .f16 | .e5m2 | .e4m3 | .i8 | .i16 | .i32 | .i64 | .n8 | .n16 | .n32 | .n64 => true
  | _ => false

/-- The targets of vcvt (06 R173). -/
def Fmt.vectorTarget : Fmt → Bool
  | .b32 | .b64 | .mx8 | .nx4 | .ix4 | .ix8 => false
  | _ => true

/-- The variants that an operation without a codebook form accepts (06 R163). -/
def Variant.noCodebook (v : Variant) : Bool := v != .vc

/-- The variants of the shifts and of vscl (06 R163). -/
def Variant.plain : Variant → Bool
  | .vv | .vs | .vi => true
  | _ => false

/-- The checks of 04 R111 on a bit field: the field ends within the register. -/
def bitFieldOk (pos : BitVec 6) (len : BitVec 5) : Bool := pos.toNat + len.toNat + 1 ≤ 64

/-- What the encoding rules refuse beyond the fields themselves. -/
def Instr.wellFormed : Instr → Bool
  | .bfxZ _ _ pos len | .bfxS _ _ pos len | .bfi _ _ pos len => bitFieldOk pos len
  | .fcvtFromF32 t _ _ | .fcvtToF32 t _ _ => t.scalarConvertible
  | .vcvt t _ _ _ => t.vectorTarget
  | .wcall n _ | .wret n => n != 0
  | .winb n => n != 0
  | .bar sc => sc != .ctx
  | .deadScalar d a => d.toNat ≤ a.toNat
  | .deadVector d a => d.toNat ≤ a.toNat
  | .deadMask d a => d.toNat ≤ a.toNat
  | .vand f _ _ _ _ | .vor f _ _ _ _ | .vxor f _ _ _ _ | .vmulh f _ _ _ _ => f.noCodebook
  | .vshl f _ _ _ _ | .vshr f _ _ _ _ | .vsra f _ _ _ _ | .vscl f _ _ _ _ => f.plain
  | _ => true

end Sys2Proof
end

