-- ==== Sys2Proof/Decode.lean ====
section
/-!
DEFINITION. From instruction words to instructions and back (04 R102 to R122 and the unit chapters).
A word that no row of R112 and R113 describes is refused (R114); which trap that makes is the machine's business.
-/

namespace Sys2Proof

/-- Why a word is no instruction (04 R114): all of them trap ILLEGAL. -/
inductive DecodeError where
  /-- opcode, selector, register class, modifier code or reserved field that R112 does not list -/
  | undefinedWord
  /-- every field is assigned, but R107, R109, R111, R118 or R163 refuses the combination -/
  | illFormed
  /-- fewer than four bytes -/
  | short
  deriving DecidableEq, Repr

/-- Bits [lo+n-1:lo] of a word, as a number. -/
def fld (w lo n : Nat) : Nat := w / 2 ^ lo % 2 ^ n

/-- Bits [lo+n-1:lo] of a word. -/
def bits (w lo n : Nat) : BitVec n := BitVec.ofNat n (w / 2 ^ lo)

/-- Bit lo of a word. -/
def flag (w lo : Nat) : Bool := w / 2 ^ lo % 2 == 1

/-- A word with a field placed at bit lo. -/
def put (lo v w : Nat) : Nat := w + v * 2 ^ lo

/-- Acquire or release flag over a scope field, four bits in all; a plain access has scope 0 (04 R109). -/
def accessScope (c : Nat) : Option (Option Scope) :=
  if c < 8 then (if c = 0 then some none else none) else (Scope.ofCode (c - 8)).map some

/-- The four bits that accessScope reads. -/
def accessCode : Option Scope → Nat
  | none => 0
  | some s => 8 + s.code

/-- Opcode 0x01, by bits [31:28]. -/
def decodeOp01 (w : Nat) : Option Instr :=
  match fld w 28 4 with
  | 0 => some (.add (bits w 7 7) (bits w 14 7) (bits w 21 7))
  | 1 => some (.sub (bits w 7 7) (bits w 14 7) (bits w 21 7))
  | 2 => some (.and (bits w 7 7) (bits w 14 7) (bits w 21 7))
  | 3 => some (.or (bits w 7 7) (bits w 14 7) (bits w 21 7))
  | 4 => some (.xor (bits w 7 7) (bits w 14 7) (bits w 21 7))
  | 5 => some (.shl (bits w 7 7) (bits w 14 7) (bits w 21 7))
  | 6 => some (.shr (bits w 7 7) (bits w 14 7) (bits w 21 7))
  | 7 => some (.sra (bits w 7 7) (bits w 14 7) (bits w 21 7))
  | 8 => some (.slt (bits w 7 7) (bits w 14 7) (bits w 21 7))
  | 9 => some (.sltn (bits w 7 7) (bits w 14 7) (bits w 21 7))
  | 10 => some (.minS (bits w 7 7) (bits w 14 7) (bits w 21 7))
  | 11 => some (.minZ (bits w 7 7) (bits w 14 7) (bits w 21 7))
  | 12 => some (.maxS (bits w 7 7) (bits w 14 7) (bits w 21 7))
  | 13 => some (.maxZ (bits w 7 7) (bits w 14 7) (bits w 21 7))
  | _ => none

/-- Opcode 0x02, by bits [31:28]. -/
def decodeOp02 (w : Nat) : Option Instr :=
  match fld w 28 4 with
  | 0 => some (.mul (bits w 7 7) (bits w 14 7) (bits w 21 7))
  | 1 => some (.mulhS (bits w 7 7) (bits w 14 7) (bits w 21 7))
  | 2 => some (.mulhZ (bits w 7 7) (bits w 14 7) (bits w 21 7))
  | 3 => some (.divS (bits w 7 7) (bits w 14 7) (bits w 21 7))
  | 4 => some (.divZ (bits w 7 7) (bits w 14 7) (bits w 21 7))
  | 5 => some (.remS (bits w 7 7) (bits w 14 7) (bits w 21 7))
  | 6 => some (.remZ (bits w 7 7) (bits w 14 7) (bits w 21 7))
  | _ => none

/-- Opcode 0x03, by bits [31:28]. -/
def decodeOp03 (w : Nat) : Option Instr :=
  match fld w 28 4 with
  | 0 => if fld w 21 7 = 0 then some (.clz (bits w 7 7) (bits w 14 7)) else none
  | 1 => if fld w 21 7 = 0 then some (.ctz (bits w 7 7) (bits w 14 7)) else none
  | 2 => if fld w 21 7 = 0 then some (.popc (bits w 7 7) (bits w 14 7)) else none
  | 3 => if fld w 21 7 = 0 then some (.bswap (bits w 7 7) (bits w 14 7)) else none
  | 4 => some (.fsh (bits w 7 7) (bits w 14 7) (bits w 21 7))
  | _ => none

/-- Opcode 0x04. -/
def decodeOp04 (w : Nat) : Option Instr :=
  some (.addi (bits w 7 7) (bits w 14 7) (bits w 21 11))

/-- Opcode 0x05. -/
def decodeOp05 (w : Nat) : Option Instr :=
  some (.andi (bits w 7 7) (bits w 14 7) (bits w 21 11))

/-- Opcode 0x06. -/
def decodeOp06 (w : Nat) : Option Instr :=
  some (.ori (bits w 7 7) (bits w 14 7) (bits w 21 11))

/-- Opcode 0x07. -/
def decodeOp07 (w : Nat) : Option Instr :=
  some (.xori (bits w 7 7) (bits w 14 7) (bits w 21 11))

/-- Opcode 0x08. -/
def decodeOp08 (w : Nat) : Option Instr :=
  if fld w 27 5 = 0 then some (.shli (bits w 7 7) (bits w 14 7) (bits w 21 6)) else none

/-- Opcode 0x09. -/
def decodeOp09 (w : Nat) : Option Instr :=
  if fld w 27 5 = 0 then some (.shri (bits w 7 7) (bits w 14 7) (bits w 21 6)) else none

/-- Opcode 0x0A. -/
def decodeOp0A (w : Nat) : Option Instr :=
  if fld w 27 5 = 0 then some (.srai (bits w 7 7) (bits w 14 7) (bits w 21 6)) else none

/-- Opcode 0x0B. -/
def decodeOp0B (w : Nat) : Option Instr :=
  some (.bfxZ (bits w 7 7) (bits w 14 7) (bits w 21 6) (bits w 27 5))

/-- Opcode 0x0C. -/
def decodeOp0C (w : Nat) : Option Instr :=
  some (.bfxS (bits w 7 7) (bits w 14 7) (bits w 21 6) (bits w 27 5))

/-- Opcode 0x0D. -/
def decodeOp0D (w : Nat) : Option Instr :=
  some (.bfi (bits w 7 7) (bits w 14 7) (bits w 21 6) (bits w 27 5))

/-- Opcode 0x0E. -/
def decodeOp0E (w : Nat) : Option Instr :=
  some (.lui (bits w 7 7) (bits w 14 18))

/-- Opcode 0x0F. -/
def decodeOp0F (w : Nat) : Option Instr :=
  some (.pcadd (bits w 7 7) (bits w 14 18))

/-- Opcode 0x10, by bits [31:28]. -/
def decodeOp10 (w : Nat) : Option Instr :=
  match fld w 28 4 with
  | 0 => some (.fadd (bits w 7 7) (bits w 14 7) (bits w 21 7))
  | 1 => some (.fsub (bits w 7 7) (bits w 14 7) (bits w 21 7))
  | 2 => some (.fmul (bits w 7 7) (bits w 14 7) (bits w 21 7))
  | 3 => some (.fdiv (bits w 7 7) (bits w 14 7) (bits w 21 7))
  | 4 => some (.fmin (bits w 7 7) (bits w 14 7) (bits w 21 7))
  | 5 => some (.fmax (bits w 7 7) (bits w 14 7) (bits w 21 7))
  | 6 => if fld w 21 7 = 0 then some (.fsqrt (bits w 7 7) (bits w 14 7)) else none
  | 7 => some (.fma (bits w 7 7) (bits w 14 7) (bits w 21 7))
  | 8 => some (.fcmpEq (bits w 7 7) (bits w 14 7) (bits w 21 7))
  | 9 => some (.fcmpLt (bits w 7 7) (bits w 14 7) (bits w 21 7))
  | 10 => some (.fcmpLe (bits w 7 7) (bits w 14 7) (bits w 21 7))
  | 11 => some (.fcmpUn (bits w 7 7) (bits w 14 7) (bits w 21 7))
  | 12 =>
    match fld w 26 2 with
    | 0 => (Fmt.ofCode (fld w 21 5)).bind fun t => some (.fcvtFromF32 t (bits w 7 7) (bits w 14 7))
    | 1 => (Fmt.ofCode (fld w 21 5)).bind fun t => some (.fcvtToF32 t (bits w 7 7) (bits w 14 7))
    | _ => none
  | _ => none

/-- Opcode 0x20, by bits [31:31]. -/
def decodeOp20 (w : Nat) : Option Instr :=
  match fld w 31 1 with
  | 0 => (accessScope (fld w 27 4)).bind fun acq => some (.ldb (flag w 26) acq (bits w 20 6) (bits w 14 6) (bits w 7 7))
  | 1 => (accessScope (fld w 27 4)).bind fun acq => some (.ldh (flag w 26) acq (bits w 20 6) (bits w 14 6) (bits w 7 7))
  | _ => none

/-- Opcode 0x21, by bits [31:31]. -/
def decodeOp21 (w : Nat) : Option Instr :=
  match fld w 31 1 with
  | 0 => (accessScope (fld w 27 4)).bind fun acq => some (.ldw (flag w 26) acq (bits w 20 6) (bits w 14 6) (bits w 7 7))
  | 1 => if fld w 26 1 = 0 then (accessScope (fld w 27 4)).bind fun acq => some (.ldd acq (bits w 20 6) (bits w 14 6) (bits w 7 7)) else none
  | _ => none

/-- Opcode 0x22, by bits [31:31]. -/
def decodeOp22 (w : Nat) : Option Instr :=
  match fld w 31 1 with
  | 0 => (accessScope (fld w 27 4)).bind fun rel => some (.stb rel (bits w 20 7) (bits w 14 6) (bits w 7 7))
  | 1 => (accessScope (fld w 27 4)).bind fun rel => some (.sth rel (bits w 20 7) (bits w 14 6) (bits w 7 7))
  | _ => none

/-- Opcode 0x23, by bits [31:31]. -/
def decodeOp23 (w : Nat) : Option Instr :=
  match fld w 31 1 with
  | 0 => (accessScope (fld w 27 4)).bind fun rel => some (.stw rel (bits w 20 7) (bits w 14 6) (bits w 7 7))
  | 1 => (accessScope (fld w 27 4)).bind fun rel => some (.std rel (bits w 20 7) (bits w 14 6) (bits w 7 7))
  | _ => none

/-- Opcode 0x24. -/
def decodeOp24 (w : Nat) : Option Instr :=
  if fld w 8 19 = 0 then (FenceOrder.ofCode (fld w 30 2) (fld w 7 1)).bind fun o => (Scope.ofCode (fld w 27 3)).bind fun sc => some (.fence o sc) else none

/-- Opcode 0x25. -/
def decodeOp25 (w : Nat) : Option Instr :=
  (AmoOrder.ofCode (fld w 30 2)).bind fun o => (Scope.ofCode (fld w 27 3)).bind fun sc => some (.amoadd o sc (flag w 26) (bits w 20 6) (bits w 14 6) (bits w 7 7))

/-- Opcode 0x26. -/
def decodeOp26 (w : Nat) : Option Instr :=
  (AmoOrder.ofCode (fld w 30 2)).bind fun o => (Scope.ofCode (fld w 27 3)).bind fun sc => some (.amoswp o sc (flag w 26) (bits w 20 6) (bits w 14 6) (bits w 7 7))

/-- Opcode 0x27. -/
def decodeOp27 (w : Nat) : Option Instr :=
  (AmoOrder.ofCode (fld w 30 2)).bind fun o => (Scope.ofCode (fld w 27 3)).bind fun sc => some (.amocas o sc (flag w 26) (bits w 20 6) (bits w 14 6) (bits w 7 7))

/-- Opcode 0x28. -/
def decodeOp28 (w : Nat) : Option Instr :=
  (AmoOrder.ofCode (fld w 30 2)).bind fun o => (Scope.ofCode (fld w 27 3)).bind fun sc => some (.amominS o sc (flag w 26) (bits w 20 6) (bits w 14 6) (bits w 7 7))

/-- Opcode 0x29. -/
def decodeOp29 (w : Nat) : Option Instr :=
  (AmoOrder.ofCode (fld w 30 2)).bind fun o => (Scope.ofCode (fld w 27 3)).bind fun sc => some (.amominZ o sc (flag w 26) (bits w 20 6) (bits w 14 6) (bits w 7 7))

/-- Opcode 0x2A. -/
def decodeOp2A (w : Nat) : Option Instr :=
  (AmoOrder.ofCode (fld w 30 2)).bind fun o => (Scope.ofCode (fld w 27 3)).bind fun sc => some (.amomaxS o sc (flag w 26) (bits w 20 6) (bits w 14 6) (bits w 7 7))

/-- Opcode 0x2B. -/
def decodeOp2B (w : Nat) : Option Instr :=
  (AmoOrder.ofCode (fld w 30 2)).bind fun o => (Scope.ofCode (fld w 27 3)).bind fun sc => some (.amomaxZ o sc (flag w 26) (bits w 20 6) (bits w 14 6) (bits w 7 7))

/-- Opcode 0x2C. -/
def decodeOp2C (w : Nat) : Option Instr :=
  (AmoOrder.ofCode (fld w 30 2)).bind fun o => (Scope.ofCode (fld w 27 3)).bind fun sc => some (.amoand o sc (flag w 26) (bits w 20 6) (bits w 14 6) (bits w 7 7))

/-- Opcode 0x2D. -/
def decodeOp2D (w : Nat) : Option Instr :=
  (AmoOrder.ofCode (fld w 30 2)).bind fun o => (Scope.ofCode (fld w 27 3)).bind fun sc => some (.amoor o sc (flag w 26) (bits w 20 6) (bits w 14 6) (bits w 7 7))

/-- Opcode 0x2E. -/
def decodeOp2E (w : Nat) : Option Instr :=
  (AmoOrder.ofCode (fld w 30 2)).bind fun o => (Scope.ofCode (fld w 27 3)).bind fun sc => some (.amoxor o sc (flag w 26) (bits w 20 6) (bits w 14 6) (bits w 7 7))

/-- Opcode 0x30. -/
def decodeOp30 (w : Nat) : Option Instr :=
  some (.beq (bits w 7 7) (bits w 14 7) (bits w 21 11))

/-- Opcode 0x31. -/
def decodeOp31 (w : Nat) : Option Instr :=
  some (.bne (bits w 7 7) (bits w 14 7) (bits w 21 11))

/-- Opcode 0x32. -/
def decodeOp32 (w : Nat) : Option Instr :=
  some (.blt (bits w 7 7) (bits w 14 7) (bits w 21 11))

/-- Opcode 0x33. -/
def decodeOp33 (w : Nat) : Option Instr :=
  some (.bge (bits w 7 7) (bits w 14 7) (bits w 21 11))

/-- Opcode 0x34. -/
def decodeOp34 (w : Nat) : Option Instr :=
  some (.bltn (bits w 7 7) (bits w 14 7) (bits w 21 11))

/-- Opcode 0x35. -/
def decodeOp35 (w : Nat) : Option Instr :=
  some (.bgen (bits w 7 7) (bits w 14 7) (bits w 21 11))

/-- Opcode 0x36. -/
def decodeOp36 (w : Nat) : Option Instr :=
  some (.jal (bits w 7 7) (bits w 14 18))

/-- Opcode 0x37, by bits [31:29]. -/
def decodeOp37 (w : Nat) : Option Instr :=
  match fld w 29 3 with
  | 0 => some (.jalr (bits w 7 7) (bits w 14 7) (bits w 21 8))
  | 1 => if fld w 10 4 = 0 then some (.wcall (bits w 7 3) (bits w 14 15)) else none
  | 2 => if fld w 10 19 = 0 then some (.wret (bits w 7 3)) else none
  | 3 => if fld w 11 18 = 0 then some (.winb (bits w 7 4)) else none
  | 4 => if fld w 10 11 = 0 then some (.rep (bits w 27 2) (bits w 21 6) (bits w 7 3)) else none
  | 5 => if fld w 11 3 = 0 then some (.bkany (bits w 7 4) (bits w 14 15)) else none
  | 6 => if fld w 11 3 = 0 then some (.bknone (bits w 7 4) (bits w 14 15)) else none
  | _ => none

/-- Opcode 0x38. -/
def decodeOp38 (w : Nat) : Option Instr :=
  if fld w 14 7 = 0 then some (.csrr (bits w 7 7) (bits w 21 11)) else none

/-- Opcode 0x39. -/
def decodeOp39 (w : Nat) : Option Instr :=
  some (.csrw (bits w 7 7) (bits w 14 7) (bits w 21 11))

/-- Opcode 0x3A. -/
def decodeOp3A (w : Nat) : Option Instr :=
  some (.csrset (bits w 7 7) (bits w 14 7) (bits w 21 11))

/-- Opcode 0x3B. -/
def decodeOp3B (w : Nat) : Option Instr :=
  some (.csrclr (bits w 7 7) (bits w 14 7) (bits w 21 11))

/-- Opcode 0x3C, by bits [31:28]. -/
def decodeOp3C (w : Nat) : Option Instr :=
  match fld w 28 4 with
  | 0 => if fld w 7 7 = 0 ∧ fld w 21 7 = 0 then some (.trap (bits w 14 7)) else none
  | 1 => if fld w 7 7 = 0 ∧ fld w 14 7 = 0 ∧ fld w 21 7 = 0 then some .eret else none
  | 2 => if fld w 7 7 = 0 ∧ fld w 21 7 = 0 then some (.wfe (bits w 14 7)) else none
  | 3 => if fld w 7 7 = 0 ∧ fld w 14 7 = 0 ∧ fld w 21 7 = 0 then some .yield else none
  | 4 => if fld w 7 7 = 0 ∧ fld w 14 7 = 0 ∧ fld w 21 7 = 0 then some .brk else none
  | 5 => if fld w 7 7 = 0 then some (.tlbinv (bits w 14 7) (bits w 21 7)) else none
  | 6 => if fld w 7 7 = 0 ∧ fld w 14 7 = 0 ∧ fld w 21 7 = 0 then some .dcwb else none
  | 7 => if fld w 7 7 = 0 then some (.dcinv (bits w 14 7) (bits w 21 7)) else none
  | 8 => if fld w 7 7 = 0 ∧ fld w 14 7 = 0 ∧ fld w 21 7 = 0 then some .halt else none
  | 9 => some (.freeze (bits w 7 7) (bits w 14 7) (bits w 21 7))
  | 10 => some (.launch (bits w 7 7) (bits w 14 7) (bits w 21 7))
  | 11 => if fld w 21 7 = 0 then some (.lwait (bits w 7 7) (bits w 14 7)) else none
  | _ => none

/-- Opcode 0x40. -/
def decodeOp40 (w : Nat) : Option Instr :=
  (Variant.ofCode (fld w 29 3)).bind fun f => some (.vadd f (flag w 28) (bits w 7 7) (bits w 14 7) (bits w 21 7))

/-- Opcode 0x41. -/
def decodeOp41 (w : Nat) : Option Instr :=
  (Variant.ofCode (fld w 29 3)).bind fun f => some (.vsub f (flag w 28) (bits w 7 7) (bits w 14 7) (bits w 21 7))

/-- Opcode 0x42. -/
def decodeOp42 (w : Nat) : Option Instr :=
  (Variant.ofCode (fld w 29 3)).bind fun f => some (.vmul f (flag w 28) (bits w 7 7) (bits w 14 7) (bits w 21 7))

/-- Opcode 0x43. -/
def decodeOp43 (w : Nat) : Option Instr :=
  (Variant.ofCode (fld w 29 3)).bind fun f => some (.vdiv f (flag w 28) (bits w 7 7) (bits w 14 7) (bits w 21 7))

/-- Opcode 0x44. -/
def decodeOp44 (w : Nat) : Option Instr :=
  (Variant.ofCode (fld w 29 3)).bind fun f => some (.vmin f (flag w 28) (bits w 7 7) (bits w 14 7) (bits w 21 7))

/-- Opcode 0x45. -/
def decodeOp45 (w : Nat) : Option Instr :=
  (Variant.ofCode (fld w 29 3)).bind fun f => some (.vmax f (flag w 28) (bits w 7 7) (bits w 14 7) (bits w 21 7))

/-- Opcode 0x46. -/
def decodeOp46 (w : Nat) : Option Instr :=
  (Variant.ofCode (fld w 29 3)).bind fun f => some (.vfma f (flag w 28) (bits w 7 7) (bits w 14 7) (bits w 21 7))

/-- Opcode 0x47. -/
def decodeOp47 (w : Nat) : Option Instr :=
  (Variant.ofCode (fld w 29 3)).bind fun f => some (.vfms f (flag w 28) (bits w 7 7) (bits w 14 7) (bits w 21 7))

/-- Opcode 0x48, by bits [27:21]. -/
def decodeOp48 (w : Nat) : Option Instr :=
  match fld w 21 7 with
  | 0 => if fld w 29 3 = 0 then some (.vsqrt (flag w 28) (bits w 7 7) (bits w 14 7)) else none
  | 1 => if fld w 29 3 = 0 then some (.vabs (flag w 28) (bits w 7 7) (bits w 14 7)) else none
  | 2 => if fld w 29 3 = 0 then some (.vneg (flag w 28) (bits w 7 7) (bits w 14 7)) else none
  | 3 => if fld w 29 3 = 0 then some (.vrcp (flag w 28) (bits w 7 7) (bits w 14 7)) else none
  | 4 => if fld w 29 3 = 0 then some (.vrsq (flag w 28) (bits w 7 7) (bits w 14 7)) else none
  | 5 => if fld w 29 3 = 0 then some (.vexp2 (flag w 28) (bits w 7 7) (bits w 14 7)) else none
  | 6 => if fld w 29 3 = 0 then some (.vlog2 (flag w 28) (bits w 7 7) (bits w 14 7)) else none
  | 7 => if fld w 29 3 = 0 then some (.vtanh (flag w 28) (bits w 7 7) (bits w 14 7)) else none
  | 8 => if fld w 29 3 = 0 then some (.vsigm (flag w 28) (bits w 7 7) (bits w 14 7)) else none
  | _ => none

/-- Opcode 0x49. -/
def decodeOp49 (w : Nat) : Option Instr :=
  (Variant.ofCode (fld w 29 3)).bind fun f => some (.vand f (flag w 28) (bits w 7 7) (bits w 14 7) (bits w 21 7))

/-- Opcode 0x4A. -/
def decodeOp4A (w : Nat) : Option Instr :=
  (Variant.ofCode (fld w 29 3)).bind fun f => some (.vor f (flag w 28) (bits w 7 7) (bits w 14 7) (bits w 21 7))

/-- Opcode 0x4B. -/
def decodeOp4B (w : Nat) : Option Instr :=
  (Variant.ofCode (fld w 29 3)).bind fun f => some (.vxor f (flag w 28) (bits w 7 7) (bits w 14 7) (bits w 21 7))

/-- Opcode 0x4C. -/
def decodeOp4C (w : Nat) : Option Instr :=
  (Variant.ofCode (fld w 29 3)).bind fun f => some (.vshl f (flag w 28) (bits w 7 7) (bits w 14 7) (bits w 21 7))

/-- Opcode 0x4D. -/
def decodeOp4D (w : Nat) : Option Instr :=
  (Variant.ofCode (fld w 29 3)).bind fun f => some (.vshr f (flag w 28) (bits w 7 7) (bits w 14 7) (bits w 21 7))

/-- Opcode 0x4E. -/
def decodeOp4E (w : Nat) : Option Instr :=
  (Variant.ofCode (fld w 29 3)).bind fun f => some (.vsra f (flag w 28) (bits w 7 7) (bits w 14 7) (bits w 21 7))

/-- Opcode 0x4F. -/
def decodeOp4F (w : Nat) : Option Instr :=
  (Variant.ofCode (fld w 29 3)).bind fun f => some (.vmulh f (flag w 28) (bits w 7 7) (bits w 14 7) (bits w 21 7))

/-- Opcode 0x50. -/
def decodeOp50 (w : Nat) : Option Instr :=
  (Variant.ofCode (fld w 29 3)).bind fun f => (Cond.ofCode (fld w 11 3)).bind fun cc => some (.vcmp f (flag w 28) cc (bits w 7 4) (bits w 14 7) (bits w 21 7))

/-- Opcode 0x51. -/
def decodeOp51 (w : Nat) : Option Instr :=
  if fld w 28 1 = 1 then (Variant.ofCode (fld w 29 3)).bind fun f => some (.vsel f (bits w 7 7) (bits w 14 7) (bits w 21 7)) else none

/-- Opcode 0x52. -/
def decodeOp52 (w : Nat) : Option Instr :=
  if fld w 29 3 = 0 ∧ fld w 26 2 = 0 then (Fmt.ofCode (fld w 21 5)).bind fun t => some (.vcvt t (flag w 28) (bits w 7 7) (bits w 14 7)) else none

/-- Opcode 0x53. -/
def decodeOp53 (w : Nat) : Option Instr :=
  (Variant.ofCode (fld w 29 3)).bind fun f => some (.vscl f (flag w 28) (bits w 7 7) (bits w 14 7) (bits w 21 7))

/-- Opcode 0x54. -/
def decodeOp54 (w : Nat) : Option Instr :=
  if fld w 29 3 = 0 ∧ fld w 23 5 = 0 then (Geo.ofCode (fld w 21 2)).bind fun g => some (.vblk g (flag w 28) (bits w 7 7) (bits w 14 7)) else none

/-- Opcode 0x55, by bits [27:21]. -/
def decodeOp55 (w : Nat) : Option Instr :=
  match fld w 21 7 with
  | 0 => if fld w 29 3 = 0 then some (.vrngRaw (flag w 28) (bits w 7 7) (bits w 14 7)) else none
  | 1 => if fld w 29 3 = 0 then some (.vrngUnif (flag w 28) (bits w 7 7) (bits w 14 7)) else none
  | _ => none

/-- Opcode 0x56. -/
def decodeOp56 (w : Nat) : Option Instr :=
  some (.setvli (bits w 7 7) (bits w 14 7) (bits w 21 11))

/-- Opcode 0x57, by bits [31:28]. -/
def decodeOp57 (w : Nat) : Option Instr :=
  match fld w 28 4 with
  | 0 => some (.setvl (bits w 7 7) (bits w 14 7) (bits w 21 7))
  | 1 => if fld w 7 7 = 0 ∧ fld w 21 7 = 0 then some (.setel (bits w 14 7)) else none
  | 2 => if fld w 14 7 = 0 ∧ fld w 21 7 = 0 then some (.vforce (bits w 7 7)) else none
  | 3 => if fld w 21 7 = 0 then some (.deadScalar (bits w 7 7) (bits w 14 7)) else none
  | 4 => if fld w 21 7 = 0 then some (.deadVector (bits w 7 7) (bits w 14 7)) else none
  | 5 => if fld w 11 3 = 0 ∧ fld w 18 3 = 0 ∧ fld w 21 7 = 0 then some (.deadMask (bits w 7 4) (bits w 14 4)) else none
  | _ => none

/-- Opcode 0x58, by bits [31:28]. -/
def decodeOp58 (w : Nat) : Option Instr :=
  match fld w 28 4 with
  | 0 => if fld w 11 3 = 0 ∧ fld w 18 3 = 0 ∧ fld w 25 3 = 0 then some (.kmeet (bits w 7 4) (bits w 14 4) (bits w 21 4)) else none
  | 1 => if fld w 11 3 = 0 ∧ fld w 18 3 = 0 ∧ fld w 25 3 = 0 then some (.kjoin (bits w 7 4) (bits w 14 4) (bits w 21 4)) else none
  | 2 => if fld w 11 3 = 0 ∧ fld w 18 3 = 0 ∧ fld w 25 3 = 0 then some (.kdiff (bits w 7 4) (bits w 14 4) (bits w 21 4)) else none
  | 3 => if fld w 11 3 = 0 ∧ fld w 18 3 = 0 ∧ fld w 25 3 = 0 then some (.kless (bits w 7 4) (bits w 14 4) (bits w 21 4)) else none
  | 4 => if fld w 11 3 = 0 ∧ fld w 18 3 = 0 ∧ fld w 21 7 = 0 then some (.kflip (bits w 7 4) (bits w 14 4)) else none
  | 5 => if fld w 11 3 = 0 ∧ fld w 18 3 = 0 ∧ fld w 21 7 = 0 then some (.kcopy (bits w 7 4) (bits w 14 4)) else none
  | 6 => if fld w 11 3 = 0 ∧ fld w 18 3 = 0 ∧ fld w 21 7 = 0 then some (.kmsk (bits w 7 4) (bits w 14 4)) else none
  | 7 => if fld w 11 3 = 0 ∧ fld w 21 7 = 0 then some (.kset (bits w 7 4) (bits w 14 7)) else none
  | 8 => if fld w 18 3 = 0 ∧ fld w 21 7 = 0 then some (.kpop (bits w 7 7) (bits w 14 4)) else none
  | 9 => if fld w 18 3 = 0 ∧ fld w 21 7 = 0 then some (.kfirst (bits w 7 7) (bits w 14 4)) else none
  | _ => none

/-- Opcode 0x60, by bits [29:27]. -/
def decodeOp60 (w : Nat) : Option Instr :=
  match fld w 27 3 with
  | 0 => if fld w 31 1 = 0 then some (.vld (flag w 30) (bits w 7 7) (bits w 14 6) (bits w 20 7)) else none
  | 1 => if fld w 31 1 = 0 then some (.vlds (flag w 30) (bits w 7 7) (bits w 14 6) (bits w 20 7)) else none
  | 2 => if fld w 31 1 = 0 then some (.vldx (flag w 30) (bits w 7 7) (bits w 14 6) (bits w 20 7)) else none
  | 3 => if fld w 31 1 = 0 then some (.vldb (flag w 30) (bits w 7 7) (bits w 14 6) (bits w 20 7)) else none
  | _ => none

/-- Opcode 0x61, by bits [29:27]. -/
def decodeOp61 (w : Nat) : Option Instr :=
  match fld w 27 3 with
  | 0 => if fld w 31 1 = 0 then some (.vst (flag w 30) (bits w 7 7) (bits w 14 6) (bits w 20 7)) else none
  | 1 => if fld w 31 1 = 0 then some (.vsts (flag w 30) (bits w 7 7) (bits w 14 6) (bits w 20 7)) else none
  | 2 => if fld w 31 1 = 0 then some (.vstx (flag w 30) (bits w 7 7) (bits w 14 6) (bits w 20 7)) else none
  | _ => none

/-- Opcode 0x62. -/
def decodeOp62 (w : Nat) : Option Instr :=
  if fld w 28 4 = 0 then some (.vext (bits w 7 7) (bits w 14 7) (bits w 21 7)) else none

/-- Opcode 0x63. -/
def decodeOp63 (w : Nat) : Option Instr :=
  if fld w 29 3 = 0 then some (.vslup (flag w 28) (bits w 7 7) (bits w 14 7) (bits w 21 7)) else none

/-- Opcode 0x64. -/
def decodeOp64 (w : Nat) : Option Instr :=
  if fld w 29 3 = 0 then some (.vsldn (flag w 28) (bits w 7 7) (bits w 14 7) (bits w 21 7)) else none

/-- Opcode 0x65. -/
def decodeOp65 (w : Nat) : Option Instr :=
  if fld w 29 3 = 0 then some (.vperm (flag w 28) (bits w 7 7) (bits w 14 7) (bits w 21 7)) else none

/-- Opcode 0x66. -/
def decodeOp66 (w : Nat) : Option Instr :=
  if fld w 29 3 = 0 ∧ fld w 21 7 = 0 then some (.vcmpr (flag w 28) (bits w 7 7) (bits w 14 7)) else none

/-- Opcode 0x67. -/
def decodeOp67 (w : Nat) : Option Instr :=
  if fld w 29 3 = 0 ∧ fld w 21 7 = 0 then some (.vexpd (flag w 28) (bits w 7 7) (bits w 14 7)) else none

/-- Opcode 0x68. -/
def decodeOp68 (w : Nat) : Option Instr :=
  if fld w 29 3 = 0 then (ScanOp.ofCode (fld w 21 7)).bind fun op => some (.vscan op (flag w 28) (bits w 7 7) (bits w 14 7)) else none

/-- Opcode 0x69, by bits [23:21]. -/
def decodeOp69 (w : Nat) : Option Instr :=
  match fld w 21 3 with
  | 0 => if fld w 29 3 = 0 ∧ fld w 21 7 = 0 then some (.vrsumo (flag w 28) (bits w 7 7) (bits w 14 7)) else none
  | 1 => if fld w 29 3 = 0 ∧ fld w 21 7 = 1 then some (.vrsumt (flag w 28) (bits w 7 7) (bits w 14 7)) else none
  | 2 => if fld w 29 3 = 0 ∧ fld w 21 7 = 2 then some (.vrmax (flag w 28) (bits w 7 7) (bits w 14 7)) else none
  | 3 => if fld w 29 3 = 0 ∧ fld w 21 7 = 3 then some (.vrmin (flag w 28) (bits w 7 7) (bits w 14 7)) else none
  | 4 => if fld w 29 3 = 0 ∧ fld w 21 7 = 4 then some (.vrargx (flag w 28) (bits w 7 7) (bits w 14 7)) else none
  | 5 => if fld w 29 3 = 0 ∧ fld w 26 2 = 0 then (BitOp.ofCode (fld w 24 2)).bind fun op => some (.vrbit op (flag w 28) (bits w 7 7) (bits w 14 7)) else none
  | _ => none

/-- Opcode 0x70, by bits [31:29]. -/
def decodeOp70 (w : Nat) : Option Instr :=
  match fld w 29 3 with
  | 0 => if fld w 28 4 = 0 ∧ fld w 21 7 = 0 then some (.vpart (bits w 7 7) (bits w 14 7)) else none
  | 1 => some (.vlpld (flag w 28) (bits w 7 7) (bits w 14 7) (bits w 21 7))
  | 2 => some (.vlpst (flag w 28) (bits w 7 7) (bits w 14 7) (bits w 21 7))
  | 3 => if fld w 14 7 = 0 then some (.vlpstB (flag w 28) (bits w 7 7) (bits w 21 7)) else none
  | _ => none

/-- Opcode 0x71, by bits [31:28]. -/
def decodeOp71 (w : Nat) : Option Instr :=
  match fld w 28 4 with
  | 0 => if fld w 11 3 = 0 then some (.cbld (bits w 7 4) (bits w 14 7) (bits w 21 7)) else none
  | 1 => if fld w 11 3 = 0 then some (.cbst (bits w 7 4) (bits w 14 7) (bits w 21 7)) else none
  | 2 => if fld w 11 3 = 0 then some (.cbwr (bits w 7 4) (bits w 14 7) (bits w 21 7)) else none
  | 3 => if fld w 18 3 = 0 then some (.cbrd (bits w 7 7) (bits w 14 4) (bits w 21 7)) else none
  | 4 => if fld w 11 3 = 0 then some (.cbval (bits w 7 4) (bits w 14 7) (bits w 21 7)) else none
  | 5 =>
    match fld w 21 7 with
    | 0 => if fld w 11 3 = 0 ∧ fld w 14 7 = 0 then some (.cbselB (bits w 7 4)) else none
    | 1 => if fld w 11 3 = 0 ∧ fld w 14 7 = 0 then some (.cbselM (bits w 7 4)) else none
    | 2 => if fld w 7 14 = 0 then some .cbselNb else none
    | 3 => if fld w 7 14 = 0 then some .cbselNm else none
    | _ => none
  | 6 => if fld w 7 7 = 0 ∧ fld w 14 7 = 0 ∧ fld w 21 7 = 0 then some .cbfence else none
  | 7 => if fld w 25 3 = 0 then some (.vcbx (bits w 7 7) (bits w 14 7) (bits w 21 4)) else none
  | _ => none

/-- Opcode 0x72, by bits [31:29]. -/
def decodeOp72 (w : Nat) : Option Instr :=
  match fld w 29 3 with
  | 0 => if fld w 9 5 = 0 then some (.comba (flag w 28) (bits w 7 2) (bits w 14 7) (bits w 21 7)) else none
  | 1 => if fld w 9 5 = 0 then some (.combs (flag w 28) (bits w 7 2) (bits w 14 7) (bits w 21 7)) else none
  | 2 => if fld w 28 1 = 0 ∧ fld w 9 5 = 0 then some (.combi (bits w 7 2) (bits w 14 7) (bits w 21 7)) else none
  | _ => none

/-- Opcode 0x73, by bits [31:28]. -/
def decodeOp73 (w : Nat) : Option Instr :=
  match fld w 28 4 with
  | 0 => if fld w 21 7 = 0 then some (.msetvl (bits w 7 7) (bits w 14 7)) else none
  | 1 => if fld w 9 5 = 0 ∧ fld w 14 7 = 0 ∧ fld w 21 7 = 0 then some (.mzero (bits w 7 2)) else none
  | 2 => if fld w 16 5 = 0 then some (.mrdr (bits w 7 7) (bits w 14 2) (bits w 21 7)) else none
  | 3 => if fld w 16 5 = 0 then some (.mrdc (bits w 7 7) (bits w 14 2) (bits w 21 7)) else none
  | 4 => if fld w 9 5 = 0 then some (.mwrr (bits w 7 2) (bits w 14 7) (bits w 21 7)) else none
  | 5 => if fld w 9 5 = 0 then some (.mld (bits w 7 2) (bits w 14 7) (bits w 21 7)) else none
  | 6 => if fld w 9 5 = 0 then some (.mst (bits w 7 2) (bits w 14 7) (bits w 21 7)) else none
  | 7 => if fld w 21 7 = 0 then some (.smode (bits w 7 7) (bits w 14 7)) else none
  | 8 => if fld w 14 7 = 0 ∧ fld w 21 7 = 0 then some (.sexit (bits w 7 7)) else none
  | 9 => if fld w 21 7 = 0 then some (.sprog (bits w 7 7) (bits w 14 7)) else none
  | _ => none

/-- Opcode 0x74, by bits [31:28]. -/
def decodeOp74 (w : Nat) : Option Instr :=
  match fld w 28 4 with
  | 0 => if fld w 8 6 = 0 then some (.cvset (bits w 7 1) (bits w 14 7) (bits w 21 7)) else none
  | 1 => if fld w 8 6 = 0 ∧ fld w 21 7 = 0 then some (.cvwt (bits w 7 1) (bits w 14 7)) else none
  | 2 => if fld w 15 6 = 0 then some (.cvprb (bits w 7 7) (bits w 14 1) (bits w 21 7)) else none
  | 3 => some (.cvprbb (bits w 7 7) (bits w 14 1) (bits w 15 6) (bits w 21 7))
  | 4 => if fld w 8 6 = 0 ∧ fld w 21 7 = 0 then some (.cvcom (bits w 7 1) (bits w 14 7)) else none
  | 5 => some (.cvsel (bits w 7 7) (bits w 14 7) (bits w 21 7))
  | 6 => if fld w 15 6 = 0 then some (.cvrd (bits w 7 7) (bits w 14 1) (bits w 21 7)) else none
  | _ => none

/-- Opcode 0x78. -/
def decodeOp78 (w : Nat) : Option Instr :=
  some (.bxfer (bits w 28 4) (bits w 7 7) (bits w 14 7) (bits w 21 7))

/-- Opcode 0x79, by bits [31:28]. -/
def decodeOp79 (w : Nat) : Option Instr :=
  match fld w 28 4 with
  | 0 => if fld w 7 7 = 0 then some (.bbini (bits w 14 7) (bits w 21 7)) else none
  | 1 => if fld w 7 7 = 0 then some (.bbexp (bits w 14 7) (bits w 21 7)) else none
  | 2 => if fld w 7 7 = 0 then some (.bbarv (bits w 14 7) (bits w 21 7)) else none
  | 3 => some (.bbwait (bits w 7 7) (bits w 14 7) (bits w 21 7))
  | 4 => if fld w 11 3 = 0 then some (.bbtest (bits w 7 4) (bits w 14 7) (bits w 21 7)) else none
  | _ => none

/-- Opcode 0x7A. -/
def decodeOp7A (w : Nat) : Option Instr :=
  if fld w 31 1 = 0 ∧ fld w 27 3 = 0 then some (.vldc (flag w 30) (bits w 7 7) (bits w 14 6) (bits w 20 7)) else none

/-- Opcode 0x7B, by bits [31:28]. -/
def decodeOp7B (w : Nat) : Option Instr :=
  match fld w 28 4 with
  | 0 => if fld w 7 14 = 0 ∧ fld w 24 4 = 0 then (Scope.ofCode (fld w 21 3)).bind fun sc => some (.bar sc) else none
  | 1 => some (.bind (bits w 7 7) (bits w 14 7) (bits w 21 7))
  | 2 => if fld w 7 7 = 0 ∧ fld w 21 7 = 0 then some (.unbind (bits w 14 7)) else none
  | _ => none

/-- Opcode 0x7F. -/
def decodeOp7F (w : Nat) : Option Instr :=
  some (.nop (bits w 7 25))

/-- The word of an instruction as fields, before the checks of WellFormed (04 R112). -/
def decodeFields (w : Nat) : Option Instr :=
  match fld w 0 7 with
  | 1 => decodeOp01 w
  | 2 => decodeOp02 w
  | 3 => decodeOp03 w
  | 4 => decodeOp04 w
  | 5 => decodeOp05 w
  | 6 => decodeOp06 w
  | 7 => decodeOp07 w
  | 8 => decodeOp08 w
  | 9 => decodeOp09 w
  | 10 => decodeOp0A w
  | 11 => decodeOp0B w
  | 12 => decodeOp0C w
  | 13 => decodeOp0D w
  | 14 => decodeOp0E w
  | 15 => decodeOp0F w
  | 16 => decodeOp10 w
  | 32 => decodeOp20 w
  | 33 => decodeOp21 w
  | 34 => decodeOp22 w
  | 35 => decodeOp23 w
  | 36 => decodeOp24 w
  | 37 => decodeOp25 w
  | 38 => decodeOp26 w
  | 39 => decodeOp27 w
  | 40 => decodeOp28 w
  | 41 => decodeOp29 w
  | 42 => decodeOp2A w
  | 43 => decodeOp2B w
  | 44 => decodeOp2C w
  | 45 => decodeOp2D w
  | 46 => decodeOp2E w
  | 48 => decodeOp30 w
  | 49 => decodeOp31 w
  | 50 => decodeOp32 w
  | 51 => decodeOp33 w
  | 52 => decodeOp34 w
  | 53 => decodeOp35 w
  | 54 => decodeOp36 w
  | 55 => decodeOp37 w
  | 56 => decodeOp38 w
  | 57 => decodeOp39 w
  | 58 => decodeOp3A w
  | 59 => decodeOp3B w
  | 60 => decodeOp3C w
  | 64 => decodeOp40 w
  | 65 => decodeOp41 w
  | 66 => decodeOp42 w
  | 67 => decodeOp43 w
  | 68 => decodeOp44 w
  | 69 => decodeOp45 w
  | 70 => decodeOp46 w
  | 71 => decodeOp47 w
  | 72 => decodeOp48 w
  | 73 => decodeOp49 w
  | 74 => decodeOp4A w
  | 75 => decodeOp4B w
  | 76 => decodeOp4C w
  | 77 => decodeOp4D w
  | 78 => decodeOp4E w
  | 79 => decodeOp4F w
  | 80 => decodeOp50 w
  | 81 => decodeOp51 w
  | 82 => decodeOp52 w
  | 83 => decodeOp53 w
  | 84 => decodeOp54 w
  | 85 => decodeOp55 w
  | 86 => decodeOp56 w
  | 87 => decodeOp57 w
  | 88 => decodeOp58 w
  | 96 => decodeOp60 w
  | 97 => decodeOp61 w
  | 98 => decodeOp62 w
  | 99 => decodeOp63 w
  | 100 => decodeOp64 w
  | 101 => decodeOp65 w
  | 102 => decodeOp66 w
  | 103 => decodeOp67 w
  | 104 => decodeOp68 w
  | 105 => decodeOp69 w
  | 112 => decodeOp70 w
  | 113 => decodeOp71 w
  | 114 => decodeOp72 w
  | 115 => decodeOp73 w
  | 116 => decodeOp74 w
  | 120 => decodeOp78 w
  | 121 => decodeOp79 w
  | 122 => decodeOp7A w
  | 123 => decodeOp7B w
  | 127 => decodeOp7F w
  | _ => none

/-- The word of an instruction (04 R104 to R122); the events of the other agents have none. -/
def encode (i : Instr) : Option Nat :=
  match i with
  | .add d a b => some (put 21 b.toNat (put 14 a.toNat (put 7 d.toNat 1)))
  | .sub d a b => some (put 28 1 (put 21 b.toNat (put 14 a.toNat (put 7 d.toNat 1))))
  | .and d a b => some (put 28 2 (put 21 b.toNat (put 14 a.toNat (put 7 d.toNat 1))))
  | .or d a b => some (put 28 3 (put 21 b.toNat (put 14 a.toNat (put 7 d.toNat 1))))
  | .xor d a b => some (put 28 4 (put 21 b.toNat (put 14 a.toNat (put 7 d.toNat 1))))
  | .shl d a b => some (put 28 5 (put 21 b.toNat (put 14 a.toNat (put 7 d.toNat 1))))
  | .shr d a b => some (put 28 6 (put 21 b.toNat (put 14 a.toNat (put 7 d.toNat 1))))
  | .sra d a b => some (put 28 7 (put 21 b.toNat (put 14 a.toNat (put 7 d.toNat 1))))
  | .slt d a b => some (put 28 8 (put 21 b.toNat (put 14 a.toNat (put 7 d.toNat 1))))
  | .sltn d a b => some (put 28 9 (put 21 b.toNat (put 14 a.toNat (put 7 d.toNat 1))))
  | .minS d a b => some (put 28 10 (put 21 b.toNat (put 14 a.toNat (put 7 d.toNat 1))))
  | .minZ d a b => some (put 28 11 (put 21 b.toNat (put 14 a.toNat (put 7 d.toNat 1))))
  | .maxS d a b => some (put 28 12 (put 21 b.toNat (put 14 a.toNat (put 7 d.toNat 1))))
  | .maxZ d a b => some (put 28 13 (put 21 b.toNat (put 14 a.toNat (put 7 d.toNat 1))))
  | .mul d a b => some (put 21 b.toNat (put 14 a.toNat (put 7 d.toNat 2)))
  | .mulhS d a b => some (put 28 1 (put 21 b.toNat (put 14 a.toNat (put 7 d.toNat 2))))
  | .mulhZ d a b => some (put 28 2 (put 21 b.toNat (put 14 a.toNat (put 7 d.toNat 2))))
  | .divS d a b => some (put 28 3 (put 21 b.toNat (put 14 a.toNat (put 7 d.toNat 2))))
  | .divZ d a b => some (put 28 4 (put 21 b.toNat (put 14 a.toNat (put 7 d.toNat 2))))
  | .remS d a b => some (put 28 5 (put 21 b.toNat (put 14 a.toNat (put 7 d.toNat 2))))
  | .remZ d a b => some (put 28 6 (put 21 b.toNat (put 14 a.toNat (put 7 d.toNat 2))))
  | .clz d a => some (put 14 a.toNat (put 7 d.toNat 3))
  | .ctz d a => some (put 28 1 (put 14 a.toNat (put 7 d.toNat 3)))
  | .popc d a => some (put 28 2 (put 14 a.toNat (put 7 d.toNat 3)))
  | .bswap d a => some (put 28 3 (put 14 a.toNat (put 7 d.toNat 3)))
  | .fsh d a b => some (put 28 4 (put 21 b.toNat (put 14 a.toNat (put 7 d.toNat 3))))
  | .addi d a imm => some (put 21 imm.toNat (put 14 a.toNat (put 7 d.toNat 4)))
  | .andi d a imm => some (put 21 imm.toNat (put 14 a.toNat (put 7 d.toNat 5)))
  | .ori d a imm => some (put 21 imm.toNat (put 14 a.toNat (put 7 d.toNat 6)))
  | .xori d a imm => some (put 21 imm.toNat (put 14 a.toNat (put 7 d.toNat 7)))
  | .shli d a sh => some (put 21 sh.toNat (put 14 a.toNat (put 7 d.toNat 8)))
  | .shri d a sh => some (put 21 sh.toNat (put 14 a.toNat (put 7 d.toNat 9)))
  | .srai d a sh => some (put 21 sh.toNat (put 14 a.toNat (put 7 d.toNat 10)))
  | .bfxZ d a pos len => some (put 27 len.toNat (put 21 pos.toNat (put 14 a.toNat (put 7 d.toNat 11))))
  | .bfxS d a pos len => some (put 27 len.toNat (put 21 pos.toNat (put 14 a.toNat (put 7 d.toNat 12))))
  | .bfi d a pos len => some (put 27 len.toNat (put 21 pos.toNat (put 14 a.toNat (put 7 d.toNat 13))))
  | .lui d imm => some (put 14 imm.toNat (put 7 d.toNat 14))
  | .pcadd d imm => some (put 14 imm.toNat (put 7 d.toNat 15))
  | .fadd d a b => some (put 21 b.toNat (put 14 a.toNat (put 7 d.toNat 16)))
  | .fsub d a b => some (put 28 1 (put 21 b.toNat (put 14 a.toNat (put 7 d.toNat 16))))
  | .fmul d a b => some (put 28 2 (put 21 b.toNat (put 14 a.toNat (put 7 d.toNat 16))))
  | .fdiv d a b => some (put 28 3 (put 21 b.toNat (put 14 a.toNat (put 7 d.toNat 16))))
  | .fmin d a b => some (put 28 4 (put 21 b.toNat (put 14 a.toNat (put 7 d.toNat 16))))
  | .fmax d a b => some (put 28 5 (put 21 b.toNat (put 14 a.toNat (put 7 d.toNat 16))))
  | .fsqrt d a => some (put 28 6 (put 14 a.toNat (put 7 d.toNat 16)))
  | .fma d a b => some (put 28 7 (put 21 b.toNat (put 14 a.toNat (put 7 d.toNat 16))))
  | .fcmpEq d a b => some (put 28 8 (put 21 b.toNat (put 14 a.toNat (put 7 d.toNat 16))))
  | .fcmpLt d a b => some (put 28 9 (put 21 b.toNat (put 14 a.toNat (put 7 d.toNat 16))))
  | .fcmpLe d a b => some (put 28 10 (put 21 b.toNat (put 14 a.toNat (put 7 d.toNat 16))))
  | .fcmpUn d a b => some (put 28 11 (put 21 b.toNat (put 14 a.toNat (put 7 d.toNat 16))))
  | .fcvtFromF32 t d a => some (put 28 12 (put 21 t.code (put 14 a.toNat (put 7 d.toNat 16))))
  | .fcvtToF32 t d a => some (put 28 12 (put 26 1 (put 21 t.code (put 14 a.toNat (put 7 d.toNat 16)))))
  | .ldb sx acq off base d => some (put 27 (accessCode acq) (put 26 (bitOf sx) (put 20 off.toNat (put 14 base.toNat (put 7 d.toNat 32)))))
  | .ldh sx acq off base d => some (put 31 1 (put 27 (accessCode acq) (put 26 (bitOf sx) (put 20 off.toNat (put 14 base.toNat (put 7 d.toNat 32))))))
  | .ldw sx acq off base d => some (put 27 (accessCode acq) (put 26 (bitOf sx) (put 20 off.toNat (put 14 base.toNat (put 7 d.toNat 33)))))
  | .ldd acq off base d => some (put 31 1 (put 27 (accessCode acq) (put 20 off.toNat (put 14 base.toNat (put 7 d.toNat 33)))))
  | .stb rel off base d => some (put 27 (accessCode rel) (put 20 off.toNat (put 14 base.toNat (put 7 d.toNat 34))))
  | .sth rel off base d => some (put 31 1 (put 27 (accessCode rel) (put 20 off.toNat (put 14 base.toNat (put 7 d.toNat 34)))))
  | .stw rel off base d => some (put 27 (accessCode rel) (put 20 off.toNat (put 14 base.toNat (put 7 d.toNat 35))))
  | .std rel off base d => some (put 31 1 (put 27 (accessCode rel) (put 20 off.toNat (put 14 base.toNat (put 7 d.toNat 35)))))
  | .fence o sc => some (put 30 o.code (put 27 sc.code (put 7 o.scBit 36)))
  | .amoadd o sc wd val base d => some (put 30 o.code (put 27 sc.code (put 26 (bitOf wd) (put 20 val.toNat (put 14 base.toNat (put 7 d.toNat 37))))))
  | .amoswp o sc wd val base d => some (put 30 o.code (put 27 sc.code (put 26 (bitOf wd) (put 20 val.toNat (put 14 base.toNat (put 7 d.toNat 38))))))
  | .amocas o sc wd val base d => some (put 30 o.code (put 27 sc.code (put 26 (bitOf wd) (put 20 val.toNat (put 14 base.toNat (put 7 d.toNat 39))))))
  | .amominS o sc wd val base d => some (put 30 o.code (put 27 sc.code (put 26 (bitOf wd) (put 20 val.toNat (put 14 base.toNat (put 7 d.toNat 40))))))
  | .amominZ o sc wd val base d => some (put 30 o.code (put 27 sc.code (put 26 (bitOf wd) (put 20 val.toNat (put 14 base.toNat (put 7 d.toNat 41))))))
  | .amomaxS o sc wd val base d => some (put 30 o.code (put 27 sc.code (put 26 (bitOf wd) (put 20 val.toNat (put 14 base.toNat (put 7 d.toNat 42))))))
  | .amomaxZ o sc wd val base d => some (put 30 o.code (put 27 sc.code (put 26 (bitOf wd) (put 20 val.toNat (put 14 base.toNat (put 7 d.toNat 43))))))
  | .amoand o sc wd val base d => some (put 30 o.code (put 27 sc.code (put 26 (bitOf wd) (put 20 val.toNat (put 14 base.toNat (put 7 d.toNat 44))))))
  | .amoor o sc wd val base d => some (put 30 o.code (put 27 sc.code (put 26 (bitOf wd) (put 20 val.toNat (put 14 base.toNat (put 7 d.toNat 45))))))
  | .amoxor o sc wd val base d => some (put 30 o.code (put 27 sc.code (put 26 (bitOf wd) (put 20 val.toNat (put 14 base.toNat (put 7 d.toNat 46))))))
  | .beq a b off => some (put 21 off.toNat (put 14 b.toNat (put 7 a.toNat 48)))
  | .bne a b off => some (put 21 off.toNat (put 14 b.toNat (put 7 a.toNat 49)))
  | .blt a b off => some (put 21 off.toNat (put 14 b.toNat (put 7 a.toNat 50)))
  | .bge a b off => some (put 21 off.toNat (put 14 b.toNat (put 7 a.toNat 51)))
  | .bltn a b off => some (put 21 off.toNat (put 14 b.toNat (put 7 a.toNat 52)))
  | .bgen a b off => some (put 21 off.toNat (put 14 b.toNat (put 7 a.toNat 53)))
  | .jal d off => some (put 14 off.toNat (put 7 d.toNat 54))
  | .jalr d a imm => some (put 21 imm.toNat (put 14 a.toNat (put 7 d.toNat 55)))
  | .wcall n off => some (put 29 1 (put 14 off.toNat (put 7 n.toNat 55)))
  | .wret n => some (put 29 2 (put 7 n.toNat 55))
  | .winb n => some (put 29 3 (put 7 n.toNat 55))
  | .rep st cnt fm => some (put 29 4 (put 27 st.toNat (put 21 cnt.toNat (put 7 fm.toNat 55))))
  | .bkany k off => some (put 29 5 (put 14 off.toNat (put 7 k.toNat 55)))
  | .bknone k off => some (put 29 6 (put 14 off.toNat (put 7 k.toNat 55)))
  | .csrr d n => some (put 21 n.toNat (put 7 d.toNat 56))
  | .csrw d a n => some (put 21 n.toNat (put 14 a.toNat (put 7 d.toNat 57)))
  | .csrset d a n => some (put 21 n.toNat (put 14 a.toNat (put 7 d.toNat 58)))
  | .csrclr d a n => some (put 21 n.toNat (put 14 a.toNat (put 7 d.toNat 59)))
  | .trap a => some (put 14 a.toNat 60)
  | .eret => some (put 28 1 60)
  | .wfe a => some (put 28 2 (put 14 a.toNat 60))
  | .yield => some (put 28 3 60)
  | .brk => some (put 28 4 60)
  | .tlbinv a b => some (put 28 5 (put 21 b.toNat (put 14 a.toNat 60)))
  | .dcwb => some (put 28 6 60)
  | .dcinv a b => some (put 28 7 (put 21 b.toNat (put 14 a.toNat 60)))
  | .halt => some (put 28 8 60)
  | .freeze d a b => some (put 28 9 (put 21 b.toNat (put 14 a.toNat (put 7 d.toNat 60))))
  | .launch d a b => some (put 28 10 (put 21 b.toNat (put 14 a.toNat (put 7 d.toNat 60))))
  | .lwait d a => some (put 28 11 (put 14 a.toNat (put 7 d.toNat 60)))
  | .vadd f m d a b => some (put 29 f.code (put 28 (bitOf m) (put 21 b.toNat (put 14 a.toNat (put 7 d.toNat 64)))))
  | .vsub f m d a b => some (put 29 f.code (put 28 (bitOf m) (put 21 b.toNat (put 14 a.toNat (put 7 d.toNat 65)))))
  | .vmul f m d a b => some (put 29 f.code (put 28 (bitOf m) (put 21 b.toNat (put 14 a.toNat (put 7 d.toNat 66)))))
  | .vdiv f m d a b => some (put 29 f.code (put 28 (bitOf m) (put 21 b.toNat (put 14 a.toNat (put 7 d.toNat 67)))))
  | .vmin f m d a b => some (put 29 f.code (put 28 (bitOf m) (put 21 b.toNat (put 14 a.toNat (put 7 d.toNat 68)))))
  | .vmax f m d a b => some (put 29 f.code (put 28 (bitOf m) (put 21 b.toNat (put 14 a.toNat (put 7 d.toNat 69)))))
  | .vfma f m d a b => some (put 29 f.code (put 28 (bitOf m) (put 21 b.toNat (put 14 a.toNat (put 7 d.toNat 70)))))
  | .vfms f m d a b => some (put 29 f.code (put 28 (bitOf m) (put 21 b.toNat (put 14 a.toNat (put 7 d.toNat 71)))))
  | .vsqrt m d a => some (put 28 (bitOf m) (put 14 a.toNat (put 7 d.toNat 72)))
  | .vabs m d a => some (put 28 (bitOf m) (put 21 1 (put 14 a.toNat (put 7 d.toNat 72))))
  | .vneg m d a => some (put 28 (bitOf m) (put 21 2 (put 14 a.toNat (put 7 d.toNat 72))))
  | .vrcp m d a => some (put 28 (bitOf m) (put 21 3 (put 14 a.toNat (put 7 d.toNat 72))))
  | .vrsq m d a => some (put 28 (bitOf m) (put 21 4 (put 14 a.toNat (put 7 d.toNat 72))))
  | .vexp2 m d a => some (put 28 (bitOf m) (put 21 5 (put 14 a.toNat (put 7 d.toNat 72))))
  | .vlog2 m d a => some (put 28 (bitOf m) (put 21 6 (put 14 a.toNat (put 7 d.toNat 72))))
  | .vtanh m d a => some (put 28 (bitOf m) (put 21 7 (put 14 a.toNat (put 7 d.toNat 72))))
  | .vsigm m d a => some (put 28 (bitOf m) (put 21 8 (put 14 a.toNat (put 7 d.toNat 72))))
  | .vand f m d a b => some (put 29 f.code (put 28 (bitOf m) (put 21 b.toNat (put 14 a.toNat (put 7 d.toNat 73)))))
  | .vor f m d a b => some (put 29 f.code (put 28 (bitOf m) (put 21 b.toNat (put 14 a.toNat (put 7 d.toNat 74)))))
  | .vxor f m d a b => some (put 29 f.code (put 28 (bitOf m) (put 21 b.toNat (put 14 a.toNat (put 7 d.toNat 75)))))
  | .vshl f m d a b => some (put 29 f.code (put 28 (bitOf m) (put 21 b.toNat (put 14 a.toNat (put 7 d.toNat 76)))))
  | .vshr f m d a b => some (put 29 f.code (put 28 (bitOf m) (put 21 b.toNat (put 14 a.toNat (put 7 d.toNat 77)))))
  | .vsra f m d a b => some (put 29 f.code (put 28 (bitOf m) (put 21 b.toNat (put 14 a.toNat (put 7 d.toNat 78)))))
  | .vmulh f m d a b => some (put 29 f.code (put 28 (bitOf m) (put 21 b.toNat (put 14 a.toNat (put 7 d.toNat 79)))))
  | .vcmp f m cc kd a b => some (put 29 f.code (put 28 (bitOf m) (put 21 b.toNat (put 14 a.toNat (put 11 cc.code (put 7 kd.toNat 80))))))
  | .vsel f d a b => some (put 29 f.code (put 28 1 (put 21 b.toNat (put 14 a.toNat (put 7 d.toNat 81)))))
  | .vcvt t m d a => some (put 28 (bitOf m) (put 21 t.code (put 14 a.toNat (put 7 d.toNat 82))))
  | .vscl f m d a b => some (put 29 f.code (put 28 (bitOf m) (put 21 b.toNat (put 14 a.toNat (put 7 d.toNat 83)))))
  | .vblk g m d a => some (put 28 (bitOf m) (put 21 g.code (put 14 a.toNat (put 7 d.toNat 84))))
  | .vrngRaw m d a => some (put 28 (bitOf m) (put 14 a.toNat (put 7 d.toNat 85)))
  | .vrngUnif m d a => some (put 28 (bitOf m) (put 21 1 (put 14 a.toNat (put 7 d.toNat 85))))
  | .setvli d a req => some (put 21 req.toNat (put 14 a.toNat (put 7 d.toNat 86)))
  | .setvl d a b => some (put 21 b.toNat (put 14 a.toNat (put 7 d.toNat 87)))
  | .setel a => some (put 28 1 (put 14 a.toNat 87))
  | .vforce d => some (put 28 2 (put 7 d.toNat 87))
  | .deadScalar d a => some (put 28 3 (put 14 a.toNat (put 7 d.toNat 87)))
  | .deadVector d a => some (put 28 4 (put 14 a.toNat (put 7 d.toNat 87)))
  | .deadMask d a => some (put 28 5 (put 14 a.toNat (put 7 d.toNat 87)))
  | .kmeet d a b => some (put 21 b.toNat (put 14 a.toNat (put 7 d.toNat 88)))
  | .kjoin d a b => some (put 28 1 (put 21 b.toNat (put 14 a.toNat (put 7 d.toNat 88))))
  | .kdiff d a b => some (put 28 2 (put 21 b.toNat (put 14 a.toNat (put 7 d.toNat 88))))
  | .kless d a b => some (put 28 3 (put 21 b.toNat (put 14 a.toNat (put 7 d.toNat 88))))
  | .kflip d a => some (put 28 4 (put 14 a.toNat (put 7 d.toNat 88)))
  | .kcopy d a => some (put 28 5 (put 14 a.toNat (put 7 d.toNat 88)))
  | .kmsk d a => some (put 28 6 (put 14 a.toNat (put 7 d.toNat 88)))
  | .kset d a => some (put 28 7 (put 14 a.toNat (put 7 d.toNat 88)))
  | .kpop d a => some (put 28 8 (put 14 a.toNat (put 7 d.toNat 88)))
  | .kfirst d a => some (put 28 9 (put 14 a.toNat (put 7 d.toNat 88)))
  | .vld m d base x => some (put 30 (bitOf m) (put 20 x.toNat (put 14 base.toNat (put 7 d.toNat 96))))
  | .vlds m d base x => some (put 30 (bitOf m) (put 27 1 (put 20 x.toNat (put 14 base.toNat (put 7 d.toNat 96)))))
  | .vldx m d base x => some (put 30 (bitOf m) (put 27 2 (put 20 x.toNat (put 14 base.toNat (put 7 d.toNat 96)))))
  | .vldb m d base x => some (put 30 (bitOf m) (put 27 3 (put 20 x.toNat (put 14 base.toNat (put 7 d.toNat 96)))))
  | .vst m d base x => some (put 30 (bitOf m) (put 20 x.toNat (put 14 base.toNat (put 7 d.toNat 97))))
  | .vsts m d base x => some (put 30 (bitOf m) (put 27 1 (put 20 x.toNat (put 14 base.toNat (put 7 d.toNat 97)))))
  | .vstx m d base x => some (put 30 (bitOf m) (put 27 2 (put 20 x.toNat (put 14 base.toNat (put 7 d.toNat 97)))))
  | .vext d a b => some (put 21 b.toNat (put 14 a.toNat (put 7 d.toNat 98)))
  | .vslup m d a b => some (put 28 (bitOf m) (put 21 b.toNat (put 14 a.toNat (put 7 d.toNat 99))))
  | .vsldn m d a b => some (put 28 (bitOf m) (put 21 b.toNat (put 14 a.toNat (put 7 d.toNat 100))))
  | .vperm m d a b => some (put 28 (bitOf m) (put 21 b.toNat (put 14 a.toNat (put 7 d.toNat 101))))
  | .vcmpr m d a => some (put 28 (bitOf m) (put 14 a.toNat (put 7 d.toNat 102)))
  | .vexpd m d a => some (put 28 (bitOf m) (put 14 a.toNat (put 7 d.toNat 103)))
  | .vscan op m d a => some (put 28 (bitOf m) (put 21 op.code (put 14 a.toNat (put 7 d.toNat 104))))
  | .vrsumo m d a => some (put 28 (bitOf m) (put 14 a.toNat (put 7 d.toNat 105)))
  | .vrsumt m d a => some (put 28 (bitOf m) (put 21 1 (put 14 a.toNat (put 7 d.toNat 105))))
  | .vrmax m d a => some (put 28 (bitOf m) (put 21 2 (put 14 a.toNat (put 7 d.toNat 105))))
  | .vrmin m d a => some (put 28 (bitOf m) (put 21 3 (put 14 a.toNat (put 7 d.toNat 105))))
  | .vrargx m d a => some (put 28 (bitOf m) (put 21 4 (put 14 a.toNat (put 7 d.toNat 105))))
  | .vrbit op m d a => some (put 28 (bitOf m) (put 24 op.code (put 21 5 (put 14 a.toNat (put 7 d.toNat 105)))))
  | .vpart d a => some (put 14 a.toNat (put 7 d.toNat 112))
  | .vlpld m d a b => some (put 29 1 (put 28 (bitOf m) (put 21 b.toNat (put 14 a.toNat (put 7 d.toNat 112)))))
  | .vlpst m d a b => some (put 29 2 (put 28 (bitOf m) (put 21 b.toNat (put 14 a.toNat (put 7 d.toNat 112)))))
  | .vlpstB m d b => some (put 29 3 (put 28 (bitOf m) (put 21 b.toNat (put 7 d.toNat 112))))
  | .cbld d a b => some (put 21 b.toNat (put 14 a.toNat (put 7 d.toNat 113)))
  | .cbst d a b => some (put 28 1 (put 21 b.toNat (put 14 a.toNat (put 7 d.toNat 113))))
  | .cbwr d a b => some (put 28 2 (put 21 b.toNat (put 14 a.toNat (put 7 d.toNat 113))))
  | .cbrd d a b => some (put 28 3 (put 21 b.toNat (put 14 a.toNat (put 7 d.toNat 113))))
  | .cbval d a b => some (put 28 4 (put 21 b.toNat (put 14 a.toNat (put 7 d.toNat 113))))
  | .cbselB d => some (put 28 5 (put 7 d.toNat 113))
  | .cbselM d => some (put 28 5 (put 21 1 (put 7 d.toNat 113)))
  | .cbselNb => some (put 28 5 (put 21 2 113))
  | .cbselNm => some (put 28 5 (put 21 3 113))
  | .cbfence => some (put 28 6 113)
  | .vcbx d a b => some (put 28 7 (put 21 b.toNat (put 14 a.toNat (put 7 d.toNat 113))))
  | .comba c acc a b => some (put 28 (bitOf c) (put 21 b.toNat (put 14 a.toNat (put 7 acc.toNat 114))))
  | .combs c acc a b => some (put 29 1 (put 28 (bitOf c) (put 21 b.toNat (put 14 a.toNat (put 7 acc.toNat 114)))))
  | .combi acc a b => some (put 29 2 (put 21 b.toNat (put 14 a.toNat (put 7 acc.toNat 114))))
  | .msetvl d a => some (put 14 a.toNat (put 7 d.toNat 115))
  | .mzero d => some (put 28 1 (put 7 d.toNat 115))
  | .mrdr d a b => some (put 28 2 (put 21 b.toNat (put 14 a.toNat (put 7 d.toNat 115))))
  | .mrdc d a b => some (put 28 3 (put 21 b.toNat (put 14 a.toNat (put 7 d.toNat 115))))
  | .mwrr d a b => some (put 28 4 (put 21 b.toNat (put 14 a.toNat (put 7 d.toNat 115))))
  | .mld d a b => some (put 28 5 (put 21 b.toNat (put 14 a.toNat (put 7 d.toNat 115))))
  | .mst d a b => some (put 28 6 (put 21 b.toNat (put 14 a.toNat (put 7 d.toNat 115))))
  | .smode d a => some (put 28 7 (put 14 a.toNat (put 7 d.toNat 115)))
  | .sexit d => some (put 28 8 (put 7 d.toNat 115))
  | .sprog d a => some (put 28 9 (put 14 a.toNat (put 7 d.toNat 115)))
  | .cvset d a b => some (put 21 b.toNat (put 14 a.toNat (put 7 d.toNat 116)))
  | .cvwt d a => some (put 28 1 (put 14 a.toNat (put 7 d.toNat 116)))
  | .cvprb d a b => some (put 28 2 (put 21 b.toNat (put 14 a.toNat (put 7 d.toNat 116))))
  | .cvprbb d a n b => some (put 28 3 (put 21 b.toNat (put 15 n.toNat (put 14 a.toNat (put 7 d.toNat 116)))))
  | .cvcom d a => some (put 28 4 (put 14 a.toNat (put 7 d.toNat 116)))
  | .cvsel d a b => some (put 28 5 (put 21 b.toNat (put 14 a.toNat (put 7 d.toNat 116))))
  | .cvrd d a b => some (put 28 6 (put 21 b.toNat (put 14 a.toNat (put 7 d.toNat 116))))
  | .bxfer g d a b => some (put 28 g.toNat (put 21 b.toNat (put 14 a.toNat (put 7 d.toNat 120))))
  | .bbini a b => some (put 21 b.toNat (put 14 a.toNat 121))
  | .bbexp a b => some (put 28 1 (put 21 b.toNat (put 14 a.toNat 121)))
  | .bbarv a b => some (put 28 2 (put 21 b.toNat (put 14 a.toNat 121)))
  | .bbwait d a b => some (put 28 3 (put 21 b.toNat (put 14 a.toNat (put 7 d.toNat 121))))
  | .bbtest d a b => some (put 28 4 (put 21 b.toNat (put 14 a.toNat (put 7 d.toNat 121))))
  | .vldc m d base x => some (put 30 (bitOf m) (put 20 x.toNat (put 14 base.toNat (put 7 d.toNat 122))))
  | .bar sc => some (put 21 sc.code 123)
  | .bind d a b => some (put 28 1 (put 21 b.toNat (put 14 a.toNat (put 7 d.toNat 123))))
  | .unbind a => some (put 28 2 (put 14 a.toNat 123))
  | .nop h => some (put 7 h.toNat 127)
  | .passTake _ => none
  | .stripDispatch _ _ => none
  | .stripFinish _ _ => none
  | .sinkComplete _ => none
  | .implicitMaterialisation _ => none
  | .coreParityError _ _ => none
  | .combStepCommit _ => none
  | .streamRowFetch _ _ => none
  | .streamRowArrive _ _ => none
  | .pageWalk _ _ _ => none
  | .foragerLaunch _ => none
  | .foragerChunkLand _ _ => none
  | .barEpisodeComplete _ => none
  | .bbwaitComplete _ => none
  | .wfeWake _ => none
  | .wfeTimeout _ => none
  | .yieldComplete _ => none
  | .meshFlitResend _ _ => none
  | .meshLinkFail _ _ => none
  | .foragerBufferParity _ _ => none
  | .barrierWireParity _ => none
  | .eccError _ _ => none
  | .scrub _ => none
  | .launchPlace _ => none
  | .complete _ _ => none
  | .nurseFailure _ => none
  | .launchMessage _ _ _ => none
  | .answer _ _ _ => none
  | .freezeMessage _ _ _ => none
  | .dirty _ _ _ => none
  | .attest _ _ _ => none
  | .tenantCreate _ _ => none
  | .tenantTeardown _ _ => none
  | .tenantRecordWrite _ _ _ _ => none
  | .podidWrite _ => none
  | .grantWrite _ _ => none
  | .linkGraphWrite _ _ _ => none
  | .waggleConfigure _ _ _ _ => none
  | .skctlWrite _ _ _ => none
  | .registerWrite _ _ _ => none
  | .waggleSample _ => none
  | .linkCrcError _ _ => none
  | .slotReturn _ _ _ => none
  | .auditSend _ _ => none
  | .auditReceive _ _ _ => none
  | .retrain _ => none
  | .retrainComplete _ => none
  | .linkLost _ => none
  | .slotReclaim _ _ => none
  | .powerSample _ _ _ => none
  | .railCut => none
  | .monitorReading _ _ => none
  | .boot _ _ => none
  | .podRequestAccept _ _ _ => none
  | .podAck _ _ _ => none
  | .podTimeout _ => none
  | .performAtHome _ _ => none
  | .flitAcknowledgement _ _ => none
  | .undefinedWord => none
  | .fetchFault => none

/-- A word is an instruction, or is refused by name (04 R114). -/
def decode (w : Nat) : Except DecodeError Instr :=
  match decodeFields w with
  | none => .error .undefinedWord
  | some i => if i.wellFormed then .ok i else .error .illFormed

/-- Four bytes, the one at the lowest address first, as a word (04 R102). -/
def wordOfBytes (b0 b1 b2 b3 : Byte) : Nat :=
  b0.toNat + b1.toNat * 2 ^ 8 + b2.toNat * 2 ^ 16 + b3.toNat * 2 ^ 24

/-- The four bytes of a word, the low one first (04 R102). -/
def bytesOfWord (w : Nat) : List Byte :=
  [BitVec.ofNat 8 w, BitVec.ofNat 8 (w / 2 ^ 8), BitVec.ofNat 8 (w / 2 ^ 16), BitVec.ofNat 8 (w / 2 ^ 24)]

/-- The first instruction of a run of bytes, and the bytes after it. -/
def decodeBytes : List Byte → Except DecodeError (Instr × List Byte)
  | b0 :: b1 :: b2 :: b3 :: rest =>
    match decode (wordOfBytes b0 b1 b2 b3) with
    | .ok i => .ok (i, rest)
    | .error e => .error e
  | _ => .error .short

/-- The decoder on an opcode table word: bits 31 to 0 of one instruction word. -/
def decodeTableWord (nbits w : Nat) : Option Instr :=
  match decodeBytes (bytesOfWord (w % 2 ^ nbits)) with
  | .ok (i, _) => some i
  | .error _ => none

end Sys2Proof
end

