-- ==== Sys2Proof/Config.lean ====
section
/-!
DEFINITION. What the spec leaves open and the model does not fix: constants without a body, so that no proof can see
their values. A draw is numbered by State.freeCtr (DESIGN CHOICE, assumption log 4).
-/

namespace Sys2Proof

/-- Which of two allowed outcomes a draw takes: the fetched word of 05 R152. -/
opaque Config.freeBit : Nat → Bool

/-- The member of a contiguous group whose entries disagree (19 R364). -/
opaque Config.freeMember : Nat → Nat

/-- A word nothing constrains: NPC of a name (21 R413), the constants of a sketch (21 R409), the counts of cycles of a
waggle record (21 R407), the image key and the TSS keys of a tenant (22 R416, R432), the firmware's own digest or a signature (22 R432). -/
opaque Config.freeWord : Nat → Word

/-- A byte of another package's memory, as a vector element or an engine reads it (22 R421). -/
opaque Config.remoteByte : Nat → Byte

/-- Whether such a read is answered with an error, or not in time (22 R421). -/
opaque Config.remoteFails : Nat → Bool

/-- A byte of a line as an agent with another key reads it: the key of the line, the key of the reader, the address, and the
16-byte block of plaintext (22 R433). -/
opaque Config.deciphered : Word → Word → Nat → Nat → Byte

/-- The digest of code (22 R432). -/
opaque Config.digest : List Byte → BitVec 256

/-- Whether a signature over a digest verifies under an image key (22 R432). -/
opaque Config.verifies : Word → BitVec 256 → List Byte → Bool

/-- Sub-value k of an element, read from an operand that holds fewer sub-values: the sequence number of the reading node,
the absolute index, and k (06 R165 does not say). -/
opaque Config.missing : Nat → Nat → Nat → Word

/-- The result of a transcendental function where the model's exact bounds do not separate two candidates:
the function, the operand's pattern, the rounding mode and the random word. -/
opaque Config.undecided : Nat → Nat → Nat → Nat → Nat

end Sys2Proof
end

