-- ==== Sys2Proof/Machine/Bytes.lean ====
section
/-!
DEFINITION. Bytes and words: little-endian order (00 R6), sign and zero extension (04 R111), bit fields, and the circle
of addresses (02 R56).
-/

namespace Sys2Proof.Machine

/-- The n low bytes of a number, the lowest first (00 R6). -/
def leBytes : Nat → Nat → List Byte
  | _, 0 => []
  | v, n + 1 => BitVec.ofNat 8 v :: leBytes (v / 256) n

/-- The number that bytes hold, the first the lowest (00 R6). -/
def leNat : List Byte → Nat
  | [] => 0
  | b :: r => b.toNat + 256 * leNat r

/-- A field of a word, as a number. -/
def field (w : Word) (lo n : Nat) : Nat := w.toNat / 2 ^ lo % 2 ^ n

/-- A word with one field replaced. -/
def setField (w : Word) (lo n v : Nat) : Word :=
  BitVec.ofNat 64 (w.toNat - w.toNat / 2 ^ lo % 2 ^ n * 2 ^ lo + v % 2 ^ n * 2 ^ lo)

/-- One bit of a word. -/
def bit (w : Word) (i : Nat) : Bool := w.getLsbD i

/-- A number as a 64-bit word. -/
def word (n : Nat) : Word := BitVec.ofNat 64 n

/-- An integer modulo 2^64. -/
def wordOfInt (n : Int) : Word := BitVec.ofInt 64 n

/-- 1 or 0. -/
def wordOfBool (b : Bool) : Word := if b then 1 else 0

/-- The n low bits of a number, read as two's complement. -/
def signedOf (n v : Nat) : Int := if v % 2 ^ n < 2 ^ (n - 1) then (v % 2 ^ n : Nat) else (v % 2 ^ n : Nat) - (2 ^ n : Nat)

/-- The two's complement pattern of an integer in n bits. -/
def patternOf (n : Nat) (v : Int) : Nat := (v % (2 ^ n : Nat)).toNat

/-- An address is canonical when bits 63 to 57 all equal bit 56 (01 R11). -/
def canonical (a : Word) : Bool := a.toNat / 2 ^ 56 == 0 || a.toNat / 2 ^ 56 == 255

/-- The number of bits set. -/
def popCount (n w : Nat) : Nat := ((List.range n).filter fun i => w.testBit i).length

end Sys2Proof.Machine
end

