-- ==== Sys2Proof/Machine/Sparse.lean ====
section
/-!
DEFINITION. One canonical form for everything that is indexed by a number and mostly holds one value: memory, register
files, accumulators. A map is a list of (key, value) pairs, keys strictly rising, no value equal to the default, so
that equal maps are equal lists.
-/

namespace Sys2Proof

/-- The value at a key; an unlisted key holds the default. -/
def Sparse.get {α : Type} (d : α) : List (Nat × α) → Nat → α
  | [], _ => d
  | (k, v) :: r, a => if a = k then v else Sparse.get d r a

/-- A new entry among entries with other keys, in rising order. -/
def Sparse.insert {α : Type} (a : Nat) (v : α) : List (Nat × α) → List (Nat × α)
  | [] => [(a, v)]
  | (k, w) :: r => if a < k then (a, v) :: (k, w) :: r else (k, w) :: Sparse.insert a v r

/-- The map with one key changed; writing the default removes the entry. -/
def Sparse.set {α : Type} [DecidableEq α] (d : α) (m : List (Nat × α)) (a : Nat) (v : α) : List (Nat × α) :=
  let r := m.filter fun e => decide (e.1 ≠ a)
  if v = d then r else Sparse.insert a v r

/-- Keys rise strictly from a bound, and no value is the default. -/
def Sparse.above {α : Type} [DecidableEq α] (d : α) : Nat → List (Nat × α) → Bool
  | _, [] => true
  | lo, (k, v) :: r => decide (lo ≤ k) && decide (v ≠ d) && Sparse.above d (k + 1) r

/-- The canonical form. -/
def Sparse.wf {α : Type} [DecidableEq α] (d : α) (m : List (Nat × α)) : Bool := Sparse.above d 0 m

/-- Writes a run of values at rising keys. -/
def Sparse.setRun {α : Type} [DecidableEq α] (d : α) (m : List (Nat × α)) (a : Nat) : List α → List (Nat × α)
  | [] => m
  | v :: r => Sparse.setRun d (Sparse.set d m a v) (a + 1) r

/-- Reads a run of values at rising keys. -/
def Sparse.getRun {α : Type} (d : α) (m : List (Nat × α)) (a : Nat) : Nat → List α
  | 0 => []
  | n + 1 => Sparse.get d m a :: Sparse.getRun d m (a + 1) n

/-- Every key from a to a + n - 1 set to the default. -/
def Sparse.clearRun {α : Type} (m : List (Nat × α)) (a n : Nat) : List (Nat × α) :=
  m.filter fun e => decide (e.1 < a) || decide (a + n ≤ e.1)

/-- The canonical form of memory: what an unlisted address reads as is 0 (DESIGN CHOICE, assumption log 2). -/
def Memory.wf (m : List (Nat × Byte)) : Bool := Sparse.wf 0 m

end Sys2Proof
end

