-- ==== Sys2Proof/Machine/State.lean ====
section
/-!
DEFINITION. Everything the spec gives the machine, as plain data: a context (01, 02), a core (10 to 13), a quad (15), a
die (19), the package (21, 22), memory, and the model's own fields that say which agent moves next and count free values.
-/

namespace Sys2Proof.Machine

/-! ## Names -/

/-- The trap causes (01 R34). -/
inductive Cause where
  | illegal | vtypeIll | lenMismatch | deadRead | page | perm | format | poison | align | cbInvalid | cbOwner
  | combOwner | covOwner | cellFull | winOvf | winUnf | watch | brk | fp | remote | linkLost | priv
  deriving DecidableEq, Repr

/-- The sticky flags, in the bit order of FLAGS (01 R24). -/
inductive Flag where
  | inv | dz | ovf | unf | inx | sat | cbi
  deriving DecidableEq, Repr

/-- The CSRs, in map order (01 R36). -/
inductive Csr where
  | vl | vtype | vmode | elbase | strip | flags
  | feix (f : Flag)
  | srseed | srsalt | rngkey | repc | deadm | cellbase | celllim | celluse | cellcnt | cbsel | mvl | mprog | win | ctxid
  | status | epc | cause | faultva | faultel | blamepc | blameseq
  deriving DecidableEq, Repr

/-- The access kinds of a translation (19 R364, R367). -/
inductive Access where
  | read | write | fetch | atomic
  deriving DecidableEq, Repr

/-! ## A context -/

/-- The format fields of a page (03 R83, 19 R363). -/
structure PageAttr where
  fe : Bool
  fmt : Nat
  geo : Nat
  deriving DecidableEq, Repr

/-- A materialised value in the cell area: its address, length, format (none for a mask) and element group (02 R51). -/
structure CellRef where
  addr : Word
  len : Nat
  fmt : Option Fmt
  eg : Nat
  deriving DecidableEq, Repr

/-- A handle in stream mode: its pattern, its page-decided format once decided, and its consumed count (12 R283 to R285). -/
structure Stream where
  uid : Nat
  base : Word
  stride : Word
  shape : Word
  rowStride : Word
  decided : Option PageAttr
  consumed : Nat
  deriving DecidableEq, Repr

/-- What a vector or mask handle names (01 R16). -/
inductive Handle where
  | empty
  | node (e : Nat)
  | cell (c : CellRef)
  | stream (s : Stream)
  deriving DecidableEq, Repr

/-- An operand reference of a brood entry (02 R39, 19 R378). -/
inductive Ref where
  | none
  | node (e : Nat)
  | cell (c : CellRef)
  | scalar (w : Word)
  | stream (v : VReg)
  | k0
  deriving DecidableEq, Repr

/-- An operand: a reference, and the bank it expands through when it is codebook-indexed (02 R39). -/
structure Operand where
  ref : Ref
  bank : Option BankReg
  deriving DecidableEq, Repr

/-- The kinds of brood entry (19 R378). -/
inductive EntryKind where
  | node | load | sink
  deriving DecidableEq, Repr

/-- The forms of a load node (19 R378). -/
inductive LoadForm where
  | vld | vlds | vldb | vldc
  deriving DecidableEq, Repr

/-- The source of a load node (02 R39). -/
structure Source where
  base : Word
  /-- the stride in elements, or the object address of vldc -/
  stride : Word
  /-- the page-decided format, once decided (03 R434) -/
  decided : Option PageAttr
  form : LoadForm
  deriving DecidableEq, Repr

/-- A brood-table entry (02 R39). -/
structure Entry where
  op : Instr
  kind : EntryKind
  seq : Word32
  pc : Word
  len : Nat
  fmt : Fmt
  eg : Nat
  rm : Nat
  sat : Bool
  cbx : Bool
  mpol : Bool
  elbase : Word
  srseed : Word
  srsalt : Word32
  rngkey : Word
  a : Operand
  b : Operand
  c : Operand
  merge : Operand
  mask : Operand
  source : Option Source
  /-- the sink operands of 19 R378: destination, second destination, value, stride -/
  dst : Nat
  dst2 : Nat
  val : Word
  str : Word
  deriving DecidableEq, Repr

/-- The control and status registers of a context (01 R36). -/
structure Csrs where
  vl : Word
  vtype : Word
  vmode : Word
  elbase : Word
  strip : Word
  flags : Word
  feInv : Word
  feDz : Word
  feOvf : Word
  feUnf : Word
  feInx : Word
  feSat : Word
  feCbi : Word
  srseed : Word
  srsalt : Word
  rngkey : Word
  repc : Word
  deadm : Word
  cellbase : Word
  celllim : Word
  celluse : Word
  cellcnt : Word
  cbsel : Word
  mvl : Word
  mprog : Word
  win : Word
  ctxid : Word
  status : Word
  epc : Word
  cause : Word
  faultva : Word
  faultel : Word
  blamepc : Word
  blameseq : Word
  deriving DecidableEq, Repr

/-- A rep whose next repeat is ready: count, stride code and field mask (04 R118, R119). -/
structure Repeat where
  count : Nat
  st : BitVec 2
  fm : BitVec 3
  deriving DecidableEq, Repr

/-- The registers of a context as its own instructions see them, with the held effects of 02 R68 applied. -/
structure Arch where
  pc : Word
  /-- the rep at pc, while the next instruction is its prefixed word (04 R119) -/
  rep : Option Repeat
  /-- p0 to p511 (01 R12) -/
  regs : List (Nat × Word)
  /-- the dead bit of each physical register (01 R15) -/
  dead : BitVec 512
  /-- v0 to v127 -/
  vh : List (Nat × Handle)
  /-- k1 to k15 -/
  kh : List (Nat × Handle)
  csr : Csrs
  /-- the occupied entries of the brood table, by number -/
  brood : List (Nat × Entry)
  /-- the node sequence counter (02 R40) -/
  seq : Word32
  /-- the cells in use: address and bytes (02 R51) -/
  cells : List (Nat × Nat)
  deriving DecidableEq, Repr

/-- A byte range of virtual addresses on the circle of 2^64 (02 R56). -/
structure Range where
  base : Nat
  len : Nat
  deriving DecidableEq, Repr

/-- A stage of a pass: a node materialised into a cell before the final stage (02 R50, R57, R58). -/
structure Stage where
  node : Nat
  cell : CellRef
  deriving DecidableEq, Repr

/-- A pending sink, or a pending implicit materialisation (02 R44, R68). -/
structure Pend where
  /-- false for a sink pass, true for an implicit materialisation -/
  implicit : Bool
  /-- the sink's brood entry -/
  entry : Nat
  /-- the issue number: effects held behind this sink have higher numbers -/
  no : Nat
  pc : Word
  /-- REPC when it is a repeat whose pass stops (04 R121) -/
  repc : Option Word
  stages : List Stage
  /-- the store footprint (02 R56) -/
  store : List Range
  /-- the load-source footprints of the graph -/
  loads : List Range
  /-- the joining epoch: sinks with an instruction of 02 R48's last point between them differ in it -/
  epoch : Nat
  joins : Bool
  /-- no later instruction issues before it completes (02 R45) -/
  resync : Bool
  /-- the order in which sinks issue at the core (10 R229) -/
  age : Nat
  before : Arch
  after : Arch
  deriving DecidableEq, Repr

/-- A running value: a pattern, or an exact integer that is no FP32 value, with the absolute index of its element
(03 R77, R100, R101; DEDUCED, assumption log 90). -/
inductive Amount where
  | bits (v : Nat)
  | whole (neg : Bool) (m : Nat) (at_ : Word)
  deriving DecidableEq, Repr

/-- The state that a node carries from element to element (07 R199), and the element of vldb once read (07 R186). -/
inductive Carry where
  | scan (run : Amount) (have_ : Bool)
  | expand (c : Nat)
  | compress (q s : Nat)
  | first (seen : Bool)
  /-- its value once read, and whether an active element has met the access -/
  | once (got : Option (List Nat × List Flag)) (met : Bool)
  deriving DecidableEq, Repr

/-- The partial state of a sink over its committed elements (02 R67, 13 R305). -/
inductive Part where
  | none
  | run (val : Amount) (have_ : Bool)
  /-- an exact sum, and the absolute index of the last present element -/
  | exact (sum : Int) (last : Option Word)
  | arg (val : Amount) (index : Nat) (have_ : Bool)
  | tree (parts : List (Nat × Amount))
  | count (n : Nat)
  | firstAt (index : Option Nat)
  | operands (a b : List (List Nat))
  deriving DecidableEq, Repr

/-- An event that stops a pass at an element (02 R64, R65). -/
structure PassEvent where
  cause : Cause
  va : Word
  write : Bool
  seq : Word32
  pc : Word
  slot : Nat
  deriving DecidableEq, Repr

/-- One byte run that an element writes: its virtual and physical address and data. -/
structure ElemWrite where
  va : Nat
  pa : Nat
  data : List Byte
  /-- store poison with the data (05 R150) -/
  poison : Bool
  /-- PC of the instruction that writes -/
  pc : Word
  deriving DecidableEq, Repr

/-- What one element gives to the sinks of a stage. -/
structure ElemOut where
  /-- the value each sink consumes, by slot: none for an inactive element -/
  vals : List (Option (List Nat))
  writes : List ElemWrite
  /-- the flags raised, each with its absolute index (02 R54) -/
  flags : List (Flag × Word)
  /-- the carries after this element -/
  carries : List (Nat × Carry)
  deriving DecidableEq, Repr

/-- An element of a strip hits a debug slot that writes a record (21 R411): the number of the element, the slot, and what the record says. -/
structure TraceHit where
  elem : Nat
  slot : Nat
  va : Nat
  kind : Access
  el : Word
  pc : Word
  seq : Word32
  deriving DecidableEq, Repr

/-- A strip that has been dispatched and not yet committed (02 R53). -/
structure Strip where
  num : Nat
  group : Nat
  lo : Nat
  outs : List ElemOut
  event : Option PassEvent
  finished : Bool
  /-- records that its elements write once they commit (21 R411) -/
  hits : List TraceHit
  /-- a soft error has made it run again (10 R242) -/
  rerun : Bool
  deriving DecidableEq, Repr

/-- A pass that the sequencer has taken (02 R47), or that has stopped (02 R64). -/
structure Run where
  items : List Pend
  /-- the number of the current stage; the final stage is the number of stages -/
  stage : Nat
  /-- committed elements of the stage -/
  cur : Nat
  /-- strips that have been dispatched and not wholly committed, by rising number -/
  strips : List Strip
  /-- the carries at the committed element -/
  carries : List (Nat × Carry)
  parts : List (Nat × Part)
  /-- passed-over count of the candidate, and the strip that it counts for (10 R229) -/
  waits : Nat
  waitsOn : Nat
  /-- an element that must commit before any stop above it (02 R70) -/
  mustCommit : Option Nat
  /-- stages that had completed before the plan in hand was made: at a restore they are found as cells (02 R69) -/
  done_ : Nat
  /-- STRIP.NUM as the stop wrote it, or a snapshot holds it (02 R69) -/
  num : Nat
  /-- the debug slots that have written their record for this pass (21 R411) -/
  traced : List Nat
  deriving DecidableEq, Repr

/-- A stopped materialisation that a snapshot held: the instruction that required it plans it again when it issues (02 R68,
R69; DEDUCED, assumption log 14). -/
structure Resume where
  /-- the stages that had completed -/
  stage : Nat
  num : Nat
  faultel : Word
  carries : List (Nat × Carry)
  /-- the PC of the instruction, once control has returned to it -/
  due : Option Word
  /-- STRIP and FAULTEL when control returned to it -/
  strip : Word
  el : Word
  deriving DecidableEq, Repr

/-- An effect on memory or on a unit, held behind pending sinks (02 R68): the instruction, its captured operands, and
the bytes it writes once they are fixed. -/
structure Held where
  no : Nat
  instr : Instr
  pc : Word
  args : List Word
  footprint : List Range
  /-- the registers as its instruction found them (10 R242) -/
  before : Arch
  deriving DecidableEq, Repr

/-- Whether a context runs (19 R359, R360, R369). -/
inductive RunState where
  /-- no context is placed here -/
  | vacant
  | running
  | halted
  /-- stopped at the end of its launch -/
  | stopped
  deriving DecidableEq, Repr

/-- What a context waits on between instructions. -/
inductive Wait where
  | none
  /-- wfe on a line, or on nothing but the event bit (19 R373); woken is set by a write to the line -/
  | wfe (line : Option Nat) (woken : Bool)
  /-- yield; ready once another context of the core has issued (19 R373) -/
  | yield (ready : Bool)
  /-- arrived at a barrier (15 R335); resent once a parity error has had the signal sent again (15 R340) -/
  | bar (sc : Scope) (resent : Bool)
  /-- polling an object (15 R330) -/
  | bbwait (obj : Word) (phase : Bool) (d : SReg)
  /-- waiting for the answer to a pod-window request (22 R421) -/
  | remote (req : Nat)
  /-- an access that waits on a die-to-die link under retrain (21 R390) -/
  | link (src dst : DieId) (va : Word) (write : Bool)
  deriving DecidableEq, Repr

/-- A translation service request (19 R367, R378). -/
structure Service where
  token : Word32
  kind : Access
  /-- none while pending; true for RESUME -/
  answer : Option Bool
  va : Word
  cause : Word
  deriving DecidableEq, Repr

/-- A fetched row of a stream (12 R286, R287). -/
structure StreamRow where
  uid : Nat
  row : Nat
  /-- false while the fetch is in flight -/
  arrived : Bool
  elems : List (List Nat)
  /-- the recorded faults, by rising element: element of the row, cause, address -/
  faults : List (Nat × Cause × Word)
  /-- the token of the service request that it waits on (12 R288) -/
  asked : Option Word32
  /-- the bytes it read -/
  footprint : List Range
  /-- their physical runs: address and bytes (03 R88) -/
  pieces : List (Nat × Nat)
  deriving DecidableEq, Repr

/-- A vector loop context (01 R10), or a nurse core (19 R352). -/
structure Ctx where
  /-- CTXID, or 4096 + die for a nurse core -/
  id : Nat
  state : RunState
  a : Arch
  pend : List Pend
  run : Option Run
  stopped : Option Run
  resume : Option Resume
  held : List Held
  wait : Wait
  issueNo : Nat
  epoch : Nat
  nextUid : Nat
  rows : List StreamRow
  event : Bool
  /-- sequence number of its launch on its die, index in it and its size (19 R358) -/
  launch : Nat
  index : Nat
  size : Nat
  /-- bytes of its lane-private window (10 R237) -/
  lpriv : Nat
  service : Option Service
  /-- a write that a lost link took: the context traps LINK_LOST at its next boundary (21 R391) -/
  lostWrite : Option Word
  /-- a soft error in its held stores or run-ahead state, or poison that a held mld has met: it stops with POISON, at this
  FAULTVA (10 R242, 12 R294) -/
  softError : Option Word
  /-- its scalar stores perform at the core late (10 R245; the model's own) -/
  lag : Bool
  /-- loads that have performed ahead of their turn (10 R245; the model's own): address and bytes -/
  ahead : List (Nat × List Byte)
  /-- lane groups onto which a waiting vpart lets no strip be dispatched (10 R227) -/
  closed : List Nat
  /-- the registers loaded since then: a load that depends on one has not issued yet (10 R245; the model's own) -/
  fresh : List Nat
  /-- the last instruction fetched (21 R406, R411): issue number and address -/
  fetched : Option (Nat × Word)
  deriving DecidableEq, Repr

/-! ## A core -/

/-- A codebook bank (11 R247); RC and WP follow from the pending sinks and the held effects (11 R255, R257). -/
structure Bank where
  bytes : List (Nat × Byte)
  valid : BitVec 256
  poison : BitVec 512
  dirty : Bool
  deriving DecidableEq, Repr

/-- A coverage accumulator (13 R296). -/
structure Cov where
  words : List (Nat × Word32)
  n : Nat
  wt : Bool
  gb : Word
  poison : List Nat
  deriving DecidableEq, Repr

/-- A binding (15 R337). -/
structure Binding where
  ctx : Nat
  obj : Word
  base : Word
  len : Word
  deriving DecidableEq, Repr

/-- A line of the data cache (10 R240): its number, bytes and poisoned words. -/
structure Line where
  num : Nat
  bytes : List Byte
  poison : BitVec 8
  deriving DecidableEq, Repr

/-- A write that has performed at the core and not yet at its home (10 R244, 15 R316), as its context stood, with its instruction's PC. -/
structure PathWrite where
  ctx : Nat
  tenant : Nat
  launch : Nat
  pc : Word
  va : Word
  pa : Nat
  data : List Byte
  poison : Bool
  deriving DecidableEq, Repr

/-- A translation that a TLB holds (19 R365). -/
structure TlbEntry where
  /-- 16 for the firmware table -/
  tenant : Nat
  va : Nat
  pa : Nat
  /-- bits of the page size -/
  bits : Nat
  r : Bool
  w : Bool
  x : Bool
  d : Bool
  attr : PageAttr
  /-- physical address of the table entry -/
  pte : Nat
  deriving DecidableEq, Repr

/-- A core (10 R225). -/
structure Core where
  pmap : Word32
  /-- contexts with a forced candidate, in order (10 R229) -/
  forced : List Nat
  ages : Nat
  cbown : Word
  cvown : Word
  banks : List (Nat × Bank)
  /-- acc0 to acc3 of 64 by 64 words, key 4096 * tile + 64 * row + column (12 R270) -/
  tiles : List (Nat × Word32)
  /-- the CTX of the comb's owner -/
  combOwner : Option Nat
  covs : List (Nat × Cov)
  /-- lane-private SRAM, key 16384 * lane + byte (10 R237) -/
  lpriv : List (Nat × Byte)
  lprivPoison : List Nat
  binds : List Binding
  cache : List Line
  path : List PathWrite
  tlb : List TlbEntry
  /-- mesh links taken out of use, by direction (15 R340) -/
  meshDown : BitVec 4
  deriving DecidableEq, Repr

/-- A core after reset (DESIGN CHOICE, assumption log 1). -/
def Core.reset : Core :=
  { pmap := 0xFFFFFFFF, forced := [], ages := 0, cbown := 0, cvown := 0, banks := [], tiles := [], combOwner := none,
    covs := [], lpriv := [], lprivPoison := [], binds := [], cache := [], path := [], tlb := [], meshDown := 0 }

/-- A bank after reset (DESIGN CHOICE, assumption log 1). -/
def Bank.reset : Bank := { bytes := [], valid := 0, poison := 0, dirty := false }

/-- A coverage accumulator after reset (DESIGN CHOICE, assumption log 1). -/
def Cov.reset : Cov := { words := [], n := 0, wt := false, gb := 0, poison := [] }

/-! ## A quad -/

/-- A forager transfer in flight (15 R317 to R321). -/
structure Transfer where
  id : Nat
  /-- 36 times the die plus the quad -/
  quad : Nat
  ctx : Nat
  tenant : Nat
  launch : Nat
  /-- PC of its bxfer -/
  pc : Word
  src : Word
  rowStride : Word
  rowBytes : Nat
  rows : Nat
  dst : Word
  /-- physical addresses of the pages that hold the destination, in order -/
  dstPa : List Nat
  obj : Word
  objPa : Nat
  graph : Nat
  /-- destination bytes -/
  n : Nat
  /-- chunks landed -/
  landed : List Nat
  /-- chunks copied again after a parity error (15 R340) -/
  recopied : List Nat
  /-- stalled on a source fault: the token of its service request, the cause and the address -/
  stalled : Option (Word32 × Cause × Word)
  /-- the slots that its flits hold reserved on the way from another die: that die and their number (21 R390) -/
  slots : Option (Nat × Nat)
  deriving DecidableEq, Repr

/-! ## A die -/

/-- A tenant record (19 R353), with the key that its key slot holds (22 R433) and what is held beside that slot: the keys of its TSS
domain (22 R416), its image key, if it has one, and the digests of its checked images (22 R432). -/
structure Tenant where
  valid : Bool
  quads : Word
  ptroot : Word
  side16 : Word
  side32 : Word
  side64 : Word
  keyslot : Word
  /-- the name of the key in the slot: every key that the device generates has one of its own; 0 for none -/
  key : Word
  inbox : Word
  events : Word
  dirtyb : Word
  tss : Word
  imageKey : Option Word
  images : List (BitVec 256)
  deriving DecidableEq, Repr

/-- A tenant record after reset (DESIGN CHOICE, assumption log 1). -/
def Tenant.reset : Tenant :=
  { valid := false, quads := 0, ptroot := 0, side16 := 0, side32 := 0, side64 := 0, keyslot := 0, key := 0, inbox := 0, events := 0,
    dirtyb := 0, tss := 0, imageKey := none, images := [] }

/-- A kernel record (19 R356). -/
structure KernelRecord where
  entry : Word
  argp : Word
  cellb : Word
  cells : Word
  qset : Word
  spill : Word
  cbreq : Word
  covreq : Nat
  ctx : Nat
  prio : Nat
  mode : Nat
  lpriv : Nat
  tag : Word
  snap : Word
  nsnap : Nat
  frzs : Nat
  frzb : Word
  deriving DecidableEq, Repr

/-- What a completion record says of a fault (19 R361). -/
structure FaultReport where
  status : Nat
  index : Nat
  cause : Word
  ctxid : Nat
  epc : Word
  faultva : Word
  faultel : Word
  blamepc : Word
  blameseq : Word
  deriving DecidableEq, Repr

/-- Where a launch stands (19 R357 to R361). -/
inductive LaunchState where
  | waiting | placed
  /-- frozen for priority: it waits to be placed again -/
  | frozen
  /-- frozen by the nurse or by a FREEZE message: it is not placed again -/
  | moved
  /-- all its contexts have ended; the completion record is still to be sent -/
  | ended
  | done
  deriving DecidableEq, Repr

/-- A launch (19 R357). -/
structure Launch where
  seq : Nat
  tenant : Nat
  kernel : KernelRecord
  state : LaunchState
  /-- the contexts placed -/
  ctxs : List Nat
  /-- the participants of its barriers, as the dispatcher fixed them: a context frozen alone stays one (15 R335) -/
  members : List Nat
  /-- physical addresses of the snapshots that it is placed from, or was frozen into -/
  images : List Nat
  fault : Option FaultReport
  /-- remote-store errors (22 R423) -/
  rserr : Nat
  /-- a FREEZE message has frozen its contexts and is still to be answered: HSEQ and the lengths of the snapshots (22 R429) -/
  freezing : Option (Word32 × List Nat)
  /-- the bytes that its contexts have written, as they stood before (05 R152) -/
  old : List Host.Cell
  deriving DecidableEq, Repr

/-- A message of an inbox that no lwait has taken (22 R417): its slot. -/
structure InboxMessage where
  tenant : Nat
  slot : Nat
  deriving DecidableEq, Repr

/-- A message that lwait has given to the firmware, which has still to act on it or to answer it (22 R417, R418). -/
structure TakenMessage where
  tenant : Nat
  msg : List Byte
  /-- of a LAUNCH, the kernel record that the firmware builds from it (19 R355, 22 R417) -/
  record : List Byte
  deriving DecidableEq, Repr

/-- Who waits for a service answer that the nurse passes on (19 R367). -/
inductive Requester where
  | context (id : Nat)
  | stream (id uid row : Nat)
  | transfer (id : Nat)
  deriving DecidableEq, Repr

/-- A service request outstanding at the driver (19 R367). -/
structure Outstanding where
  token : Word32
  tenant : Nat
  launch : Nat
  from_ : Requester
  va : Word
  deriving DecidableEq, Repr

/-- An event sent to a tenant's endpoint, the EVENTS of its record (22 R418). -/
structure SentEvent where
  tenant : Nat
  endpoint : Word
  kind : Nat
  hseq : Word32
  tick : Word
  body : List Byte
  deriving DecidableEq, Repr

/-- A sketch unit (21 R408, R409): the array is keyed 2048 * row + column. -/
structure Sketch where
  ctl : Word
  counts : List (Nat × Word32)
  total : Word
  /-- a_j and b_j of the four rows -/
  consts : List (Word × Word)
  deriving DecidableEq, Repr

/-- A debug slot (21 R410). -/
structure DebugSlot where
  ctl : Word
  base : Word
  len : Word
  deriving DecidableEq, Repr

/-- What the package reports to its management path, and what it logs as RAS records: the first line. -/
inductive ReportKind where
  | memoryCorrected | memoryPoisoned | coreError | meshFlit | meshLink | foragerError | objectDropped | barrierWire | poisonTrap
  | linkLost | dieLost | topClock | powerStep | gate | powerFault | bootFailed
  deriving DecidableEq, Repr

/-- A RAS record, which the trace ring holds as well (21 R412). -/
def ReportKind.ras : ReportKind → Bool
  | .memoryCorrected | .memoryPoisoned | .coreError | .meshFlit | .meshLink | .foragerError | .objectDropped | .barrierWire
  | .poisonTrap => true
  | .linkLost | .dieLost | .topClock | .powerStep | .gate | .powerFault | .bootFailed => false

/-- One report: its kind, the die and the place it names, the address, the tick, the name of 21 R413, and what else it says. -/
structure Report where
  kind : ReportKind
  die : Nat
  place : Nat
  addr : Word
  tick : Word
  name : List Byte
  data : List Nat
  deriving DecidableEq, Repr

/-- A die (19). -/
structure Die where
  inReset : Bool
  lost : Bool
  tenants : List (Nat × Tenant)
  /-- the digest of the firmware image that its boot ROM has checked (22 R432) -/
  firmware : BitVec 256
  /-- root of the firmware's own table (19 R363) -/
  fwRoot : Word
  tlb : List TlbEntry
  launches : List Launch
  nextSeq : Nat
  /-- the tenant whose launch was last placed, by priority (19 R359) -/
  lastPlaced : List (Nat × Nat)
  inbox : List InboxMessage
  /-- the tenant of the last message taken (19 R355) -/
  lastTaken : Option Nat
  taken : List TakenMessage
  requests : List Outstanding
  nextToken : Word32
  events : List SentEvent
  /-- what the nurse core has been notified of (10 R242, 15 R340) -/
  notices : List Report
  mvlcap : Nat
  /-- the clock and the top clock in MHz, the dispatch gate (21 R400, R401, R403) -/
  clock : Nat
  topClock : Nat
  gate : Nat
  /-- the tick of the last rise (21 R400) -/
  lastRise : Option Word
  /-- planned voltages in 5 mV steps by clock in MHz (21 R402) -/
  plan : List (Nat × Nat)
  wgctl : Word
  wgstart : Word
  wgbase : Word
  wgslots : Word
  /-- the last tick sampled (21 R406) -/
  sampled : Option Word
  /-- bytes since the last sample: DRAM read (0) and written (1), sent to die e (2 + e), Ethernet sent (6) and received (7) -/
  traffic : List (Nat × Nat)
  /-- contexts that have issued since the last sample (21 R407) -/
  issuers : List Nat
  sketches : List (Nat × Sketch)
  debug : List (Nat × DebugSlot)
  trbase : Word
  trslots : Word
  /-- trace records written -/
  trpos : Nat
  deriving DecidableEq, Repr

/-- A sketch unit after reset (DESIGN CHOICE, assumption log 1). -/
def Sketch.reset : Sketch := { ctl := 0, counts := [], total := 0, consts := [] }

/-- A debug slot after reset (DESIGN CHOICE, assumption log 1). -/
def DebugSlot.reset : DebugSlot := { ctl := 0, base := 0, len := 0 }

/-- A die after reset: held in reset until its boot ROM has run (22 R432; DESIGN CHOICE, assumption log 1). -/
def Die.reset : Die :=
  { inReset := true, lost := false, tenants := [], firmware := 0, fwRoot := 0, tlb := [], launches := [], nextSeq := 1, lastPlaced := [],
    inbox := [], lastTaken := none, taken := [], requests := [], nextToken := 0, events := [], notices := [], mvlcap := 64, clock := 3600,
    topClock := 3600, gate := 16, lastRise := none, plan := [], wgctl := 0, wgstart := 0, wgbase := 0, wgslots := 0,
    sampled := none, traffic := [], issuers := [], sketches := [], debug := [], trbase := 0, trslots := 0, trpos := 0 }

/-! ## The package -/

/-- The state of a link direction (21 R390, R391). -/
inductive LinkState where
  | up | retraining | lost
  /-- lost this moment: what waits on it fails, and nothing takes another route yet -/
  | failing
  deriving DecidableEq, Repr

/-- The counts of one virtual channel of a link direction (21 R389). -/
structure ChannelCounts where
  sent : Word32
  fk : Word32
  freed : Word32
  /-- the parities kept with the three counts -/
  sentPar : Bool
  fkPar : Bool
  freedPar : Bool
  /-- an audit is on its way, carrying this FREED -/
  audit : Option Word32
  reserved : Nat
  deriving DecidableEq, Repr

/-- A link direction (21 R387, R388). -/
structure Link where
  state : LinkState
  channels : List (Nat × ChannelCounts)
  /-- sequence numbers of unacknowledged flits, oldest first -/
  retry : List Nat
  nextFlit : Nat
  deriving DecidableEq, Repr

/-- Channel counts after reset (DESIGN CHOICE, assumption log 1). -/
def ChannelCounts.reset : ChannelCounts := { sent := 0, fk := 0, freed := 0, sentPar := false, fkPar := false, freedPar := false, audit := none, reserved := 0 }

/-- A link direction after reset (DESIGN CHOICE, assumption log 1). -/
def Link.reset : Link := { state := .up, channels := [], retry := [], nextFlit := 0 }

/-- A grant entry (22 R420). -/
structure Grant where
  base : Word
  len : Word
  ptid : BitVec 16
  perm : BitVec 2
  deriving DecidableEq, Repr

/-- A local tenant's pod entry and grant table (22 R420). -/
structure PodEntry where
  ptid : BitVec 16
  grants : List (Nat × Grant)
  deriving DecidableEq, Repr

/-- A pod entry after reset (DESIGN CHOICE, assumption log 1). -/
def PodEntry.reset : PodEntry := { ptid := 0, grants := [] }

/-- A grant entry that admits nothing. -/
def Grant.empty : Grant := { base := 0, len := 0, ptid := 0, perm := 0 }

/-- What a pod-window request of this package does (22 R421, R422). -/
inductive PodKind where
  | read (bytes : Nat)
  | write (data : List Byte)
  /-- an atomic, with its operand and, for amocas, its expected value -/
  | atomic (operand expected : Word)
  deriving DecidableEq, Repr

/-- A pod-window request that has left the package or waits to leave it (22 R421, R422). -/
structure PodRequest where
  id : Nat
  ctx : Nat
  tenant : Nat
  /-- the pod tenant that the request carries (22 R420) -/
  ptid : BitVec 16
  /-- die and sequence number of the launch -/
  die : Nat
  launch : Nat
  va : Word
  pa : Nat
  kind : PodKind
  /-- the instruction that a read or an atomic completes -/
  instr : Instr
  deriving DecidableEq, Repr

/-- The package (21, 22). -/
structure Package where
  /-- the time base (21 R393) -/
  tick : Word
  /-- key 4 * source + destination -/
  links : List (Nat × Link)
  podid : Word
  pods : List (Nat × PodEntry)
  /-- link graphs of 32 bytes, key 16 * tenant + number (22 R424) -/
  graphs : List (Nat × List Byte)
  requests : List PodRequest
  nextRequest : Nat
  reports : List Report
  /-- packages to which the fabric has no route (22 R421) -/
  noRoute : List Nat
  /-- pod groups, by pod tenant and TAG, whose other packages have been told of a fault here (22 R428) -/
  podFaults : List (BitVec 16 × Word)
  powerCut : Bool
  deriving DecidableEq, Repr

/-- The package after reset (DESIGN CHOICE, assumption log 1). -/
def Package.reset : Package :=
  { tick := 0, links := [], podid := 0, pods := [], graphs := [], requests := [], nextRequest := 0, reports := [],
    noRoute := [], podFaults := [], powerCut := false }

/-! ## The machine -/

/-- What the model lets move next (DESIGN CHOICE, assumption log 3). -/
inductive Turn where
  /-- an agent takes a step: a context by its CTXID, the nurse core of die d by 4096 + d -/
  | run (id : Nat)
  /-- one of the happenings of the other agents -/
  | happen (i : Instr)
  /-- the first happening that the pending work of a context waits for -/
  | advance (id : Nat)
  /-- the data cache of a core gives up a line (10 R240) -/
  | evictLine (core line : Nat)
  /-- a first-level TLB gives up its n-th entry, a last-level one likewise (19 R365) -/
  | evictTlb (core n : Nat)
  | evictDieTlb (die n : Nat)
  /-- a context's stores perform at its core late, or at once (10 R245) -/
  | lag (id : Nat) (on : Bool)
  /-- the oldest held effect of a context performs at its core -/
  | performHeld (id : Nat)
  /-- a load of a context performs ahead of its turn (10 R245) -/
  | loadAhead (id : Nat) (va : Word) (size : Nat)
  /-- the supervisor of a context posts a service request (19 R367) -/
  | post (id : Nat)
  /-- the supervisor of a context has the nurse end its launch (19 R369) -/
  | fatal (id : Nat)
  /-- the supervisor of a context spills or refills blocks of its window (19 R369) -/
  | window (id : Nat)
  /-- a launch of a pod group has ended on a fault on another package (22 R428) -/
  | podFault (ptid : BitVec 16) (tag : Word) (pkg : Nat)
  /-- the fabric finds a route to a package, or has none (22 R421) -/
  | route (pkg : Nat) (on : Bool)
  /-- the time base advances -/
  | time (ticks : Nat)
  deriving DecidableEq, Repr

/-- The whole machine. -/
structure State where
  /-- the agent that moves when no turn is listed -/
  me : Ctx
  /-- every other context and nurse core that is not vacant, by rising id -/
  others : List Ctx
  /-- key 144 * die + slice number -/
  cores : List (Nat × Core)
  transfers : List Transfer
  nextTransfer : Nat
  dies : List (Nat × Die)
  pkg : Package
  mem : List Host.Cell
  /-- the poisoned 8-byte words, by number (05 R150) -/
  poison : List Nat
  /-- the name of the key under which each 64-byte line was last written, by line; 0 for none (22 R433) -/
  keys : List (Nat × Word)
  turns : List Turn
  /-- the number of free values drawn (DESIGN CHOICE, assumption log 4) -/
  freeCtr : Nat
  deriving DecidableEq, Repr

/-- Why the machine stops: where the spec gives what happens no effect. -/
inductive Fault where
  /-- a trap taken by a nurse core: the spec gives a nurse no trap entry of its own (19 R352); safe -/
  | nurseTrap (c : Cause)
  deriving DecidableEq, Repr

/-- Why an instruction has no meaning. -/
inductive Refusal where
  /-- raised by an arm of Dispatch whose meaning is not written; safe -/
  | notModelled (mnemonic : String)
  deriving DecidableEq, Repr

/-- The outcomes of a step of this machine. -/
abbrev Res : Type := Host.Outcome State Fault Refusal

/-- The CSRs of a context that no launch has placed (01 R36, R38; DESIGN CHOICE, assumption log 1). -/
def Csrs.reset (ctxid : Word) : Csrs :=
  { vl := 0, vtype := 0, vmode := 0, elbase := 0, strip := 0, flags := 0, feInv := -1, feDz := -1, feOvf := -1,
    feUnf := -1, feInx := -1, feSat := -1, feCbi := -1, srseed := 0, srsalt := 0, rngkey := 0, repc := 0, deadm := 0,
    cellbase := 0, celllim := 0, celluse := 0, cellcnt := 0, cbsel := 0, mvl := 0, mprog := 0, win := 0,
    ctxid := ctxid, status := 0, epc := 0, cause := 0, faultva := 0, faultel := -1, blamepc := 0, blameseq := 0 }

/-- The registers of a context that no launch has placed. -/
def Arch.reset (ctxid : Word) : Arch :=
  { pc := 0, rep := none, regs := [], dead := 0, vh := [], kh := [], csr := Csrs.reset ctxid, brood := [], seq := 0,
    cells := [] }

/-- A context position that holds no placed context. -/
def Ctx.vacant (id : Nat) : Ctx :=
  { id := id, state := .vacant, a := Arch.reset (BitVec.ofNat 64 (id % 4096)), pend := [], run := none, stopped := none,
    resume := none, held := [], wait := .none, issueNo := 0, epoch := 0, nextUid := 0, rows := [], event := false, launch := 0, index := 0,
    size := 0, lpriv := 0, service := none, lostWrite := none, softError := none, lag := false, ahead := [],
    closed := [], fresh := [], fetched := none }

/-- The machine after reset: no context placed, every die in reset until its boot ROM runs, memory with nothing listed. -/
def State.reset : State :=
  { me := Ctx.vacant 0, others := [], cores := [], transfers := [], nextTransfer := 0, dies := [], pkg := Package.reset,
    mem := [], poison := [], keys := [], turns := [], freeCtr := 0 }

end Sys2Proof.Machine
end

