-- ==== Sys2Proof/Machine/Ops.lean ====
section
/-!
DEFINITION. The operations every meaning is built from: reaching a context, a core, a die; the scalar window and its
dead bits; the fields of the CSRs; advancing; waiting; taking a trap and ending a launch.
-/

namespace Sys2Proof.Machine

/-! ## Codes -/

/-- The code of a trap cause (01 R34). -/
def Cause.code : Cause → Nat
  | .illegal => 0x01 | .vtypeIll => 0x02 | .lenMismatch => 0x03 | .deadRead => 0x04 | .page => 0x05 | .perm => 0x06
  | .format => 0x07 | .poison => 0x08 | .align => 0x09 | .cbInvalid => 0x0A | .cbOwner => 0x0B | .combOwner => 0x0C
  | .covOwner => 0x0D | .cellFull => 0x0E | .winOvf => 0x0F | .winUnf => 0x11 | .watch => 0x12 | .brk => 0x13
  | .fp => 0x14 | .remote => 0x15 | .linkLost => 0x16 | .priv => 0x17

/-- The priority of a cause among the events of one element, 1 the highest (19 R368). -/
def Cause.priority : Cause → Nat
  | .align => 1 | .page => 2 | .perm => 3 | .format => 4 | .cbInvalid => 5 | .watch => 6 | .poison => 7 | .remote => 8
  | .linkLost => 9 | _ => 10

/-- The bit of a flag in FLAGS (01 R24). -/
def Flag.index : Flag → Nat
  | .inv => 0 | .dz => 1 | .ovf => 2 | .unf => 3 | .inx => 4 | .sat => 5 | .cbi => 6

/-- The mask of a list of flags. -/
def flagMask (fs : List Flag) : Word := fs.foldl (fun w f => w ||| (1 : Word) <<< f.index) 0

/-! ## Who is where -/

/-- A nurse core (19 R352). -/
def Ctx.nurse (c : Ctx) : Bool := decide (4096 ≤ c.id)

/-- The die of a context or a nurse core (01 R35). -/
def Ctx.die (c : Ctx) : Nat := if c.id < 4096 then c.id / 1024 else c.id - 4096

/-- The quad, numbered over the package: 36 times the die plus QUAD. -/
def Ctx.quad (c : Ctx) : Nat := 36 * (c.id / 1024) + c.id / 16 % 64

/-- QPOS (01 R35). -/
def Ctx.qpos (c : Ctx) : Nat := c.id / 4 % 4

/-- CTX, the context within its core (01 R35). -/
def Ctx.pos (c : Ctx) : Nat := c.id % 4

/-- The core, numbered over the package: 144 times the die plus the slice number (15 R314). A nurse core has its own store
path, numbered after those of the cores. -/
def Ctx.core (c : Ctx) : Nat := if c.nurse then 576 + c.die else 4 * c.quad + c.qpos

/-- A CTXID that names a position of the package: 36 quads to a die (01 R35). -/
def positionExists (id : Nat) : Bool := decide (id < 4096) && decide (id / 16 % 64 < 36)

/-- A context among contexts with other ids, in rising order. -/
def placeCtx (c : Ctx) : List Ctx → List Ctx
  | [] => [c]
  | x :: r => if c.id < x.id then c :: x :: r else x :: placeCtx c r

/-- Contexts in rising order of id, one replaced or added; a vacant one is not listed. -/
def insertCtx (c : Ctx) (cs : List Ctx) : List Ctx :=
  let r := cs.filter fun x => decide (x.id ≠ c.id)
  if c = Ctx.vacant c.id then r else placeCtx c r

/-- The context with an id, among those that are not me. -/
def findCtx (id : Nat) : List Ctx → Ctx
  | [] => Ctx.vacant id
  | x :: r => if x.id = id then x else findCtx id r

/-- The context with an id. -/
def State.ctx (s : State) (id : Nat) : Ctx := if s.me.id = id then s.me else findCtx id s.others

/-- Makes another agent the one that moves. -/
def State.focus (s : State) (id : Nat) : State :=
  if s.me.id = id then s
  else { s with me := findCtx id s.others, others := insertCtx s.me (s.others.filter fun x => decide (x.id ≠ id)) }

/-- An operation on another agent, after which the same agent moves as before. -/
def State.at (s : State) (id : Nat) (f : State → State) : State := (f (s.focus id)).focus s.me.id

/-- Changes a context, wherever it stands. -/
def State.modifyCtx (s : State) (id : Nat) (f : Ctx → Ctx) : State :=
  if s.me.id = id then { s with me := f s.me } else { s with others := insertCtx (f (findCtx id s.others)) s.others }

/-- Every context that is listed. -/
def State.contexts (s : State) : List Ctx := s.me :: s.others

/-- A core. -/
def State.core (s : State) (k : Nat) : Core := Sparse.get Core.reset s.cores k

/-- Changes a core. -/
def State.setCore (s : State) (k : Nat) (f : Core → Core) : State :=
  { s with cores := Sparse.set Core.reset s.cores k (f (s.core k)) }

/-- The core of the agent that moves. -/
def State.myCore (s : State) : Core := s.core s.me.core

/-- Changes the core of the agent that moves. -/
def State.setMyCore (s : State) (f : Core → Core) : State := s.setCore s.me.core f

/-- A die. -/
def State.die (s : State) (d : Nat) : Die := Sparse.get Die.reset s.dies d

/-- Changes a die. -/
def State.setDie (s : State) (d : Nat) (f : Die → Die) : State :=
  { s with dies := Sparse.set Die.reset s.dies d (f (s.die d)) }

/-- A tenant record of a die (19 R353). -/
def Die.tenant (d : Die) (t : Nat) : Tenant := Sparse.get Tenant.reset d.tenants t

/-- Changes a tenant record. -/
def Die.setTenant (d : Die) (t : Nat) (f : Tenant → Tenant) : Die :=
  { d with tenants := Sparse.set Tenant.reset d.tenants t (f (d.tenant t)) }

/-- Draws a number for a free value. -/
def State.draw (s : State) : State := { s with freeCtr := s.freeCtr + 1 }

/-! ## Names, trace records and reports (21 R412, R413) -/

/-- The 32-byte name of a context's instruction (21 R413). NPC is not specified: one value for new launches, another for
restores (DESIGN CHOICE, assumption log 4). -/
def nameBytes (kind lseq ctxid : Nat) (pc : Word) (nseq : Word32) : List Byte :=
  leBytes (Config.freeWord kind).toNat 8 ++ leBytes lseq 4 ++ leBytes ctxid 2 ++ leBytes 0 2 ++ leBytes pc.toNat 8 ++
    leBytes nseq.toNat 4 ++ leBytes 0 4

/-- Writes one trace record to the ring of a die, if it has one (21 R412). -/
def State.trace (s : State) (die kind : Nat) (addr el : Word) (name : List Byte) : State :=
  let d := s.die die
  if d.trslots = 0 then s
  else
    let rec_ := leBytes kind 8 ++ leBytes s.pkg.tick.toNat 8 ++ leBytes addr.toNat 8 ++ leBytes el.toNat 8 ++ name
    let at_ := d.trbase.toNat + d.trpos % d.trslots.toNat * 64
    let s := { s with mem := Sparse.setRun 0 s.mem at_ rec_, poison := s.poison.filter fun w => decide (8 * w + 8 ≤ at_) || decide (at_ + 64 ≤ 8 * w) }
    s.setDie die fun d => { d with trpos := d.trpos + 1 }

/-- The name of an event that no instruction and no context has (21 R413). -/
def noName : List Byte := nameBytes 0 0 0 0 (-1)

/-- A report to the management path; a RAS record goes into the trace ring of the die as well, as a record of kind 4 with its
address, 0 where it has none (21 R412). -/
def State.reportAt (s : State) (k : ReportKind) (die place : Nat) (addr : Word) (name : List Byte) (data : List Nat) : State :=
  let s := if k.ras then s.trace die 4 addr (-1) name else s
  { s with pkg := { s.pkg with reports := s.pkg.reports ++
      [{ kind := k, die := die, place := place, addr := addr, tick := s.pkg.tick, name := name, data := data }] } }

/-- Adds to a counter of a die (21 R406). -/
def Die.count (d : Die) (k n : Nat) : Die := { d with traffic := Sparse.set 0 d.traffic k (Sparse.get 0 d.traffic k + n) }

/-- An event to a tenant's endpoint (22 R418). -/
def State.sendEvent (s : State) (die tenant kind : Nat) (hseq : Word32) (body : List Byte) : State :=
  s.setDie die fun d => Die.count { d with events := d.events ++
    [{ tenant := tenant, endpoint := (d.tenant tenant).events, kind := kind, hseq := hseq, tick := s.pkg.tick, body := body }] } 6 (16 + body.length)

/-- A RAS record as the driver of a tenant gets it: the address and the name (22 R418; DESIGN CHOICE, assumption log 11). -/
def State.sendRas (s : State) (die tenant : Nat) (addr : Word) (name : List Byte) : State :=
  s.sendEvent die tenant 0x83 0 (leBytes addr.toNat 8 ++ name)

/-- The nurse core of a die is notified (10 R242, 15 R340). -/
def State.notify (s : State) (k : ReportKind) (die place : Nat) (addr : Word) (name : List Byte) : State :=
  s.setDie die fun d => { d with notices := d.notices ++
    [{ kind := k, die := die, place := place, addr := addr, tick := s.pkg.tick, name := name, data := [] }] }

/-- A report that names no address and no context. -/
def State.report (s : State) (k : ReportKind) (die place : Nat) : State := s.reportAt k die place 0 noName []

/-- KIND of a context's launch: 0 new, 1 restore (19 R356). -/
def State.launchKind (s : State) (c : Ctx) : Nat :=
  match (s.die c.die).launches.find? fun l => l.seq == c.launch with
  | some l => l.kernel.mode / 2 % 2
  | none => 0

/-- The name of an instruction of a context (21 R413). -/
def State.nameOf (s : State) (c : Ctx) (pc : Word) (nseq : Word32) : List Byte := nameBytes (s.launchKind c) c.launch c.id pc nseq

/-- The name of an instruction of the agent that moves. -/
def State.name (s : State) (pc : Word) (nseq : Word32) : List Byte := s.nameOf s.me pc nseq

/-! ## Fields of the CSRs -/

/-- Supervisor mode (01 R34). -/
def Csrs.sup (c : Csrs) : Bool := bit c.status 0

/-- The tenant of a context (01 R34). -/
def Csrs.tenant (c : Csrs) : Nat := field c.status 8 4

/-- WINB (01 R13). -/
def Csrs.winb (c : Csrs) : Nat := field c.win 0 5

/-- WDEPTH (01 R13). -/
def Csrs.wdepth (c : Csrs) : Nat := field c.win 8 6

/-- DEADM.TRAP (01 R18). -/
def Csrs.deadTrap (c : Csrs) : Bool := bit c.deadm 0

/-- STRIP.PEND (01 R27). -/
def Csrs.stripPend (c : Csrs) : Bool := bit c.strip 31

/-- VTYPE.ILL (01 R20). -/
def Csrs.ill (c : Csrs) : Bool := bit c.vtype 31

/-- REPC.ACT (01 R28). -/
def Csrs.repAct (c : Csrs) : Bool := bit c.repc 7

/-- REPC.DONE (01 R28). -/
def Csrs.repDone (c : Csrs) : Nat := field c.repc 0 7

/-- The FEIX register of a flag (01 R25). -/
def Csrs.feix (c : Csrs) : Flag → Word
  | .inv => c.feInv | .dz => c.feDz | .ovf => c.feOvf | .unf => c.feUnf | .inx => c.feInx | .sat => c.feSat | .cbi => c.feCbi

/-- Writes the FEIX register of a flag. -/
def Csrs.setFeix (c : Csrs) (f : Flag) (v : Word) : Csrs :=
  match f with
  | .inv => { c with feInv := v } | .dz => { c with feDz := v } | .ovf => { c with feOvf := v }
  | .unf => { c with feUnf := v } | .inx => { c with feInx := v } | .sat => { c with feSat := v }
  | .cbi => { c with feCbi := v }

/-! ## The scalar window (01 R12 to R15) -/

/-- The physical register that sN names, for N at least 1. -/
def Arch.phys (a : Arch) (n : SReg) : Nat := (16 * a.csr.winb + n.toNat) % 512

/-- A scalar register as an instruction reads it: s0 and a dead register read 0 (01 R12, R15). -/
def Arch.reg (a : Arch) (n : SReg) : Word :=
  if n = 0 then 0 else if a.dead.getLsbD (a.phys n) then 0 else Sparse.get 0 a.regs (a.phys n)

/-- A read that traps under DEADM.TRAP (01 R15). -/
def Arch.deadRead (a : Arch) (n : SReg) : Bool :=
  decide (n ≠ 0) && a.dead.getLsbD (a.phys n) && a.csr.deadTrap

/-- Writes a physical register and clears its dead bit. -/
def Arch.setPhys (a : Arch) (p : Nat) (v : Word) : Arch :=
  { a with regs := Sparse.set 0 a.regs p v, dead := a.dead &&& ~~~((1 : BitVec 512) <<< p) }

/-- Writes a scalar register; a write to s0 is discarded (05 R126). -/
def Arch.setReg (a : Arch) (n : SReg) (v : Word) : Arch := if n = 0 then a else a.setPhys (a.phys n) v

/-- The scalar register of a six-bit base or operand field (04 R105). -/
def sregOfBase (b : BaseReg) : SReg := b.setWidth 7

/-- Changes the registers of the agent that moves. -/
def State.setArch (s : State) (f : Arch → Arch) : State := { s with me := { s.me with a := f s.me.a } }

/-- Reads a scalar register of the agent that moves. -/
def State.reg (s : State) (n : SReg) : Word := s.me.a.reg n

/-- Writes a scalar register of the agent that moves. -/
def State.setReg (s : State) (n : SReg) (v : Word) : State := s.setArch fun a => a.setReg n v

/-- Changes the CSRs of the agent that moves. -/
def State.setCsr (s : State) (f : Csrs → Csrs) : State := s.setArch fun a => { a with csr := f a.csr }

/-! ## Every view of a context's registers

While sinks are pending, a context has more than one view of its registers: its own, and for each pending sink the
view to which a stop or a freeze returns it (02 R68, R71). What a pass itself changes is changed in all of them. -/

/-- Changes both views of a pending item. -/
def Pend.mapArch (f : Arch → Arch) (p : Pend) : Pend := { p with before := f p.before, after := f p.after }

/-- Changes the views of a pass. -/
def Run.mapArch (f : Arch → Arch) (r : Run) : Run := { r with items := r.items.map (Pend.mapArch f) }

/-- Changes the view of a held effect. -/
def Held.mapArch (f : Arch → Arch) (h : Held) : Held := { h with before := f h.before }

/-- Changes every view of a context. -/
def Ctx.mapArch (f : Arch → Arch) (c : Ctx) : Ctx :=
  { c with a := f c.a, pend := c.pend.map (Pend.mapArch f), run := c.run.map (Run.mapArch f), held := c.held.map (Held.mapArch f),
           stopped := c.stopped.map (Run.mapArch f) }

/-- A sink of the context is pending or its pass runs (02 R44, R47). -/
def Ctx.busy (c : Ctx) : Bool := !c.pend.isEmpty || c.run.isSome

/-! ## Advancing -/

/-- The address of the instruction that issues: under a rep, the prefixed word (04 R119). -/
def Arch.ipc (a : Arch) : Word := match a.rep with | none => a.pc | some _ => a.pc + 4

/-- The registers after an instruction that does not jump: PC + 4, or under a rep the next repeat (04 R119). -/
def Arch.next (a : Arch) : Arch :=
  match a.rep with
  | none => { a with pc := a.pc + 4 }
  | some r =>
    if a.csr.repDone + 1 < r.count then { a with rep := none, csr := { a.csr with repc := word (0x80 + a.csr.repDone + 1) } }
    else { a with rep := none, pc := a.pc + 8, csr := { a.csr with repc := 0 } }

/-- REPC as the stop of a repeat's pass leaves it (04 R121). -/
def Arch.repcStopped (a : Arch) : Option Word :=
  match a.rep with | none => none | some _ => some (word (0x80 + a.csr.repDone + 1))

/-- One more instruction has issued. -/
def State.issued (s : State) : State := { s with me := { s.me with issueNo := s.me.issueNo + 1 } }

/-- The instruction completes and control goes to the next one. -/
def State.retire (s : State) : State := s.issued.setArch Arch.next

/-- The instruction completes and control goes to a target. -/
def State.jump (s : State) (t : Word) : State := s.issued.setArch fun a => { a with pc := t }

/-- No sink after this instruction joins a pass of a sink before it (02 R48). -/
def State.apart (s : State) : State := { s with me := { s.me with epoch := s.me.epoch + 1 } }

/-- A full run-ahead limit: 256 instructions past the oldest pending sink (10 R235). -/
def Ctx.aheadFull (c : Ctx) : Bool :=
  let past (p : Pend) : Bool := decide (p.no + 256 < c.issueNo)
  c.pend.any past || (match c.run with | some r => r.items.any past | none => false)

/-! ## Waiting

An instruction that must wait leaves its registers as they are and issues again. It asks for the happening that the wait
is for as the next turn: the sequencer's, a lane group's, the store path's (DESIGN CHOICE, assumption log 5). -/

/-- A lane group is usable by a context: assigned to it or shared (10 R226). -/
def groupUsable (pmap : Word32) (pos g : Nat) : Bool :=
  pmap.toNat / 2 ^ (4 * g) % 16 == pos || pmap.toNat / 2 ^ (4 * g) % 16 == 15

/-- The lane groups that run a strip, over the contexts of a core (10 R228). -/
def State.busyGroups (s : State) (core : Nat) : List Nat :=
  (s.contexts.filter fun c => !c.nurse && c.core == core).flatMap fun c =>
    match c.run with
    | none => []
    | some r => (r.strips.filter fun t => !t.finished).map fun t => t.group

/-- The entry of a number in a brood table (02 R39). -/
def broodEntry : List (Nat × Entry) → Nat → Option Entry
  | [], _ => none
  | (k, e) :: r, n => if k = n then some e else broodEntry r n

/-- A reference to a stream. -/
def Ref.isStream : Ref → Bool
  | .stream _ => true
  | _ => false

/-- A sink that runs no pass: a step of two streams, and cvprbb (12 R282, 13 R306). -/
def Entry.passless (e : Entry) : Bool :=
  match e.op with
  | .cvprbb .. => true
  | .comba .. | .combs .. | .combi .. => e.a.ref.isStream && e.b.ref.isStream
  | _ => false

/-- The elements of a sink's final stage: vext runs up to the element it takes (07 R197). -/
def Entry.passLen (e : Entry) : Nat :=
  match e.op with
  | .vext .. => e.val.toNat + 1
  | _ => if e.passless then 0 else e.len

/-- The stages before the final one. -/
def Run.stages (r : Run) : List Stage := r.items.flatMap fun p => p.stages

/-- The sinks of a run. -/
def Run.sinks (r : Run) : List Entry :=
  (r.items.filter fun p => !p.implicit).filterMap fun p => broodEntry p.after.brood p.entry

/-- The length of the stage that runs: the cell's for a stage, the first sink's for the final one (02 R50). -/
def Run.length (r : Run) : Nat :=
  match r.stages[r.stage]? with
  | some st => st.cell.len
  | none => match r.sinks with
    | [] => 0
    | e :: _ => e.passLen

/-- The number of strips of a stage (02 R53). -/
def Run.stripCount (r : Run) : Nat := (r.length + 127) / 128

/-- The instruction waits: nothing changes but what moves next. -/
def State.wait (s : State) : State := { s with turns := .advance s.me.id :: s.turns }

/-! ## The end of a launch (19 R361, R369) -/

/-- A launch of a die by its sequence number. -/
def Die.launch? (d : Die) (seq : Nat) : Option Launch := d.launches.find? fun l => l.seq == seq

/-- Changes a launch. -/
def Die.setLaunch (d : Die) (seq : Nat) (f : Launch → Launch) : Die :=
  { d with launches := d.launches.map fun l => if l.seq = seq then f l else l }

/-- A unit is owned by a context position: EN, bit 3n + 2, over CTX, bits 3n + 1 and 3n (11 R249, 13 R297). -/
def ownedBy (w : Word) (n pos : Nat) : Bool := field w (3 * n) 3 == 4 + pos

/-- Removes what a context holds of its core: bindings, the comb, banks and accumulators (19 R360). -/
def Core.release (k : Core) (id : Nat) : Core :=
  let pos := id % 4
  let clear (n : Nat) (w : Word) : Word :=
    (List.range n).foldl (fun w i => if ownedBy w i pos then setField w (3 * i) 3 0 else w) w
  { k with binds := k.binds.filter fun b => decide (b.ctx ≠ id), cbown := clear 16 k.cbown, cvown := clear 2 k.cvown,
           combOwner := if k.combOwner = some pos then none else k.combOwner, forced := k.forced.filter fun i => decide (i ≠ id) }

/-- A context stops with its launch: held effects, pending sinks and passes are discarded (19 R369, 02 R68). -/
def Ctx.stop (c : Ctx) : Ctx :=
  { c with state := .stopped, pend := [], run := none, held := [], wait := .none, rows := [], ahead := [], closed := [],
           a := { c.a with csr := { c.a.csr with mvl := 0 } } }

/-- Every context of a launch stops. -/
def State.stopContexts (s : State) (ids : List Nat) : State :=
  ids.foldl (fun s id => (s.modifyCtx id Ctx.stop).setCore (s.ctx id).core fun k => k.release id) s

/-- One launch ends with a report (19 R369); a launch that has already ended keeps its first. -/
def State.endLaunch (s : State) (d seq : Nat) (f : FaultReport) : State :=
  match (s.die d).launch? seq with
  | none => s
  | some l =>
    match l.state with
    | .ended | .done => s
    | .placed =>
      (s.stopContexts l.ctxs).setDie d fun x => x.setLaunch seq fun l => { l with state := .ended, fault := some f }
    | .waiting | .frozen | .moved => s.setDie d fun x => x.setLaunch seq fun l => { l with state := .ended, fault := some f }

/-- A TAG that names several dies: a launch whose TAG names none, or only its own, forms a group of its own (21 R394). -/
def tagGroups (tag : Word) : Bool := decide (2 ≤ ((List.range 4).filter fun d => bit tag (60 + d)).length)

/-- Two launches of one package group: one tenant, one TAG that names several dies (21 R394). -/
def sameGroup (t : Nat) (tag : Word) (l : Launch) : Bool := l.tenant == t && l.kernel.tag == tag && tagGroups tag

/-- A launch of a pod group: its tenant has a pod tenant, and its TAG counts other packages (22 R427). -/
def State.podGroup (s : State) (l : Launch) : Bool :=
  decide ((Sparse.get PodEntry.reset s.pkg.pods l.tenant).ptid ≠ 0) && field l.kernel.tag 48 12 != 0

/-- A launch ends on a fault, and every other launch of its package group ends with it, placed or still to be placed (21 R395);
the other packages of its pod group are told (22 R428). -/
def State.endGroup (s : State) (d seq : Nat) (f : FaultReport) : State :=
  match (s.die d).launch? seq with
  | none => s
  | some l =>
    let s := if s.podGroup l then
        { s with pkg := { s.pkg with podFaults := s.pkg.podFaults ++ [((Sparse.get PodEntry.reset s.pkg.pods l.tenant).ptid, l.kernel.tag)] } }
      else s
    (List.range 4).foldl (fun s e => (s.die e).launches.foldl (fun s m =>
      if sameGroup l.tenant l.kernel.tag m && !(e == d && m.seq == seq) && m.state != .moved
      then s.endLaunch e m.seq { f with status := 1 } else s) s) (s.endLaunch d seq f)

/-- The report on a context's own trap registers (19 R361). -/
def Ctx.faultReport (c : Ctx) (status : Nat) (cause : Word) : FaultReport :=
  { status := status, index := c.index, cause := cause, ctxid := c.id, epc := c.a.csr.epc, faultva := c.a.csr.faultva,
    faultel := c.a.csr.faultel, blamepc := c.a.csr.blamepc, blameseq := c.a.csr.blameseq }

/-- The name of the instruction, or of the node or sink, at which a context has trapped (01 R33, 21 R413). -/
def State.faultName (s : State) (c : Ctx) : List Byte :=
  let r := c.a.csr
  if bit r.cause 8 then s.nameOf c r.blamepc (BitVec.ofNat 32 r.blameseq.toNat) else s.nameOf c r.epc (-1)

/-- A launch has ended on a POISON trap of a context: a RAS record for the tenant's driver and for the management path (19
R382). -/
def State.poisonRas (s : State) (c : Ctx) (name : List Byte) (code : Nat) (va : Word) : State :=
  if code = Cause.poison.code then (s.sendRas c.die c.a.csr.tenant va name).reportAt .poisonTrap c.die c.id va name [] else s

/-! ## Taking a trap (01 R33) -/

/-- What a trap says. -/
structure TrapInfo where
  cause : Cause
  va : Word
  write : Bool
  /-- the absolute element and the node of a trap in a pass, with its sink slot (01 R33) -/
  pass : Option (Word × Word × Word32 × Nat)
  /-- a code that stands in place of the cause's own: ECODE of an object (15 R330) -/
  code : Option Nat := none
  deriving DecidableEq, Repr

/-- The CAUSE word of a trap (01 R33). -/
def TrapInfo.word (t : TrapInfo) : Word :=
  Sys2Proof.Machine.word (t.code.getD t.cause.code + (if t.pass.isSome then 0x100 else 0) +
    (match t.pass with | some (_, _, _, slot) => slot % 8 * 0x200 | none => 0) + (if t.write then 0x1000 else 0))

/-- The supervisor entry point (19 R369). -/
def supervisorEntry : Word := 0xFFFFFF0000000000

/-- The registers after a trap taken in user mode (01 R33). EPC is the PC; a trap at a repeat leaves it at the rep. -/
def Arch.trap (t : TrapInfo) (a : Arch) : Arch :=
  let c := a.csr
  let c := { c with status := setField (setField c.status 1 1 (if c.sup then 1 else 0)) 0 1 1, epc := a.pc,
                    cause := t.word, faultva := t.va }
  let c := match t.pass with
    | some (el, pc, seq, _) => { c with faultel := el, blamepc := pc, blameseq := seq.setWidth 64 }
    | none => { c with faultel := -1 }
  { a with csr := c, rep := none, pc := supervisorEntry }

/-- The name of what traps: a node or sink of a pass, or the instruction at PC (21 R413). -/
def State.trapName (s : State) (t : TrapInfo) : List Byte :=
  match t.pass with
  | some (_, pc, q, _) => s.name pc q
  | none => s.name s.me.a.pc (-1)

/-- A trap of the context that moves: taken under R33, or the double trap that ends its launch (19 R369). -/
def State.takeTrap (s : State) (t : TrapInfo) : Res :=
  if s.me.nurse then .fault (.nurseTrap t.cause)
  else if s.me.a.csr.sup then
    .next (((s.modifyCtx s.me.id Ctx.stop).endGroup s.me.die s.me.launch (s.me.faultReport 4 t.word)).poisonRas s.me (s.trapName t)
      t.cause.code t.va)
  else .next ((s.setArch (Arch.trap t)).trace s.me.die 3 t.va (match t.pass with | some (el, _) => el | none => -1) (s.trapName t))

/-- A trap at issue: taken once every earlier sink of the context has completed (05 R128). -/
def State.trapAtIssue (s : State) (c : Cause) (va : Word) (write : Bool) : Res :=
  if s.me.busy then .next s.wait else s.takeTrap { cause := c, va := va, write := write, pass := none }

/-- A trap at issue with FAULTVA 0. -/
def State.trap (s : State) (c : Cause) : Res := s.trapAtIssue c 0 false

/-- The instruction reads scalar registers: a dead one traps under DEADM.TRAP, before anything changes (01 R15). -/
def State.reading (s : State) (srcs : List SReg) (k : State → Res) : Res :=
  if srcs.any fun n => s.me.a.deadRead n then s.trap .deadRead else k s

/-- The privilege check of a supervisor instruction (19 R370): supervisor mode, or a nurse core. -/
def State.supervisor (s : State) (k : State → Res) : Res :=
  if s.me.nurse || s.me.a.csr.sup then k s else s.trap .priv

/-- The privilege check of a nurse instruction (19 R370): every vector loop context traps PRIV. -/
def State.nurseOnly (s : State) (k : State → Res) : Res := if s.me.nurse then k s else s.trap .priv

/-- The units that only a vector loop context has: a nurse core has none of them (19 R352; DEDUCED, assumption log 6). -/
def State.vectorUnit (s : State) (k : State → Res) : Res := if s.me.nurse then s.trap .illegal else k s

/-- The instruction waits until every earlier sink of the context has completed. -/
def State.afterSinks (s : State) (k : State → Res) : Res := if s.me.busy then .next s.wait else k s

/-- Flags raised by a scalar instruction are ORed into FLAGS; no FEIX changes (01 R24, R25). -/
def State.raise (s : State) (fs : List Flag) : State :=
  if fs.isEmpty then s else s.setCsr fun c => { c with flags := c.flags ||| flagMask fs }

end Sys2Proof.Machine
end

