-- ==== Sys2Proof/Machine/Links.lean ====
section
/-!
DEFINITION. The die-to-die links: their virtual channels, slot tokens and retry buffers (21 R387 to R391), the way of an access
over them, and what traffic leaves in the counters of a die and in its sketch units (21 R406 to R409).
-/

namespace Sys2Proof

/-- Number and receiver slots of a channel (21 R387). -/
def Channel.index : Channel → Nat
  | .req => 0 | .rsp => 1 | .bulk => 2 | .side => 3
@[inherit_doc Channel.index] def Channel.slots : Channel → Nat
  | .req => 1024 | .rsp => 1024 | .bulk => 2048 | .side => 64

end Sys2Proof

namespace Sys2Proof.Machine

/-! ## Slot tokens (21 R389) -/

/-- The parity of a count. -/
def parity (w : Word32) : Bool := (List.range 32).foldl (fun p i => p != w.getLsbD i) false

/-- A flit is sent. -/
def ChannelCounts.send (c : ChannelCounts) : ChannelCounts := { c with sent := c.sent + 1, sentPar := parity (c.sent + 1) }

/-- The receiver frees slots. -/
def ChannelCounts.free (c : ChannelCounts) (k : Nat) : ChannelCounts :=
  { c with freed := c.freed + BitVec.ofNat 32 k, freedPar := parity (c.freed + BitVec.ofNat 32 k) }

/-- The sender knows of freed slots. -/
def ChannelCounts.know (c : ChannelCounts) (fk : Word32) : ChannelCounts := { c with fk := fk, fkPar := parity fk }

/-- The counts stand under their parities. -/
def ChannelCounts.sound (c : ChannelCounts) : Bool :=
  c.sentPar == parity c.sent && c.fkPar == parity c.fk && c.freedPar == parity c.freed

/-- Every slot return that is on its way arrives; an audit on its way is one sent after them. -/
def ChannelCounts.arrive (c : ChannelCounts) : ChannelCounts := { c.know c.freed with audit := c.audit.map fun _ => c.freed }

/-- SENT, FK and FREED exchanged afresh, with their parities (21 R390). -/
def ChannelCounts.exchanged (c : ChannelCounts) : ChannelCounts := { c.know c.freed with audit := none, sentPar := parity c.sent, freedPar := parity c.freed }

/-! ## Link directions (21 R387 to R390) -/

/-- The link from one die to another. -/
def State.link (s : State) (src dst : Nat) : Link := Sparse.get Link.reset s.pkg.links (4 * src + dst)

/-- Changes a link direction. -/
def State.setLink (s : State) (a b : Nat) (f : Link → Link) : State :=
  { s with pkg := { s.pkg with links := Sparse.set Link.reset s.pkg.links (4 * a + b) (f (s.link a b)) } }

/-- The counts of a channel. -/
def Link.channel (l : Link) (c : Channel) : ChannelCounts := Sparse.get ChannelCounts.reset l.channels c.index

/-- Changes the counts of a channel. -/
def Link.setChannel (l : Link) (c : Channel) (f : ChannelCounts → ChannelCounts) : Link :=
  { l with channels := Sparse.set ChannelCounts.reset l.channels c.index (f (l.channel c)) }

/-- The sender's credit (R389). -/
def Link.credit (l : Link) (c : Channel) : Nat := c.slots - ((l.channel c).sent - (l.channel c).fk).toNat

/-- A link direction under retrain; a lost link stays lost (R390, R391). -/
def Link.startRetrain (l : Link) : Link := if l.state = .up then { l with state := .retraining } else l

/-- A flit may go: a credit, and room in the retry buffer (R388, R389). -/
def Link.maySend (l : Link) (c : Channel) : Bool := decide (0 < l.credit c) && decide (l.retry.length < 4096)

/-- A flit is sent: it stands in the retry buffer, and its slot return is still to come. -/
def Link.sendFlit (l : Link) (c : Channel) : Link :=
  { l.setChannel c ChannelCounts.send with retry := l.retry ++ [l.nextFlit], nextFlit := l.nextFlit + 1 }

/-- Slots of the receiver are freed. -/
def Link.freeSlots (l : Link) (c : Channel) (k : Nat) : Link := l.setChannel c fun x => x.free k

/-- Slot returns and acknowledgements that are on their way arrive. -/
def Link.settle (l : Link) : Link :=
  { [Channel.req, .rsp, .bulk, .side].foldl (fun (l : Link) c => l.setChannel c ChannelCounts.arrive) l with retry := [] }

/-- A flit passes a link direction: a credit and room first, if need be once what is on its way has arrived. -/
def Link.pass (l : Link) (c : Channel) : Link := ((if l.maySend c then l else l.settle).sendFlit c).freeSlots c 1

/-! ## Counters and sketches (21 R406 to R409) -/

/-- h_j of a key. -/
def sketchHash (k : Word × Word) (x : Word) : Nat := (k.1 * x + k.2).toNat / 2 ^ 53

/-- An event of weight c with key x: TOTAL, and one saturating counter of each row. -/
def Sketch.count (u : Sketch) (x : Word) (c : Nat) : Sketch :=
  { u with
    total := u.total + word c,
    counts := (List.zip (List.range 4) u.consts).foldl (fun m k =>
      let i := 2048 * k.1 + sketchHash k.2 x
      Sparse.set 0 m i (BitVec.ofNat 32 (min (2 ^ 32 - 1) ((Sparse.get 0 m i).toNat + c)))) u.counts }

/-- An event of a context at a PC, for the units of its die that count its kind. -/
def State.sketchEvent (s : State) (c : Ctx) (pc : Word) (event weight : Nat) : State :=
  if c.nurse || (s.die c.die).sketches.isEmpty then s
  else s.setDie c.die fun d =>
    [0, 1].foldl (fun (d : Die) i =>
      let u := Sparse.get Sketch.reset d.sketches i
      if bit u.ctl 0 && field u.ctl 8 8 == event then
        let x := if bit u.ctl 1 then word (c.die * 2 ^ 32 + c.launch) else pc
        { d with sketches := Sparse.set Sketch.reset d.sketches i (u.count x weight) }
      else d) d

/-! ## The way from die to die (21 R390, R391) -/

/-- A link is lost, in either direction. -/
def State.linkGone (s : State) (a b : Nat) : Bool := (s.link a b).state == .lost || (s.link b a).state == .lost

/-- A link carries traffic in both directions. -/
def State.linkUp (s : State) (a b : Nat) : Bool := (s.link a b).state == .up && (s.link b a).state == .up

/-- The links from one die to another: their own, or once it is lost those of the lowest-numbered other die whose links to both
remain (R391); none where no way is left. -/
def State.route (s : State) (a d : Nat) : Option (List (Nat × Nat)) :=
  if a = d then some []
  else if s.linkGone a d then
    ((List.range 4).find? fun v => v != a && v != d && !s.linkGone a v && !s.linkGone v d).map fun v => [(a, v), (v, d)]
  else some [(a, d)]

/-- Whether an access reaches its home now. -/
inductive Reach where
  | here
  | fails (c : Cause)
  /-- the link between two dies is under retrain -/
  | waits (src dst : Nat)
  deriving DecidableEq, Repr

/-- The way from one die to the memory of another: a lost die faults REMOTE (19 R383), a lost way LINK_LOST (R391). -/
def State.reachDie (s : State) (a d : Nat) : Reach :=
  if d = a then .here
  else if (s.die d).lost then .fails .remote
  else match s.route a d with
    | none => .fails .linkLost
    | some hs =>
      if hs.any fun h => (s.link h.1 h.2).state == .failing || (s.link h.2 h.1).state == .failing then .fails .linkLost
      else match hs.find? fun h => !s.linkUp h.1 h.2 with
        | some h => .waits h.1 h.2
        | none => .here

/-- A flit goes from one die to another: 256 bytes on each link of the way (R387). -/
def State.carry (s : State) (a d : Nat) (c : Channel) : State :=
  ((s.route a d).getD []).foldl (fun s h => (s.setLink h.1 h.2 fun l => l.pass c).setDie h.1 fun x => x.count (2 + h.2) 256) s

/-- A request goes to another die on REQ, and its answer comes back on a channel. -/
def State.trip (s : State) (a d : Nat) (c : Channel) : State := if a = d then s else (s.carry a d .req).carry d a c

end Sys2Proof.Machine
end

