-- ==== Sys2Proof/Machine/Memory.lean ====
section
/-!
DEFINITION. Memory: the physical map and the homes (15 R314 to R316, 19 R362), translation and its TLBs (19 R363 to R366),
debug slots (21 R410, R411), the data cache and the store path of a core (10 R240, R244), poison (05 R150), dirty bits
(19 R380), and the reads and writes that every access is made of.
-/

namespace Sys2Proof.Machine

/-! ## The physical map -/

/-- What a physical address names (19 R362). -/
inductive Region where
  | dram (die : Nat)
  | sram (die slice : Nat)
  /-- nurse SRAM and die registers -/
  | nurse (die : Nat)
  | pod
  | nothing
  deriving DecidableEq, Repr

/-- The physical map (19 R362). -/
def region (pa : Nat) : Region :=
  if pa < 0x3000000000 then .dram (pa / 0xC00000000)
  else if pa < 0x3100000000 then
    if pa % 0x40000000 < 0x24000000 then .sram ((pa - 0x3000000000) / 0x40000000) (pa % 0x40000000 / 0x400000) else .nothing
  else if 0x3800000000 ≤ pa ∧ pa < 0x3900000000 then .nurse ((pa - 0x3800000000) / 0x40000000)
  else if 0x4000000000000 ≤ pa ∧ pa < 0x8000000000000 then .pod
  else .nothing

/-- The die whose memory a region is in. -/
def Region.die? : Region → Option Nat
  | .dram d => some d | .sram d _ => some d | .nurse d => some d | .pod => none | .nothing => none

/-- The home of a location (15 R316): the stack of a die, a slice, or a line of another package (22 R422). -/
def homeOf (pa : Nat) : Nat × Nat :=
  match region pa with
  | .dram d => (0, d) | .sram d n => (1, 144 * d + n) | .nurse d => (2, d) | .pod => (3, pa / 64) | .nothing => (4, 0)

/-- Two runs of addresses overlap, on the circle of 2^64 (02 R56). -/
def Range.overlaps (a b : Range) : Bool :=
  decide (0 < a.len) && decide (0 < b.len) &&
    (decide ((b.base + 2 ^ 64 - a.base % 2 ^ 64) % 2 ^ 64 < a.len) || decide ((a.base + 2 ^ 64 - b.base % 2 ^ 64) % 2 ^ 64 < b.len))

/-- Some range of one list overlaps some range of another. -/
def rangesOverlap (a b : List Range) : Bool := a.any fun x => b.any fun y => x.overlaps y

/-- Two runs of physical addresses overlap. -/
def spansOverlap (a n b m : Nat) : Bool := decide (a < b + m) && decide (b < a + n)

/-! ## Homes -/

/-- The 8-byte words that a run of bytes touches. -/
def wordsOf (pa n : Nat) : List Nat := if n = 0 then [] else (List.range ((pa + n - 1) / 8 + 1 - pa / 8)).map fun i => pa / 8 + i

/-- A set of numbers with one more. -/
def insertNat (x : Nat) : List Nat → List Nat
  | [] => [x]
  | y :: r => if x < y then x :: y :: r else if x = y then y :: r else y :: insertNat x r

/-- Poison after bytes are written: a whole word written gets the write's poison, a word written in part keeps its own
or gets the write's (05 R150). -/
def writePoison (p : List Nat) (pa n : Nat) (poison : Bool) : List Nat :=
  (wordsOf pa n).foldl (fun p w =>
    if poison then insertNat w p
    else if pa ≤ 8 * w ∧ 8 * w + 8 ≤ pa + n then p.filter fun x => decide (x ≠ w) else p) p

/-- A write to the line of a waiting wfe lets it complete (19 R373). -/
def Ctx.lineWritten (line : Nat) (c : Ctx) : Ctx :=
  match c.wait with
  | .wfe (some l) _ => if l = line then { c with wait := .wfe (some l) true } else c
  | _ => c

/-- The lines that a run of bytes touches. -/
def linesOf (pa n : Nat) : List Nat := if n = 0 then [] else (List.range ((pa + n - 1) / 64 + 1 - pa / 64)).map fun i => pa / 64 + i

/-- Bytes performed at their home (15 R316): memory, poison, and the waits on the lines. -/
def State.performBytes (s : State) (pa : Nat) (data : List Byte) (poison : Bool) : State :=
  let s := { s with mem := Sparse.setRun 0 s.mem pa data, poison := writePoison s.poison pa data.length poison }
  let touch := fun c => (linesOf pa data.length).foldl (fun c l => Ctx.lineWritten l c) c
  { s with me := touch s.me, others := s.others.map touch }

/-- The granule of a physical address in a dirty bitmap (19 R380). -/
def granule (pa : Nat) : Option Nat :=
  match region pa with
  | .dram _ => some (pa / 65536)
  | .sram d _ => some (3145728 + 9216 * d + (pa % 0x40000000) / 65536)
  | _ => none

/-- Sets the dirty bit of a granule in a tenant's bitmap (19 R380). -/
def State.setDirty (s : State) (die tenant pa : Nat) : State :=
  match granule pa with
  | none => s
  | some g =>
    let a := ((s.die die).tenant tenant).dirtyb.toNat + g / 8
    { s with mem := Sparse.set 0 s.mem a (Sparse.get 0 s.mem a ||| BitVec.ofNat 8 (2 ^ (g % 8))) }

/-- Sets the dirty bit of every granule that a run of bytes touches (19 R380). -/
def State.setDirtyRun (s : State) (die tenant pa n : Nat) : State :=
  if n = 0 then s
  else (List.range ((pa + n - 1) / 65536 + 1 - pa / 65536)).foldl (fun s i => s.setDirty die tenant (if i = 0 then pa else (pa / 65536 + i) * 65536)) s

/-! ## Encryption (22 R433)

Memory holds plaintext, and beside it the name of the key under which each line was last written. Who reads a line under another key
reads what the cipher makes of it, which is a free value (DESIGN CHOICE, assumption log 100). -/

/-- The name of the key of a tenant at the die whose memory holds an address. -/
def State.keyOf (s : State) (tenant pa : Nat) : Word :=
  match (region pa).die? with
  | some d => ((s.die d).tenant tenant).key
  | none => 0

/-- A byte of memory as an agent of a tenant reads it. -/
def State.plain (s : State) (tenant pa : Nat) : Byte :=
  let k := Sparse.get 0 s.keys (pa / 64)
  let b := Sparse.get 0 s.mem pa
  if k = 0 then b
  else if k = s.keyOf tenant pa then b
  else Config.deciphered k (s.keyOf tenant pa) pa (leNat (Sparse.getRun 0 s.mem (pa / 16 * 16) 16))

/-- A line comes under the key of a tenant that writes it. -/
def State.takeLine (s : State) (tenant line : Nat) : State :=
  let k := s.keyOf tenant (64 * line)
  let old := Sparse.get 0 s.keys line
  if old = k then s
  else
    let t := if old = 0 then s else { s with mem := Sparse.setRun 0 s.mem (64 * line) ((List.range 64).map fun i => s.plain tenant (64 * line + i)) }
    { t with keys := Sparse.set 0 t.keys line k }

/-- The lines of a run come under the key of a tenant. -/
def State.takeLines (s : State) (tenant pa n : Nat) : State := (linesOf pa n).foldl (fun s l => s.takeLine tenant l) s

/-- A launch that has been placed and is not over: no later launch than a write of now (05 R152; DEDUCED, assumption log 125). -/
def Launch.goesOn (l : Launch) : Bool :=
  match l.state with
  | .placed | .frozen => true
  | .waiting | .moved | .ended | .done => false

/-- The bytes as they stand before a context writes them, kept for every launch that is no later one: each may fetch them still (05
R152). -/
def State.keepOld (s : State) (pa n : Nat) : State :=
  let keep (l : Launch) : Launch :=
    if l.goesOn then
      { l with old := (List.range n).foldl (fun o i =>
          if o.any fun e => e.1 == pa + i then o else (pa + i, Sparse.get 0 s.mem (pa + i)) :: o) l.old }
    else l
  (List.range 4).foldl (fun s d => if (s.die d).launches.isEmpty then s else s.setDie d fun x => { x with launches := x.launches.map keep }) s

/-- Bytes read or written at a DRAM stack: its die's counters, and a sketch of DRAM bytes (21 R406, R408). -/
def State.dramBytes (s : State) (c : Ctx) (pc : Word) (pa n : Nat) (write : Bool) : State :=
  match region pa with
  | .dram d =>
    let old := Sparse.get 0 (s.die d).traffic 0 + Sparse.get 0 (s.die d).traffic 1
    let s := s.setDie d fun x => x.count (if write then 1 else 0) n
    if old / 64 = (old + n) / 64 then s else s.sketchEvent c pc 3 ((old + n) / 64 - old / 64)
  | _ => s

/-- A write of a context of a tenant performs at its home: its dirty bits first (19 R380), under the tenant's key (22 R433). -/
def State.performAs (s : State) (c : Ctx) (pa : Nat) (data : List Byte) (poison : Bool) : State :=
  if c.nurse then s.performBytes pa data poison
  else
    let n := data.length
    ((((s.setDirtyRun c.die c.a.csr.tenant pa n).keepOld pa n).takeLines c.a.csr.tenant pa n).performBytes pa data poison).dramBytes
      c c.a.ipc pa n true

/-- Bytes as they stand at their home. -/
def State.home (s : State) (pa n : Nat) : List Byte := Sparse.getRun 0 s.mem pa n

/-- A byte at its home as a context or a nurse core reads it (22 R433). -/
def State.readByte (s : State) (c : Ctx) (pa : Nat) : Byte := if c.nurse then Sparse.get 0 s.mem pa else s.plain c.a.csr.tenant pa

/-- Bytes at their home as a context or a nurse core reads them. -/
def State.readHome (s : State) (c : Ctx) (pa n : Nat) : List Byte := (List.range n).map fun i => s.readByte c (pa + i)

/-- A word of the run is poisoned at its home. -/
def State.homePoison (s : State) (pa n : Nat) : Bool := (wordsOf pa n).any fun w => s.poison.contains w

/-! ## The store path and the data cache of a core -/

/-- The byte that the latest write on the store path gives an address. -/
def pathByte (p : List PathWrite) (pa : Nat) : Option Byte :=
  p.foldl (fun r w => if w.pa ≤ pa ∧ pa < w.pa + w.data.length then w.data[pa - w.pa]? else r) none

/-- The tenant that owns a core's quad (15 R315); none has 16. -/
def State.coreTenant (s : State) (core : Nat) : Nat :=
  ((List.range 16).find? fun t => ((s.die (core / 144)).tenant t).valid && bit ((s.die (core / 144)).tenant t).quads (core % 144 / 4)).getD 16

/-- A byte of memory as a core reads it: in plaintext for the tenant of its quad, and for a nurse core (22 R433). -/
def State.coreHome (s : State) (core pa : Nat) : Byte :=
  if 576 ≤ core ∨ Sparse.get 0 s.keys (pa / 64) = 0 then Sparse.get 0 s.mem pa else s.plain (s.coreTenant core) pa

/-- A byte as the core sees it beyond its cache: its own writes on their way, else the home (10 R244). -/
def State.seen (s : State) (core pa : Nat) : Byte := (pathByte (s.core core).path pa).getD (s.coreHome core pa)

/-- Poison of a word as the core sees it beyond its cache. -/
def State.seenPoison (s : State) (core w : Nat) : Bool :=
  (s.core core).path.foldl (fun b x =>
    if spansOverlap x.pa x.data.length (8 * w) 8 then
      if x.poison then true else if x.pa ≤ 8 * w ∧ 8 * w + 8 ≤ x.pa + x.data.length then false else b
    else b) (s.poison.contains w)

/-- The core's own slice (15 R314). -/
def ownSlice (core pa : Nat) : Bool :=
  match region pa with
  | .sram d n => 144 * d + n == core
  | _ => false

/-- DRAM and remote slices are cached; the own slice and the pod window never (10 R240). -/
def cacheable (core pa : Nat) : Bool :=
  match region pa with
  | .dram _ => true
  | .sram d n => 144 * d + n != core
  | _ => false

/-- The cached line of a number. -/
def Core.line? (k : Core) (num : Nat) : Option Line := k.cache.find? fun l => l.num == num

/-- A line as the core would fill it now. -/
def State.fillOf (s : State) (core num : Nat) : Line :=
  { num := num, bytes := (List.range 64).map fun i => s.seen core (64 * num + i),
    poison := BitVec.ofNat 8 ((List.range 8).foldl (fun p i => if s.seenPoison core (8 * num + i) then p + 2 ^ i else p) 0) }

/-- Enters a line: at most 8 of one set, the oldest gives way (10 R240; replacement is not architectural). -/
def addLine (l : Line) (cache : List Line) : List Line :=
  let same := cache.filter fun x => x.num % 256 == l.num % 256
  let cache := match same with
    | v :: _ => if 8 ≤ same.length then cache.filter fun x => decide (x.num ≠ v.num) else cache
    | [] => cache
  cache ++ [l]

/-- The die of a core, or of a nurse core's store path. -/
def dieOfCore (core : Nat) : Nat := if core < 576 then core / 144 else core - 576

/-- A load of the moving context at a PC allocates the line it misses: a request to the home's die and its answer, on BULK for a stream
row, 64 bytes read there, and an event of a sketch of misses (10 R240, 21 R387, R406, R408). -/
def State.fill (s : State) (core num : Nat) (pc : Word) (ch : Channel) : State :=
  match (s.core core).line? num with
  | some _ => s
  | none =>
    let u := s.setCore core fun k => { k with cache := addLine (s.fillOf core num) k.cache }
    let u := u.trip (dieOfCore core) ((region (64 * num)).die?.getD (dieOfCore core)) ch
    (u.dramBytes u.me pc (64 * num) 64 false).sketchEvent u.me pc 2 1

/-- A byte as a load of the core reads it: the cached line, or beyond (10 R240, R244). -/
def State.coreByte (s : State) (core pa : Nat) : Byte :=
  if cacheable core pa then
    match (s.core core).line? (pa / 64) with
    | some l => (l.bytes[pa % 64]?).getD 0
    | none => s.seen core pa
  else s.seen core pa

/-- Poison as a load of the core meets it (10 R241). -/
def State.corePoison (s : State) (core pa n : Nat) : Bool :=
  (wordsOf pa n).any fun w =>
    if cacheable core pa then
      match (s.core core).line? (w / 8) with
      | some l => l.poison.getLsbD (w % 8)
      | none => s.seenPoison core w
    else s.seenPoison core w

/-- Bytes as a load of the core reads them. -/
def State.coreBytes (s : State) (core pa n : Nat) : List Byte := (List.range n).map fun i => s.coreByte core (pa + i)

/-- A load reads: the lines it misses are allocated. -/
def State.loaded (s : State) (core pa n : Nat) (pc : Word) (ch : Channel := .rsp) : State :=
  if cacheable core pa then (linesOf pa n).foldl (fun s l => s.fill core l pc ch) s else s

/-- A read of the moving context at the home itself: the traffic it makes (21 R387, R406). -/
def State.readsAtHome (s : State) (pa n : Nat) (pc : Word) (c : Channel) : State :=
  (s.trip s.me.die ((region pa).die?.getD s.me.die) c).dramBytes s.me pc pa n false

/-- A cached line after a write through it (10 R240). -/
def Line.write (l : Line) (pa : Nat) (data : List Byte) (poison : Bool) : Line :=
  { l with
    bytes := (List.range 64).map fun i =>
      if pa ≤ 64 * l.num + i ∧ 64 * l.num + i < pa + data.length then (data[64 * l.num + i - pa]?).getD 0
      else (l.bytes[i]?).getD 0,
    poison := (wordsOf pa data.length).foldl (fun p w =>
      if w / 8 = l.num then
        if poison then p ||| BitVec.ofNat 8 (2 ^ (w % 8))
        else if pa ≤ 8 * w ∧ 8 * w + 8 ≤ pa + data.length then p &&& ~~~(BitVec.ofNat 8 (2 ^ (w % 8))) else p
      else p) l.poison }

/-- A fetched row that no reader has been given yet (12 R285, R287). -/
def Ctx.unassigned (c : Ctx) (r : StreamRow) : Bool :=
  c.a.vh.any fun e => match e.2 with | .stream t => t.uid == r.uid && decide (t.consumed ≤ r.row) | _ => false

/-- A write that overlaps the bytes of a fetched row, under whichever virtual address (03 R88): the stream discards that row and every
later one (12 R287). A write of the context itself performs before every pending reader, so it discards assigned rows as well. -/
def Ctx.discardRows (own : Bool) (w : Range) (pa : Nat) (c : Ctx) : Ctx :=
  let hit := c.rows.filter fun r => (own || c.unassigned r) &&
    ((r.footprint.any fun f => f.overlaps w) || r.pieces.any fun p => spansOverlap p.1 p.2 pa w.len)
  { c with rows := c.rows.filter fun r =>
      !((own || c.unassigned r) && hit.any fun h => h.uid == r.uid && decide (h.row ≤ r.row)) }

/-- Loads that ran ahead and overlap an access are used up (10 R245). -/
def Ctx.useAhead (pa n : Nat) (c : Ctx) : Ctx := { c with ahead := c.ahead.filter fun e => !spansOverlap e.1 e.2.length pa n }

/-- The context that a write of the path belongs to, as it stood: its tenant, its launch and the PC of its instruction. -/
def PathWrite.agent (w : PathWrite) : Ctx :=
  let c := Ctx.vacant w.ctx
  { c with launch := w.launch, a := { c.a with pc := w.pc, csr := { c.a.csr with status := word (256 * w.tenant) } } }

/-- A write of the path is this context's: the position may have held another. -/
def PathWrite.of (w : PathWrite) (c : Ctx) : Bool := w.ctx == c.id && w.launch == c.launch

/-- A context as the one whose instruction at a PC acts. -/
def Ctx.atPc (pc : Word) (c : Ctx) : Ctx := { c with a := { c.a with pc := pc, rep := none } }

/-- A write performs at the core (10 R244): it enters the store path, updates a cached copy, and discards the fetched
stream rows of the core that it overlaps. -/
def State.performAtCore (s : State) (c : Ctx) (va : Word) (pa : Nat) (data : List Byte) (poison : Bool) : State :=
  let s := s.setCore c.core fun k =>
    { k with path := k.path ++ [{ ctx := c.id, tenant := c.a.csr.tenant, launch := c.launch, pc := c.a.ipc, va := va, pa := pa,
                                  data := data, poison := poison }],
             cache := k.cache.map fun l => if spansOverlap (64 * l.num) 64 pa data.length then l.write pa data poison else l }
  let drop := fun (x : Ctx) => if x.core = c.core ∧ x.nurse = false then
      let y := x.discardRows (decide (x.id = c.id)) { base := va.toNat, len := data.length } pa
      if x.id = c.id then y.useAhead pa data.length else y
    else x
  { s with me := drop s.me, others := s.others.map drop }

/-- Drops the lines of a core's cache that meet a test (05 R156, 19 R374). -/
def State.invalidate (s : State) (core : Nat) (p : Nat → Bool) : State :=
  s.setCore core fun k => { k with cache := k.cache.filter fun l => !p l.num }

/-! ## Translation (19 R363 to R366) -/

/-- A translation, how it was found, and the table entry whose A and D bits it sets. -/
structure Xlat where
  va : Nat
  pa : Nat
  entry : TlbEntry
  /-- 0 the core's TLB, 1 the die's, 2 a walk -/
  found : Nat
  /-- a contiguous group disagreed, and one member was drawn -/
  drew : Bool
  deriving DecidableEq, Repr

/-- Bit i of a table entry. -/
def pteBit (e i : Nat) : Bool := e.testBit i

/-- The table entry at a physical address, read at its home; none where no memory stands that the walker may read: a walk of a
tenant's table reads no nurse SRAM, and no walk reads the pod window (19 R362). -/
def State.tableEntry (s : State) (fw : Bool) (tenant pa : Nat) : Option Nat :=
  match region pa with
  | .dram _ | .sram _ _ => some (leNat (if fw then s.home pa 8 else (List.range 8).map fun i => s.plain tenant (pa + i)))
  | .nurse _ => if fw then some (leNat (s.home pa 8)) else none
  | .pod | .nothing => none

/-- Entries of a contiguous group agree but for PFN[3:0] of the page-size unit, and but for A and D, which the walker
itself sets in one member only (19 R364). -/
def groupAgrees (shift a b : Nat) : Bool :=
  let clear (e : Nat) : Nat := e - (e / 2 ^ (shift + 4) % 16) * 2 ^ (shift + 4) - (e / 2 ^ 4 % 4) * 2 ^ 4
  clear a == clear b

/-- One leaf entry as a translation. -/
def leafEntry (tenant va addr e shift : Nat) : TlbEntry :=
  let bits := if pteBit e 7 then shift + 4 else shift
  { tenant := tenant, va := va / 2 ^ bits * 2 ^ bits, pa := e / 2 ^ 16 % 2 ^ 39 * 4096 / 2 ^ bits * 2 ^ bits, bits := bits,
    r := pteBit e 1, w := pteBit e 2, x := pteBit e 3, d := pteBit e 5,
    attr := { fe := pteBit e 8, fmt := e / 2 ^ 9 % 32, geo := e / 2 ^ 14 % 4 }, pte := addr }

/-- The faults of one entry whatever it is (19 R364): not valid, reserved bits, W without R, G in a tenant's table. -/
def badEntry (fw : Bool) (e : Nat) : Bool :=
  !pteBit e 0 || decide (e / 2 ^ 55 ≠ 0) || (pteBit e 2 && !pteBit e 1) || (pteBit e 6 && !fw)

/-- A leaf, or the member of its contiguous group that a draw takes where the entries disagree (19 R364). -/
def State.leaf (s : State) (fw : Bool) (tenant va addr e shift : Nat) : Except Cause (TlbEntry × Bool) :=
  if !pteBit e 7 then .ok (leafEntry tenant va addr e shift, false)
  else
    let base := addr / 128 * 128
    let members := (List.range 16).map fun i => (s.tableEntry fw tenant (base + 8 * i)).getD 0
    if members.all fun m => groupAgrees shift e m then .ok (leafEntry tenant va addr e shift, false)
    else
      let i := Config.freeMember s.freeCtr % 16
      let m := (members[i]?).getD 0
      if badEntry fw m || !(pteBit m 1 || pteBit m 2 || pteBit m 3) then .error .page
      else .ok (leafEntry tenant va (base + 8 * i) m shift, true)

/-- The walk: one table after another, index bits from the list (19 R363, R364). -/
def State.walk (s : State) (fw : Bool) (tenant va : Nat) : Nat → List (Nat × Nat) → Except Cause (TlbEntry × Bool)
  | _, [] => .error .page
  | table, (shift, n) :: rest =>
    let addr := table + 8 * (va / 2 ^ shift % 2 ^ n)
    match s.tableEntry fw tenant addr with
    | none => .error .perm
    | some e =>
      if badEntry fw e then .error .page
      else if !(pteBit e 1 || pteBit e 2 || pteBit e 3) then
        if rest.isEmpty || pteBit e 7 || decide (e / 2 ^ 8 % 2 ^ 8 ≠ 0) then .error .page
        else s.walk fw tenant va (e / 2 ^ 16 % 2 ^ 39 * 4096) rest
      else if shift = 39 then .error .page
      else s.leaf fw tenant va addr e shift

/-- The levels of a table: index shift and width (19 R363). -/
def tableLevels : List (Nat × Nat) := [(39, 18), (30, 9), (21, 9), (12, 9)]

/-- A TLB entry serves an access: a write needs its D bit set already (19 R363, R365). -/
def TlbEntry.serves (e : TlbEntry) (tenant va : Nat) (write : Bool) : Bool :=
  e.tenant == tenant && e.va / 2 ^ e.bits == va / 2 ^ e.bits && (e.d || !write)

/-- The access a page permits (19 R364). -/
def TlbEntry.permits (e : TlbEntry) : Access → Bool
  | .read => e.r
  | .write => e.w
  | .fetch => e.x
  | .atomic => e.r && e.w

/-- A write or an atomic. -/
def Access.writes : Access → Bool
  | .write | .atomic => true
  | .read | .fetch => false

/-- The supervisor region (19 R363). -/
def supervisorRegion (va : Nat) : Bool := decide (0xFFFFFF0000000000 ≤ va)

/-- The physical checks of an access: the map, nurse memory, and the owner of a slice's quad (15 R315, 19 R362). -/
def State.physical (s : State) (c : Ctx) (pa : Nat) : Except Cause Nat :=
  match region pa with
  | .dram _ | .pod => .ok pa
  | .sram d n => if bit ((s.die d).tenant c.a.csr.tenant).quads (n / 4) then .ok pa else .error .perm
  | .nurse _ | .nothing => .error .perm

/-- The entry of the core's TLB, or of its die's, that serves an access, and which it was. -/
def State.tlbEntry? (s : State) (c : Ctx) (tenant va : Nat) (write : Bool) : Option (TlbEntry × Nat) :=
  match (s.core c.core).tlb.find? fun e => e.serves tenant va write with
  | some e => some (e, 0)
  | none => ((s.die c.die).tlb.find? fun e => e.serves tenant va write).map fun e => (e, 1)

/-- Whose table translates an address: 16 is the firmware's (19 R363). -/
def Ctx.tableOf (c : Ctx) (va : Nat) : Nat := if supervisorRegion va then 16 else c.a.csr.tenant

/-- Where the table of a context's address begins (19 R353, R363). -/
def State.tableRoot (s : State) (c : Ctx) (va : Nat) : Nat :=
  if supervisorRegion va then (s.die c.die).fwRoot.toNat else ((s.die c.die).tenant c.a.csr.tenant).ptroot.toNat

/-- Translates an address for a context of a core, without changing anything (19 R363 to R365). -/
def State.translate (s : State) (c : Ctx) (va : Nat) (k : Access) : Except Cause Xlat :=
  if c.nurse then
    match region va with
    | .nothing => .error .perm
    | _ => .ok { va := va, pa := va, found := 0, drew := false,
                 entry := { tenant := 0, va := 0, pa := 0, bits := 64, r := true, w := true, x := true, d := true,
                            attr := { fe := false, fmt := 0, geo := 0 }, pte := 0 } }
  else if !canonical (word va) then .error .page
  else if supervisorRegion va && !c.a.csr.sup then .error .perm
  else
    let tenant := c.tableOf va
    let found : Except Cause (TlbEntry × Nat × Bool) :=
      match s.tlbEntry? c tenant va k.writes with
      | some (e, n) => .ok (e, n, false)
      | none =>
        match s.walk (supervisorRegion va) tenant va (s.tableRoot c va) tableLevels with
        | .ok (e, drew) => .ok (e, 2, drew)
        | .error f => .error f
    match found with
    | .error f => .error f
    | .ok (e, n, drew) =>
      if e.permits k then
        match s.physical c (e.pa + va % 2 ^ e.bits) with
        | .ok pa => .ok { va := va, pa := pa, entry := { e with d := e.d || k.writes }, found := n, drew := drew }
        | .error f => .error f
      else .error .perm

/-- The table entries that a walk reads, in order, up to its leaf or its failure. -/
def State.walkReads (s : State) (fw : Bool) (tenant va : Nat) : Nat → List (Nat × Nat) → List Nat
  | _, [] => []
  | table, (shift, n) :: rest =>
    let addr := table + 8 * (va / 2 ^ shift % 2 ^ n)
    match s.tableEntry fw tenant addr with
    | none => []
    | some e =>
      if pteBit e 0 && !(pteBit e 1 || pteBit e 2 || pteBit e 3) then addr :: s.walkReads fw tenant va (e / 2 ^ 16 % 2 ^ 39 * 4096) rest
      else [addr]

/-- The table entries that the translation of an access reads: none where a TLB serves it. -/
def State.readsFor (s : State) (c : Ctx) (va : Nat) (k : Access) : List Nat :=
  if c.nurse || !canonical (word va) || (supervisorRegion va && !c.a.csr.sup) || (s.tlbEntry? c (c.tableOf va) va k.writes).isSome then []
  else s.walkReads (supervisorRegion va) (c.tableOf va) va (s.tableRoot c va) tableLevels

/-- Whether the walk of an access reaches the tables: it may wait on a link, or fail with it (21 R387, R390, R391). -/
def State.walkReach (s : State) (c : Ctx) (va : Nat) (k : Access) : Reach :=
  ((s.readsFor c va k).map fun a => s.reachDie c.die ((region a).die?.getD c.die)).find? (fun r => decide (r ≠ .here)) |>.getD .here

/-- What an access finds: a translation, a fault, or a link that its walk waits on. -/
inductive Found where
  | ok (x : Xlat)
  | fault (c : Cause)
  | waits (src dst : Nat)
  deriving DecidableEq, Repr

/-- The translation of an access, whose walk reads the tables where they stand (19 R365, 21 R387). -/
def State.lookup (s : State) (c : Ctx) (va : Nat) (k : Access) : Found :=
  match s.walkReach c va k with
  | .fails f => .fault f
  | .waits a b => .waits a b
  | .here => match s.translate c va k with
    | .ok x => .ok x
    | .error f => .fault f

/-- A walk's requests and answers over the links, and the bytes it reads (21 R387, R406). -/
def State.walkTraffic (s : State) (c : Ctx) (as : List Nat) : State :=
  as.foldl (fun s a => (s.trip c.die ((region a).die?.getD c.die) .rsp).dramBytes c c.a.ipc a 8 false) s

/-- Enters a translation in a TLB of a given size; the oldest gives way (19 R365; replacement is not architectural). -/
def addTlb (size : Nat) (e : TlbEntry) (t : List TlbEntry) : List TlbEntry :=
  (e :: t.filter fun x => !(x.tenant == e.tenant && x.va == e.va && x.bits == e.bits)).take size

/-- Sets the A bit, and for a write the D bit, of a table entry at its home (19 R365). -/
def State.setAD (s : State) (pte : Nat) (write : Bool) : State :=
  s.performBytes pte [Sparse.get 0 s.mem pte ||| (if write then 0x30 else 0x10)] (s.poison.contains (pte / 8))

/-- The update of a table entry whose bits change: over the links where the entry stands on another die, and at its DRAM (21 R387, R406). -/
def State.adTraffic (s : State) (c : Ctx) (pte : Nat) (write : Bool) : State :=
  let old := Sparse.get 0 s.mem pte
  if old ||| (if write then 0x30 else 0x10) = old then s
  else (s.trip c.die ((region pte).die?.getD c.die) .rsp).dramBytes c c.a.ipc pte 8 true

/-- The access uses its translation: A and D bits after a walk, and the TLBs (19 R365). -/
def State.use (s : State) (c : Ctx) (x : Xlat) (k : Access) : State :=
  if c.nurse || x.found == 0 then s
  else
    let s := if x.found = 2 then
        let s := ((s.walkTraffic c (s.readsFor c x.va k)).adTraffic c x.entry.pte k.writes).setAD x.entry.pte k.writes
        s.setDie c.die fun d => { d with tlb := addTlb 8192 x.entry d.tlb }
      else s
    let s := if x.drew then s.draw else s
    s.setCore c.core fun q => { q with tlb := addTlb 64 x.entry q.tlb }

/-! ## Debug slots (21 R410, R411) -/

/-- MODE.DEBUG of a context's launch (19 R356). -/
def State.debugging (s : State) (c : Ctx) : Bool :=
  match (s.die c.die).launch? c.launch with | some l => l.kernel.mode.testBit 0 | none => false

/-- The slots that an access of a context hits, by number: those of a launch under debug alone (R410). -/
def State.slotHits (s : State) (c : Ctx) (va n : Nat) (k : Access) : List (Nat × DebugSlot) :=
  if c.nurse || List.isEmpty (s.die c.die).debug || !s.debugging c then []
  else ((s.die c.die).debug).filter fun e =>
    let w := e.2.ctl
    bit w 0 && field w 8 4 == c.a.csr.tenant && (field w 12 32 == 0 || field w 12 32 == c.launch) &&
      (match k with
       | .read => bit w 1 | .write => bit w 2 | .fetch => bit w 3 | .atomic => bit w 1 || bit w 2) &&
      Range.overlaps { base := va, len := n } { base := e.2.base.toNat, len := e.2.len.toNat }

/-- A slot that stops the access (ACT = 0). -/
def State.watched (s : State) (c : Ctx) (va n : Nat) (k : Access) : Bool :=
  (s.slotHits c va n k).any fun e => !bit e.2.ctl 4

/-- The lowest byte of an access that lies in a slot which stops it (01 R33; DEDUCED, assumption log 91). -/
def State.watchedByte (s : State) (c : Ctx) (va n : Nat) (k : Access) : Nat :=
  va + ((List.range n).find? fun i => s.watched c (va + i) 1 k).getD 0

/-- The slots with ACT = 1 that an access hits, but for those that have written their record. -/
def State.traceSlots (s : State) (traced : List Nat) (va n : Nat) (k : Access) : List Nat :=
  ((s.slotHits s.me va n k).filter fun e => bit e.2.ctl 4 && !traced.contains e.1).map fun e => e.1

/-- One trace record of an access (21 R412). -/
def State.traceOne (s : State) (va : Nat) (k : Access) (el pc : Word) (nseq : Word32) : State :=
  s.trace s.me.die (if k = .fetch then 2 else 1) (word va) el (s.name pc nseq)

/-- One trace record of a scalar access that hits, whatever the number of slots (21 R411). -/
def State.traceHits (s : State) (va n : Nat) (k : Access) : State :=
  if (s.traceSlots [] va n k).isEmpty then s else s.traceOne va k (-1) s.me.a.ipc (-1)

/-! ## Reaching a home (21 R390, R391, 22 R421) -/

/-- The package that a pod-window address names (22 R419). -/
def podTarget (pa : Nat) : Nat := pa / 2 ^ 38 % 2 ^ 12

/-- The offset in that package: a physical address there, below 0x38_0000_0000 (22 R419). -/
def podOffset (pa : Nat) : Nat := pa % 2 ^ 38

/-- The tenant's pod access leaves the package: PODID.EN and a PTID (22 R419 to R421). -/
def State.podOpen (s : State) (tenant : Nat) : Bool :=
  bit s.pkg.podid 12 && decide ((Sparse.get PodEntry.reset s.pkg.pods tenant).ptid ≠ 0)

/-- The way from a context to a home: another die's memory over the links; the pod window over the fabric, which may have no
route (21 R390, R391, 22 R421). -/
def State.reach (s : State) (c : Ctx) (pa : Nat) : Reach :=
  match region pa with
  | .pod => if s.podOpen c.a.csr.tenant && !s.pkg.noRoute.contains (podTarget pa) then .here else .fails .remote
  | r =>
    match r.die? with
    | none => .here
    | some d => s.reachDie c.die d

/-! ## The pod window (22 R419 to R421) -/

end Sys2Proof.Machine

namespace Sys2Proof

/-- The bytes of an access and what it needs of PERM (22 R420). -/
def PodAccess.size : PodAccess → Nat
  | .read n => n
  | .write d => d.length
  | .atomic _ wide _ _ => if wide then 8 else 4
@[inherit_doc PodAccess.size] def PodAccess.needs : PodAccess → Nat
  | .read _ => 1
  | .write _ => 2
  | .atomic .. => 3

end Sys2Proof

namespace Sys2Proof.Machine

/-- A grant covers an access. -/
def Grant.covers (g : Grant) (ptid : BitVec 16) (off : Nat) (a : PodAccess) : Bool :=
  g.ptid == ptid && decide (g.base.toNat ≤ off) && decide (off + a.size ≤ g.base.toNat + g.len.toNat) &&
    (g.perm.toNat &&& a.needs) == a.needs

/-- A tenant may be the target of an access to a line: VALID at the line's die, which is not lost (19 R383), and the owner of a
slice's quad (15 R315). -/
def State.mayTarget (s : State) (t line : Nat) : Bool :=
  match region (64 * line) with
  | .dram d => ((s.die d).tenant t).valid && !(s.die d).lost
  | .sram d n => ((s.die d).tenant t).valid && !(s.die d).lost && bit ((s.die d).tenant t).quads (n / 4)
  | _ => false

/-- The tenant whose grants admit an access, at every byte of it (22 R420). -/
def State.granting (s : State) (ptid : BitVec 16) (off : Nat) (a : PodAccess) : Option Nat :=
  if !bit s.pkg.podid 12 || ptid == 0 || a.size == 0 then none
  else (List.range 16).find? fun t =>
    ((Sparse.get PodEntry.reset s.pkg.pods t).grants.any fun g => g.2.covers ptid off a) && (linesOf off a.size).all fun l => s.mayTarget t l

/-- An access that names this package comes back to it (22 R419). -/
def State.ownPackage (s : State) (pa : Nat) : Bool := podTarget pa == field s.pkg.podid 0 12

/-- The pod tenant of a tenant (22 R420). -/
def State.ptid (s : State) (tenant : Nat) : BitVec 16 := (Sparse.get PodEntry.reset s.pkg.pods tenant).ptid

/-- The bytes that a vector element, a stream row, an engine or a fetch reads in the pod window: this package's own memory, where a
grant admits it, or another package's, free values; none where the answer is an error or does not come (22 R419 to R421; DESIGN
CHOICE, assumption log 9). -/
def State.podRead (s : State) (c : Ctx) (va pa n : Nat) : Option (List Byte) :=
  let off := podOffset pa
  if 0x3800000000 ≤ off then none
  else if s.ownPackage pa then (s.granting (s.ptid c.a.csr.tenant) off (.read n)).map fun t => (List.range n).map fun i => s.plain t (off + i)
  else if Config.remoteFails (s.freeCtr * 2 ^ 64 + va) then none
  else some ((List.range n).map fun j => Config.remoteByte (s.freeCtr * 2 ^ 64 + va + j))

/-! ## A scalar access -/

/-- The store footprint of a pending sink, or of a running pass, overlaps a range (02 R59). -/
def Ctx.sinkStores (c : Ctx) (r : Range) : Bool :=
  let hits (p : Pend) : Bool := p.store.any fun x => x.overlaps r
  c.pend.any hits || (match c.run with | some q => q.items.any hits | none => false)

/-- The latest held scalar store that covers a byte (05 R149): args are the address, the physical address, the data and
the size. -/
def heldByte (h : List Held) (pa : Nat) : Option Byte :=
  h.foldl (fun r x =>
    match x.args with
    | [_, p, v, n] => if p.toNat ≤ pa ∧ pa < p.toNat + n.toNat then some (BitVec.ofNat 8 (v.toNat / 256 ^ (pa - p.toNat))) else r
    | _ => r) none

/-- A held write whose bytes are not yet fixed overlaps a range (05 R149). -/
def Ctx.heldOpen (c : Ctx) (r : Range) : Bool :=
  c.held.any fun h => decide (h.args.length ≠ 4) && h.footprint.any fun x => x.overlaps r

/-- The moving context waits on a link under retrain (21 R390). -/
def State.waitLink (s : State) (a b : Nat) (va : Word) (write : Bool) : State :=
  { s with me := { s.me with wait := .link (BitVec.ofNat 2 a) (BitVec.ofNat 2 b) va write } }

/-- The checks of a scalar access, in the order of 05 R127: ALIGN, PAGE, PERM, WATCH, then what the access itself adds. -/
def State.access (s : State) (va : Word) (size : Nat) (k : Access) (go : Xlat → State → Res) : Res :=
  if va.toNat % size ≠ 0 then s.trapAtIssue .align va k.writes
  else
    match s.lookup s.me va.toNat k with
    | .fault c => s.trapAtIssue c va k.writes
    | .waits a b => .next (s.waitLink a b va k.writes)
    | .ok x => if s.watched s.me va.toNat size k then s.trapAtIssue .watch (word (s.watchedByte s.me va.toNat size k)) k.writes
      else go x s

/-- The access reaches its home, or traps, or waits on a link. -/
def State.reaching (s : State) (x : Xlat) (k : Access) (go : State → Res) : Res :=
  match s.reach s.me x.pa with
  | .here => go s
  | .fails c => s.trapAtIssue c (word x.va) k.writes
  | .waits a b => .next (s.waitLink a b (word x.va) k.writes)

/-- The bytes that a scalar load of the moving context reads: its held stores, a load that ran ahead, or the core. -/
def State.loadBytes (s : State) (pa n : Nat) : List Byte :=
  match s.me.ahead.find? fun e => e.1 == pa && e.2.length == n with
  | some e => (List.range n).map fun i => (heldByte s.me.held (pa + i)).getD ((e.2[i]?).getD 0)
  | none => (List.range n).map fun i => (heldByte s.me.held (pa + i)).getD (s.coreByte s.me.core (pa + i))

/-- Bytes of a load, from the low address, as a 64-bit value: zero-extended, or sign-extended (05 R147). -/
def extend (sx : Bool) (size v : Nat) : Word := if sx then wordOfInt (signedOf (8 * size) v) else word v

end Sys2Proof.Machine
end

