-- ==== Sys2Proof/Machine/Philox.lean ====
section
/-!
DEFINITION. The random words of stochastic rounding and of vrng: Philox-4x32-10 (03 R91 to R93).
-/

namespace Sys2Proof.Machine

/-- A counter or a result: four 32-bit words. -/
structure Quad where
  w0 : Nat
  w1 : Nat
  w2 : Nat
  w3 : Nat
  deriving DecidableEq, Repr

/-- Bitwise exclusive or of numbers below 2^32. -/
def xor32 (a b : Nat) : Nat := (a ^^^ b) % 2 ^ 32

/-- One round (03 R91). -/
def philoxRound (c : Quad) (k0 k1 : Nat) : Quad :=
  let p0 := 0xD2511F53 * c.w0
  let p1 := 0xCD9E8D57 * c.w2
  { w0 := xor32 (xor32 (p1 / 2 ^ 32) c.w1) k0, w1 := p1 % 2 ^ 32, w2 := xor32 (xor32 (p0 / 2 ^ 32) c.w3) k1,
    w3 := p0 % 2 ^ 32 }

/-- A number of rounds, the key advanced between them (03 R91). -/
def philoxRounds : Nat → Quad → Nat → Nat → Quad
  | 0, c, _, _ => c
  | n + 1, c, k0, k1 => philoxRounds n (philoxRound c k0 k1) ((k0 + 0x9E3779B9) % 2 ^ 32) ((k1 + 0xBB67AE85) % 2 ^ 32)

/-- Philox-4x32-10 with a 64-bit key split as 01 R29 states (03 R91). -/
def philox (c : Quad) (key : Word) : Quad := philoxRounds 10 c (key.toNat % 2 ^ 32) (key.toNat / 2 ^ 32)

/-- Word k of a result. -/
def Quad.at (q : Quad) : Nat → Nat
  | 0 => q.w0
  | 1 => q.w1
  | 2 => q.w2
  | _ => q.w3

/-- The result for an absolute index under the key SRSEED, with q the last counter word (03 R92). -/
def roundingQuad (seed : Word) (salt : Word32) (a : Word) (q : Nat) : Quad :=
  philox { w0 := a.toNat % 2 ^ 32, w1 := a.toNat / 2 ^ 32, w2 := salt.toNat, w3 := q } seed

/-- The random word of sub-value k of an element (03 R92). -/
def subWord (seed : Word) (salt : Word32) (a : Word) (k : Nat) : Nat := (roundingQuad seed salt a (k / 4)).at (k % 4)

/-- The words of vrng at a counter (03 R93). -/
def drawQuad (key : Word) (n : Word) : Quad :=
  philox { w0 := n.toNat % 2 ^ 32, w1 := n.toNat / 2 ^ 32, w2 := 0, w3 := 0 } key

end Sys2Proof.Machine
end

