-- ==== Sys2Proof/Machine/Flags.lean ====
section
/-!
DEFINITION. Floating-point values, rounding and every flag of R94 (03 R73 to R99): a value is computed exactly and
rounded once, and the flags fall out of the comparison between the exact result and the delivered one.
-/

namespace Sys2Proof

/-! ## Formats -/

/-- The classes of formats (06 R162). -/
inductive FmtClass where
  | f | k | i | b
  deriving DecidableEq, Repr

/-- The class of a format (06 R162). -/
def Fmt.cls : Fmt → FmtClass
  | .f32 | .bf16 | .f16 | .e5m2 | .e4m3 => .f
  | .nx4 | .mx8 => .k
  | .b32 | .b64 => .b
  | _ => .i

/-- The bits of one value in memory (01 R21, 03 R73 to R79). -/
def Fmt.bits : Fmt → Nat
  | .f32 | .i32 | .n32 | .b32 => 32
  | .bf16 | .f16 | .i16 | .n16 => 16
  | .e5m2 | .e4m3 | .mx8 | .ix8 | .i8 | .n8 => 8
  | .nx4 | .ix4 => 4
  | .i64 | .n64 | .b64 => 64

/-- Two's-complement formats (03 R76). -/
def Fmt.signed : Fmt → Bool
  | .i8 | .i16 | .i32 | .i64 => true
  | _ => false

/-- The width at which an integer format computes: .ix4 and .ix8 as .n8 (03 R76). -/
def Fmt.intWidth : Fmt → Nat
  | .ix4 | .ix8 => 8
  | f => f.bits

/-- A binary floating-point layout (03 R73). -/
structure BinFmt where
  ebits : Nat
  mbits : Nat
  bias : Nat
  /-- it has infinities; without them the top exponent holds numbers, and all ones is the only NaN -/
  infs : Bool
  deriving DecidableEq, Repr

/-- The layout of a format; a class K value is held as binary32 (06 R162). -/
def Fmt.layout : Fmt → BinFmt
  | .bf16 => { ebits := 8, mbits := 7, bias := 127, infs := true }
  | .f16 => { ebits := 5, mbits := 10, bias := 15, infs := true }
  | .e5m2 => { ebits := 5, mbits := 2, bias := 15, infs := true }
  | .e4m3 => { ebits := 4, mbits := 3, bias := 7, infs := false }
  | _ => { ebits := 8, mbits := 23, bias := 127, infs := true }

/-- The largest finite significand and its exponent (03 R73). -/
def BinFmt.maxM (f : BinFmt) : Nat := if f.infs || f.ebits == 2 then 2 ^ (f.mbits + 1) - 1 else 2 ^ (f.mbits + 1) - 2

/-- The exponent of the largest finite value's last bit. -/
def BinFmt.maxQ (f : BinFmt) : Int := (if f.infs then (f.bias : Int) else (2 ^ f.ebits - 1 - f.bias : Nat)) - f.mbits

/-- The exponent of the smallest normal's last bit. -/
def BinFmt.minQ (f : BinFmt) : Int := 1 - (f.bias : Int) - f.mbits

end Sys2Proof

namespace Sys2Proof.Machine

/-- The element layout of NX4, which has neither infinity nor NaN (03 R73). -/
def e2m1 : BinFmt := { ebits := 2, mbits := 1, bias := 1, infs := false }

/-! ## Values -/

/-- A value: a NaN with its sign, quiet or signalling; an infinity; or plus or minus (m + r) * 2^e, where r is 0, or
some fraction between 0 and 1 when sticky is set. -/
inductive FV where
  | nan (neg quiet : Bool)
  | inf (neg : Bool)
  | fin (neg : Bool) (m : Nat) (e : Int) (sticky : Bool)
  deriving DecidableEq, Repr

/-- A zero of a sign. -/
def FV.zero (neg : Bool) : FV := .fin neg 0 0 false

/-- An integer as a value. -/
def FV.ofInt (v : Int) : FV := .fin (decide (v < 0)) v.natAbs 0 false

/-- The pattern of a layout as a value (03 R73, R74). -/
def unpack (f : BinFmt) (v : Nat) : FV :=
  let neg := v.testBit (f.ebits + f.mbits)
  let e := v / 2 ^ f.mbits % 2 ^ f.ebits
  let m := v % 2 ^ f.mbits
  if f.infs && e == 2 ^ f.ebits - 1 then
    if m = 0 then .inf neg else .nan neg (m.testBit (f.mbits - 1))
  else if !f.infs && f.ebits == 4 && e == 15 && m == 7 then .nan neg true
  else if e = 0 then .fin neg m (1 - (f.bias : Int) - f.mbits) false
  else .fin neg (m + 2 ^ f.mbits) ((e : Int) - f.bias - f.mbits) false

/-- The canonical NaN of a layout with a sign (03 R74). -/
def canonicalNan (f : BinFmt) (neg : Bool) : Nat :=
  (if neg then 2 ^ (f.ebits + f.mbits) else 0) +
    (if f.infs then (2 ^ f.ebits - 1) * 2 ^ f.mbits + 2 ^ (f.mbits - 1) else 2 ^ (f.ebits + f.mbits) - 1)

/-- The infinity of a layout with a sign. -/
def infinity (f : BinFmt) (neg : Bool) : Nat := (if neg then 2 ^ (f.ebits + f.mbits) else 0) + (2 ^ f.ebits - 1) * 2 ^ f.mbits

/-- The largest finite pattern of a sign. -/
def largest (f : BinFmt) (neg : Bool) : Nat :=
  (if neg then 2 ^ (f.ebits + f.mbits) else 0) +
    (if f.infs then (2 ^ f.ebits - 2) * 2 ^ f.mbits + 2 ^ f.mbits - 1
     else if f.ebits = 2 then 2 ^ (f.ebits + f.mbits) - 1 else 2 ^ (f.ebits + f.mbits) - 2)

/-! ## Rounding (03 R89, R90) -/

/-- How a result is rounded: the mode of 01 R22, saturation, and the random word of 03 R92. -/
structure Rounding where
  mode : Nat
  sat : Bool
  w : Nat
  deriving DecidableEq, Repr

/-- Round to nearest even, without saturation. -/
def Rounding.nearest : Rounding := { mode := 0, sat := false, w := 0 }

/-- Rounds (m + r) * 2^e to a multiple of 2^q: the multiple, and whether it differs (03 R89, R90). -/
def roundAt (r : Rounding) (neg : Bool) (m : Nat) (e : Int) (sticky : Bool) (q : Int) : Nat × Bool :=
  let s := (q - e).toNat
  let n := if q ≤ e then m * 2 ^ (e - q).toNat else m / 2 ^ s
  let rem := if q ≤ e then 0 else m % 2 ^ s
  let half := 2 ^ s / 2
  let inexact := decide (rem ≠ 0) || sticky
  let above := decide (rem > half) || (decide (rem = half) && sticky)
  let tie := decide (rem = half) && !sticky
  let up :=
    if q ≤ e then sticky && ((r.mode == 2 && !neg) || (r.mode == 3 && neg))
    else match r.mode with
      | 0 => above || (tie && n % 2 == 1)
      | 1 => false
      | 2 => inexact && !neg
      | 3 => inexact && neg
      | 4 => above || tie
      | _ => decide (2 ^ 32 ≤ rem * 2 ^ 32 / 2 ^ s + r.w % 2 ^ 32)
  (if up then n + 1 else n, inexact)

/-- The exponent of the leading bit. -/
def topBit (m : Nat) (e : Int) : Int := (Nat.log2 m : Int) + e

/-- (m + r) * 2^e is greater than a * 2^b. -/
def exceeds (m : Nat) (e : Int) (sticky : Bool) (a : Nat) (b : Int) : Bool :=
  if e ≤ b then decide (a * 2 ^ (b - e).toNat < m) || (decide (a * 2 ^ (b - e).toNat = m) && sticky)
  else decide (a < m * 2 ^ (e - b).toNat) || (decide (a = m * 2 ^ (e - b).toNat) && sticky)

/-- The pattern of n * 2^q, with n at most 2^(mbits + 1). -/
def pack (f : BinFmt) (neg : Bool) (n : Nat) (q : Int) : Nat :=
  let sign := if neg then 2 ^ (f.ebits + f.mbits) else 0
  if n < 2 ^ f.mbits then sign + n
  else if n = 2 ^ (f.mbits + 1) then sign + (q + 1 + f.mbits + f.bias).toNat * 2 ^ f.mbits
  else sign + (q + f.mbits + f.bias).toNat * 2 ^ f.mbits + (n - 2 ^ f.mbits)

/-- The delivered pattern and flags of a finite result beyond the largest finite value (03 R95). -/
def overflowed (f : BinFmt) (r : Rounding) (neg : Bool) : Nat × List Flag :=
  if r.sat && f.mbits ≠ 23 then (largest f neg, [.sat, .inx])
  else if !f.infs then (canonicalNan f neg, [.ovf, .inx])
  else if r.mode = 1 || (r.mode = 2 && neg) || (r.mode = 3 && !neg) then (largest f neg, [.ovf, .inx])
  else (infinity f neg, [.ovf, .inx])

/-- Rounds a nonzero finite value once into a layout (03 R89, R90, R94, R95). -/
def roundFinite (f : BinFmt) (r : Rounding) (neg : Bool) (m : Nat) (e : Int) (sticky : Bool) : Nat × List Flag :=
  let r := if r.mode == 5 && exceeds m e sticky f.maxM f.maxQ then { r with mode := 0 } else r
  let free := topBit m e - f.mbits
  let q := if free < f.minQ then f.minQ else free
  let (n, inexact) := roundAt r neg m e sticky q
  let past := decide (n ≠ 0) && (decide (f.maxQ < q) || (decide (q = f.maxQ) && decide (f.maxM < n)))
  if past then overflowed f r neg
  else
    let (nu, _) := roundAt r neg m e sticky free
    let tiny := decide (free < f.minQ) && !(nu == 2 ^ (f.mbits + 1) && free + 1 == f.minQ)
    (pack f neg n q, if inexact then (if tiny then [.unf, .inx] else [.inx]) else [])

/-- Rounds a value into a layout; a signalling NaN raises INV (03 R74, R95, R97). -/
def roundTo (f : BinFmt) (r : Rounding) : FV → Nat × List Flag
  | .nan neg quiet => (canonicalNan f neg, if quiet then [] else [.inv])
  | .inf neg =>
    if f.infs then (infinity f neg, [])
    else if r.sat then (largest f neg, [.sat, .inx]) else (canonicalNan f neg, [.ovf, .inx])
  | .fin neg m e sticky =>
    if m = 0 ∧ sticky = false then (if neg then 2 ^ (f.ebits + f.mbits) else 0, []) else roundFinite f r neg m e sticky

/-- Round-to-odd at 24 significant bits with unbounded exponent (03 R96). -/
def roundOdd : FV → FV
  | .fin neg m e sticky =>
    let s := Nat.log2 m - 23
    if Nat.log2 m < 24 then .fin neg m e sticky
    else .fin neg (if m % 2 ^ s ≠ 0 ∨ sticky = true then m / 2 ^ s ||| 1 else m / 2 ^ s) (e + s) false
  | v => v

/-- Rounds a value of a source wider than FP32 (03 R96). -/
def roundWide (f : BinFmt) (r : Rounding) (v : FV) : Nat × List Flag :=
  if f.mbits = 23 then roundTo f r v else roundTo f r (roundOdd v)

/-! ## Integers (03 R98, R99) -/

/-- The least and greatest value of an integer of a width and signedness. -/
def intMin (signed : Bool) (w : Nat) : Int := if signed then -(2 ^ (w - 1) : Nat) else 0

/-- The greatest value of an integer of a width and signedness. -/
def intMax (signed : Bool) (w : Nat) : Int := if signed then (2 ^ (w - 1) : Nat) - 1 else (2 ^ w : Nat) - 1

/-- An exact integer delivered at a width: modulo 2^w, or clamped under SAT (03 R99, 06 R167). -/
def deliverInt (sat signed : Bool) (w : Nat) (v : Int) : Nat × List Flag :=
  if sat then
    if v < intMin signed w then (patternOf w (intMin signed w), [.sat])
    else if intMax signed w < v then (patternOf w (intMax signed w), [.sat])
    else (patternOf w v, [])
  else (patternOf w v, [])

/-- An integer of a width converted to a width: extended to a wider one, and otherwise delivered (03 R99). -/
def convertInt (sat : Bool) (from_ : Nat) (signed : Bool) (w : Nat) (v : Int) : Nat × List Flag :=
  if from_ < w then (patternOf w v, []) else deliverInt sat signed w v

/-- A floating-point value converted to an integer (03 R98). -/
def floatToInt (r : Rounding) (signed : Bool) (w : Nat) : FV → Nat × List Flag
  | .nan _ _ => (0, [.inv])
  | .inf neg => (patternOf w (if neg then intMin signed w else intMax signed w), [if r.sat then .sat else .inv])
  | .fin neg m e sticky =>
    let (n, inexact) := roundAt r neg m e sticky 0
    let v : Int := if neg then -(n : Int) else n
    if v < intMin signed w then (patternOf w (intMin signed w), [if r.sat then .sat else .inv])
    else if intMax signed w < v then (patternOf w (intMax signed w), [if r.sat then .sat else .inv])
    else (patternOf w v, if inexact then [.inx] else [])

/-! ## Exact arithmetic (05 R135, 06 R167, R168) -/

/-- The NaN of a result with NaN operands: the sign of the first, signalling when any operand signals (03 R74). -/
def nanOf : List FV → Option FV
  | [] => none
  | .nan neg q :: r =>
    some (.nan neg (q && r.all fun v => match v with | .nan _ q => q | _ => true))
  | _ :: r => nanOf r

/-- The NaN that an invalid operation makes: positive, and INV (03 R74). -/
def invalid : FV × List Flag := (.nan false true, [.inv])

/-- The sum of two finite values; an exact zero of opposite signs is +0, or -0 under RDN (05 R135). -/
def addFinite (mode : Nat) (n1 : Bool) (m1 : Nat) (e1 : Int) (n2 : Bool) (m2 : Nat) (e2 : Int) : FV :=
  let e := if e1 < e2 then e1 else e2
  let v1 : Int := (m1 * 2 ^ (e1 - e).toNat : Nat)
  let v2 : Int := (m2 * 2 ^ (e2 - e).toNat : Nat)
  let v := (if n1 then -v1 else v1) + (if n2 then -v2 else v2)
  if v = 0 then .fin (if n1 = n2 then n1 else mode == 3) 0 0 false else .fin (decide (v < 0)) v.natAbs e false

/-- Addition of two values, exact. -/
def addValues (mode : Nat) (a b : FV) : FV × List Flag :=
  match nanOf [a, b] with
  | some v => (v, [])
  | none =>
    match a, b with
    | .inf x, .inf y => if x = y then (.inf x, []) else invalid
    | .inf x, _ => (.inf x, [])
    | _, .inf y => (.inf y, [])
    | .fin n1 m1 e1 _, .fin n2 m2 e2 _ => (addFinite mode n1 m1 e1 n2 m2 e2, [])
    | v, _ => (v, [])

/-- The value with its sign changed. -/
def FV.neg : FV → FV
  | .nan n q => .nan (!n) q
  | .inf n => .inf (!n)
  | .fin n m e s => .fin (!n) m e s

/-- Subtraction: a NaN keeps its own sign (03 R74). -/
def subValues (mode : Nat) (a b : FV) : FV × List Flag :=
  match nanOf [a, b] with
  | some v => (v, [])
  | none => addValues mode a b.neg

/-- Multiplication, exact. -/
def mulValues (a b : FV) : FV × List Flag :=
  match nanOf [a, b] with
  | some v => (v, [])
  | none =>
    match a, b with
    | .inf x, .inf y => (.inf (x != y), [])
    | .inf x, .fin y m _ _ => if m = 0 then invalid else (.inf (x != y), [])
    | .fin x m _ _, .inf y => if m = 0 then invalid else (.inf (x != y), [])
    | .fin x m1 e1 _, .fin y m2 e2 _ => (.fin (x != y) (m1 * m2) (if m1 * m2 = 0 then 0 else e1 + e2) false, [])
    | v, _ => (v, [])

/-- Division, to 70 significant bits and a sticky fraction: more than any rounding here reads. -/
def divValues (a b : FV) : FV × List Flag :=
  match nanOf [a, b] with
  | some v => (v, [])
  | none =>
    match a, b with
    | .inf _, .inf _ => invalid
    | .inf x, .fin y _ _ _ => (.inf (x != y), [])
    | .fin x _ _ _, .inf y => (.zero (x != y), [])
    | .fin x m1 e1 _, .fin y m2 e2 _ =>
      if m2 = 0 then (if m1 = 0 then invalid else (.inf (x != y), [.dz]))
      else if m1 = 0 then (.zero (x != y), [])
      else
        let k := 70 + Nat.log2 m2
        (.fin (x != y) (m1 * 2 ^ k / m2) (e1 - e2 - k) (decide (m1 * 2 ^ k % m2 ≠ 0)), [])
    | v, _ => (v, [])

/-- The integer square root, one bit at a time from bit k - 1. -/
def isqrt (n : Nat) : Nat → Nat → Nat
  | 0, r => r
  | k + 1, r => if (r + 2 ^ k) * (r + 2 ^ k) ≤ n then isqrt n k (r + 2 ^ k) else isqrt n k r

/-- The square root, to at least 70 significant bits and a sticky fraction. -/
def sqrtValue : FV → FV × List Flag
  | .nan n q => (.nan n q, [])
  | .inf neg => if neg then invalid else (.inf false, [])
  | .fin neg m e _ =>
    if m = 0 then (.zero neg, [])
    else if neg then invalid
    else
      let k : Int := 144 + (e % 2)
      let n := m * 2 ^ k.toNat
      let r := isqrt n (Nat.log2 n / 2 + 1) 0
      (.fin false r ((e - k) / 2) (decide (r * r ≠ n)), [])

/-- The product and sum of three values, exact; 0 times infinity is invalid and gives the canonical NaN whatever the addend
holds (05 R135, 06 R168). -/
def fmaValues (mode : Nat) (a b c : FV) : FV × List Flag :=
  match a, b with
  | .inf _, .fin _ 0 _ _ | .fin _ 0 _ _, .inf _ => invalid
  | _, _ =>
    match nanOf [a, b, c] with
    | some v => (v, [])
    | none =>
      let (p, _) := mulValues a b
      addValues mode p c

/-- The order of two values that are not NaNs: a is less than b; zeros are equal. -/
def lessThan : FV → FV → Bool
  | .fin n1 m1 e1 _, .fin n2 m2 e2 _ =>
    let e := if e1 < e2 then e1 else e2
    let v1 : Int := (m1 * 2 ^ (e1 - e).toNat : Nat)
    let v2 : Int := (m2 * 2 ^ (e2 - e).toNat : Nat)
    decide ((if n1 then -v1 else v1) < (if n2 then -v2 else v2))
  | .inf n, .inf m => n && !m
  | .inf n, .fin _ _ _ _ => n
  | .fin _ _ _ _, .inf m => !m
  | _, _ => false

/-- A zero of negative sign. -/
def FV.negZero : FV → Bool
  | .fin true 0 _ _ => true
  | _ => false

/-- A NaN. -/
def FV.isNan : FV → Bool
  | .nan _ _ => true
  | _ => false

/-- A signalling NaN. -/
def FV.signals : FV → Bool
  | .nan _ false => true
  | _ => false

/-- The lesser or greater of two values, -0 below +0; one NaN gives the other operand (05 R137). -/
def minMax (max : Bool) (a b : FV) : FV × List Flag :=
  let fl := if a.signals || b.signals then [.inv] else []
  match a, b with
  | .nan n _, .nan _ _ => (.nan n true, fl)
  | .nan _ _, _ => (b, fl)
  | _, .nan _ _ => (a, fl)
  | _, _ =>
    let less := lessThan a b || (!lessThan b a && a.negZero && !b.negZero)
    (if less != max then a else b, fl)

/-! ## FLAGS and FEIX (01 R24, R25) -/

/-- A flag raised at an absolute element index enters FLAGS, and lowers its FEIX (01 R25). -/
def Csrs.raiseAt (c : Csrs) (f : Flag) (at_ : Word) : Csrs :=
  let c := { c with flags := c.flags ||| flagMask [f] }
  if at_.toNat < (c.feix f).toNat then c.setFeix f at_ else c

/-- Every FEIX at the start of a pass that is no resumption (01 R25). -/
def Csrs.clearFeix (c : Csrs) : Csrs :=
  { c with feInv := -1, feDz := -1, feOvf := -1, feUnf := -1, feInx := -1, feSat := -1, feCbi := -1 }

end Sys2Proof.Machine
end

