-- ==== Sys2Proof/Machine/Trans.lean ====
section
/-!
DEFINITION. The correctly rounded functions of 06 R169. Reciprocals and roots are exact with a sticky fraction. The
transcendental ones are bounded between two integers at a precision at which both bounds round alike, which decides the
result; where they do not at the last precision tried, the result is a free value (DESIGN CHOICE, assumption log 7).
-/

namespace Sys2Proof.Machine

/-- 1 / sqrt(m * 2^e), to at least 70 significant bits and a sticky fraction. -/
def rsqFinite (m : Nat) (e : Int) : FV :=
  let odd := e % 2 = 1
  let m := if odd then 2 * m else m
  let e := if odd then e - 1 else e
  let k := 80 + Nat.log2 m
  let n := 2 ^ (2 * k) / m
  let r := isqrt n (Nat.log2 n / 2 + 1) 0
  .fin false r (-(e / 2) - k) (decide (r * r * m ≠ 2 ^ (2 * k)))

/-- Bounds of a nonnegative real: lo / 2^p at most it, it at most hi / 2^p. -/
structure Bounds where
  lo : Nat
  hi : Nat
  deriving DecidableEq, Repr

/-- Terms of the exponential series, scaled by 2^p: the running term and sum. -/
def expTerms (p : Nat) (y : Bounds) : Nat → Nat → Bounds → Bounds → Bounds
  | 0, _, term, sum => { lo := sum.lo, hi := sum.hi + term.hi + 1 }
  | n + 1, k, term, sum =>
    let t : Bounds := { lo := term.lo * y.lo / (2 ^ p * k), hi := term.hi * y.hi / (2 ^ p * k) + 1 }
    expTerms p y n (k + 1) t { lo := sum.lo + t.lo, hi := sum.hi + t.hi }

/-- Squares bounds a number of times. -/
def squareTimes (p : Nat) : Nat → Bounds → Bounds
  | 0, b => b
  | n + 1, b => squareTimes p n { lo := b.lo * b.lo / 2 ^ p, hi := b.hi * b.hi / 2 ^ p + 1 }

/-- Bounds of e^y for y below 256, scaled by 2^p: the series at y / 2^12, then twelve squarings. -/
def expBounds (p : Nat) (y : Bounds) : Bounds :=
  let small : Bounds := { lo := y.lo / 2 ^ 12, hi := y.hi / 2 ^ 12 + 1 }
  let one : Bounds := { lo := 2 ^ p, hi := 2 ^ p }
  squareTimes p 12 (expTerms p small (p / 3 + 4) 1 one one)

/-- Terms of the series of atanh(n / d), scaled by 2^p: the power, and the sum of powers over odd numbers. -/
def atanhTerms (p n d : Nat) : Nat → Nat → Bounds → Bounds → Bounds
  | 0, _, pow, sum => { lo := sum.lo, hi := sum.hi + pow.hi + 1 }
  | t + 1, k, pow, sum =>
    let sum : Bounds := { lo := sum.lo + pow.lo / k, hi := sum.hi + pow.hi / k + 1 }
    atanhTerms p n d t (k + 2) { lo := pow.lo * n * n / (d * d), hi := pow.hi * n * n / (d * d) + 1 } sum

/-- Bounds of ln(a / b) for b at most a at most 2b, scaled by 2^p: twice atanh((a - b) / (a + b)). -/
def lnBounds (p a b : Nat) : Bounds :=
  let n := a - b
  let d := a + b
  let first : Bounds := { lo := n * 2 ^ p / d, hi := n * 2 ^ p / d + 1 }
  let s := atanhTerms p n d (p / 3 + 4) 1 first { lo := 0, hi := 0 }
  { lo := 2 * s.lo, hi := 2 * s.hi }

/-- Rounds a real that is no multiple of a power of two at precision p, strictly inside its bounds: decided when both
ends round alike. -/
def roundBounds (f : BinFmt) (r : Rounding) (neg : Bool) (b : Bounds) (p : Nat) : Option (Nat × List Flag) :=
  if b.lo = 0 ∨ b.hi ≤ b.lo then none
  else
    let x := roundFinite f r neg b.lo (-(p : Int)) true
    let y := roundFinite f r neg (b.hi - 1) (-(p : Int)) true
    if x = y then some x else none

/-- A value m * 2^e scaled by 2^p, as an integer, for p at least -e. -/
def scaled (p : Nat) (m : Nat) (e : Int) : Nat := m * 2 ^ (e + p).toNat

/-- 2^x for a finite x that is no integer: bounds, scaled by 2^p, of 2^(fraction), and the integer below x. -/
def exp2Bounds (p : Nat) (neg : Bool) (m : Nat) (e : Int) : Bounds × Int :=
  let x := scaled p m e
  let v : Int := if neg then -(x : Int) else x
  let n := v / (2 ^ p : Nat)
  let f := (v % (2 ^ p : Nat)).toNat
  let l := lnBounds p 2 1
  (expBounds p { lo := f * l.lo / 2 ^ p, hi := f * l.hi / 2 ^ p + 1 }, n)

/-- The first precision at which a function's bounds decide. -/
def firstDecided (g : Nat → Option (Nat × List Flag)) : List Nat → Option (Nat × List Flag)
  | [] => none
  | p :: r => match g p with
    | some x => some x
    | none => firstDecided g r

/-- The precisions tried. -/
def precisions : List Nat := [400, 800]

/-- Multiplies bounds by 2^n, keeping the scale. -/
def shiftBounds (b : Bounds) (n : Int) (p : Nat) : Bounds × Nat :=
  if 0 ≤ n then ({ lo := b.lo * 2 ^ n.toNat, hi := b.hi * 2 ^ n.toNat }, p) else (b, p + (-n).toNat)

/-- 2^x for a finite x that is no integer. -/
def exp2Finite (f : BinFmt) (r : Rounding) (neg : Bool) (m : Nat) (e : Int) : Option (Nat × List Flag) :=
  if 10 < topBit m e then
    some (if neg then roundFinite f r false 1 (-1100) true else roundFinite f r false 1 1100 true)
  else if topBit m e < -64 then
    some (if neg then roundFinite f r false (2 ^ 70 - 1) (-70) true else roundFinite f r false (2 ^ 70) (-70) true)
  else firstDecided (fun p =>
    let (b, n) := exp2Bounds p neg m e
    let (b, p) := shiftBounds b n p
    roundBounds f r false b p) precisions

/-- log2 x for a positive finite x that is no power of two. -/
def log2Finite (f : BinFmt) (r : Rounding) (m : Nat) (e : Int) : Option (Nat × List Flag) :=
  let k := topBit m e
  firstDecided (fun p =>
    let l := lnBounds p m (2 ^ Nat.log2 m)
    let l2 := lnBounds p 2 1
    let lo : Int := (l.lo * 2 ^ p / l2.hi : Nat) + k * (2 ^ p : Nat)
    let hi : Int := (l.hi * 2 ^ p / l2.lo + 1 : Nat) + k * (2 ^ p : Nat)
    if 0 < lo then roundBounds f r false { lo := lo.toNat, hi := hi.toNat } p
    else if hi < 0 then roundBounds f r true { lo := (-hi).toNat, hi := (-lo).toNat } p
    else none) precisions

/-- tanh of a finite nonzero magnitude, with the sign of the result. -/
def tanhFinite (f : BinFmt) (r : Rounding) (neg : Bool) (m : Nat) (e : Int) : Option (Nat × List Flag) :=
  if topBit m e < -54 then some (roundFinite f r neg (m * 2 ^ 80 - 1) (e - 80) true)
  else if 6 < topBit m e then some (roundFinite f r neg (2 ^ 150 - 1) (-150) true)
  else firstDecided (fun p =>
    let y := 2 * scaled p m e
    let x := expBounds p { lo := y, hi := y }
    let one := 2 ^ p
    roundBounds f r neg { lo := (x.lo - one) * one / (x.lo + one), hi := (x.hi - one) * one / (x.hi + one) + 1 } p) precisions

/-- 1 / (1 + e^-x) of a finite nonzero x. -/
def sigmFinite (f : BinFmt) (r : Rounding) (neg : Bool) (m : Nat) (e : Int) : Option (Nat × List Flag) :=
  if topBit m e < -100 then
    some (if neg then roundFinite f r false (2 ^ 149 - 1) (-150) true else roundFinite f r false (2 ^ 149) (-150) true)
  else if 6 < topBit m e then
    some (if neg then roundFinite f r false 1 (-400) true else roundFinite f r false (2 ^ 150 - 1) (-150) true)
  else firstDecided (fun p =>
    let y := scaled p m e
    let x := expBounds p { lo := y, hi := y }
    let one := 2 ^ p
    roundBounds f r false
      (if neg then { lo := one * one / (one + x.hi), hi := one * one / (one + x.lo) + 1 }
       else { lo := x.lo * one / (one + x.lo), hi := x.hi * one / (one + x.hi) + 1 }) p) precisions

/-- The unary functions with special values (06 R169), by the code of their b field. -/
inductive UnaryFn where
  | sqrt | rcp | rsq | exp2 | log2 | tanh | sigm
  deriving DecidableEq, Repr

/-- The code by which a free result is drawn. -/
def UnaryFn.code : UnaryFn → Nat
  | .sqrt => 0 | .rcp => 3 | .rsq => 4 | .exp2 => 5 | .log2 => 6 | .tanh => 7 | .sigm => 8

/-- An integer value m * 2^e. -/
def isInteger (m : Nat) (e : Int) : Bool := decide (0 ≤ e) || decide (m % 2 ^ (-e).toNat = 0)

/-- The result of a bounded function, or the free value that stands for it. -/
def orFree (fn : UnaryFn) (f : BinFmt) (r : Rounding) (m : Nat) : Option (Nat × List Flag) → Nat × List Flag
  | some x => x
  | none => (Config.undecided fn.code m r.mode r.w % 2 ^ (f.ebits + f.mbits + 1), [.inx])

/-- A unary function of a value, rounded once into a layout (06 R169). -/
def unary (fn : UnaryFn) (f : BinFmt) (r : Rounding) (x : FV) : Nat × List Flag :=
  let done (v : FV × List Flag) : Nat × List Flag :=
    let (p, fl) := roundTo f r v.1
    (p, v.2 ++ fl)
  let one : FV := .fin false 1 0 false
  match fn, x with
  | _, .nan n q => roundTo f r (.nan n q)
  | .sqrt, x => done (sqrtValue x)
  | .rcp, x => done (divValues one x)
  | .rsq, .inf neg => if neg then done (.nan false true, [.inv]) else done (.zero false, [])
  | .rsq, .fin neg m e _ =>
    if m = 0 then done (.inf neg, [.dz]) else if neg then done (.nan false true, [.inv]) else done (rsqFinite m e, [])
  | .exp2, .inf neg => done (if neg then .zero false else .inf false, [])
  | .exp2, .fin neg m e _ =>
    if isInteger m e then
      let n : Nat := if 12 < topBit m e then 4096 else if 0 ≤ e then m * 2 ^ e.toNat else m / 2 ^ (-e).toNat
      done (.fin false 1 (if neg then -(n : Int) else n) false, [])
    else orFree fn f r m (exp2Finite f r neg m e)
  | .log2, .inf neg => if neg then done (.nan false true, [.inv]) else done (.inf false, [])
  | .log2, .fin neg m e _ =>
    if m = 0 then done (.inf true, [.dz])
    else if neg then done (.nan false true, [.inv])
    else if m = 2 ^ Nat.log2 m then done (FV.ofInt (topBit m e), [])
    else orFree fn f r m (log2Finite f r m e)
  | .tanh, .inf neg => done (.fin neg 1 0 false, [])
  | .tanh, .fin neg m e _ => if m = 0 then done (.zero neg, []) else orFree fn f r m (tanhFinite f r neg m e)
  | .sigm, .inf neg => done (if neg then .zero false else one, [])
  | .sigm, .fin neg m e _ => if m = 0 then done (.fin false 1 (-1) false, []) else orFree fn f r m (sigmFinite f r neg m e)

end Sys2Proof.Machine
end

