-- ==== Sys2Proof/Machine/Operands.lean ====
section
/-!
DEFINITION. Reading an operand element in the format of the operation, converting a value into a format, and the
operations on one sub-value (03 R76, R77, R95 to R99, 06 R164 to R175); block encoding and decoding (03 R78 to R82).
-/

namespace Sys2Proof

/-- The format in which a value of a node stands: a class K value is FP32 (06 R162). -/
def Fmt.held : Fmt → Fmt
  | .nx4 | .mx8 => .f32
  | f => f

/-- The bits of one sub-value as a node or a cell holds it (02 R51). -/
def Fmt.heldBits (f : Fmt) : Nat := f.held.bits

/-- The format in which an integer operation computes (03 R76). -/
def Fmt.computed : Fmt → Fmt
  | .ix4 | .ix8 => .n8
  | f => f

end Sys2Proof

namespace Sys2Proof.Machine

/-! ## Reading (03 R76, R77) -/

/-- The integer that a pattern of an integer or bit format holds. -/
def intOf (f : Fmt) (v : Nat) : Int := if f.signed then signedOf f.bits v else (v % 2 ^ f.bits : Nat)

/-- The exact value of an element, a bit pattern as an unsigned integer (03 R76, R77). -/
def plainValue (f : Fmt) (v : Nat) : FV :=
  match f.cls with
  | .f | .k => unpack f.held.layout v
  | .i => FV.ofInt (intOf f v)
  | .b => FV.ofInt (v % 2 ^ f.bits : Nat)

/-- The value of an element as a floating-point operation in format t reads it: exact, but for a bit pattern, which is
read as an element of t where it has the width of t, and otherwise converted into t (03 R76, R77). -/
def valueRead (t : Fmt) (r : Rounding) (f : Fmt) (v : Nat) : FV × List Flag :=
  if f.cls == .b then
    if f.bits = t.held.bits then (unpack t.held.layout v, [])
    else
      let x := roundWide t.held.layout r (plainValue f v)
      (unpack t.held.layout x.1, x.2)
  else (plainValue f v, [])

/-- An element as an integer operation in format t reads it, as a pattern of t's computing format (06 R164). -/
def patternRead (t : Fmt) (r : Rounding) (f : Fmt) (v : Nat) : Nat × List Flag :=
  let c := t.computed
  match f.cls with
  | .f | .k => floatToInt r c.signed c.bits (plainValue f v)
  | .i => if f = c then (v % 2 ^ c.bits, []) else convertInt r.sat f.bits c.signed c.bits (intOf f v)
  | .b => if f.bits = c.bits then (v % 2 ^ c.bits, []) else convertInt r.sat f.bits c.signed c.bits (v % 2 ^ f.bits : Nat)

/-- An integer result delivered in a format: .ix4 modulo 16, .ix8 modulo 256, or clamped (03 R99, 06 R162). -/
def deliver (t : Fmt) (sat : Bool) (v : Int) : Nat × List Flag := deliverInt sat t.signed t.bits v

/-- The integer that a pattern of the computing format holds. -/
def computedInt (t : Fmt) (v : Nat) : Int := intOf t.computed v

/-! ## Converting a value into a format (03 R95 to R99) -/

/-- A source wider than FP32 (03 R96). -/
def Fmt.wide : Fmt → Bool
  | .i64 | .n64 | .n32 | .b64 | .b32 => true
  | _ => false

/-- Rounds a value once into a floating-point format, through round-to-odd when its source is wider than FP32. -/
def roundFrom (t : Fmt) (r : Rounding) (wide : Bool) (v : FV) : Nat × List Flag :=
  if wide then roundWide t.held.layout r v else roundTo t.held.layout r v

/-- Converts an element into a format, whatever its own: vcvt, and every conversion whose source is in another format
(03 R95 to R99, 06 R164, R173); into `.ix4` and `.ix8` the `.n8` value modulo 16 or 256, or clamped (07 R188). -/
def convert (t : Fmt) (r : Rounding) (f : Fmt) (v : Nat) : Nat × List Flag :=
  match t.cls with
  | .f | .k =>
    if f.cls == .b && f.bits == t.held.bits then roundTo t.held.layout r (unpack t.held.layout v)
    else roundFrom t r (Fmt.wide f) (plainValue f v)
  | .i =>
    match f.cls with
    | .f | .k =>
      let x := floatToInt r t.computed.signed t.computed.bits (plainValue f v)
      let y := deliver t r.sat (computedInt t x.1)
      (y.1, x.2 ++ y.2)
    | .i => if f = t then (v % 2 ^ t.bits, []) else convertInt r.sat f.bits t.signed t.bits (intOf f v)
    | .b => if f.bits = t.bits then (v % 2 ^ t.bits, []) else convertInt r.sat f.bits t.signed t.bits (v % 2 ^ f.bits : Nat)
  | .b =>
    if f.held.bits = t.bits then (v % 2 ^ t.bits, [])
    else match f.cls with
      | .f | .k => floatToInt r false t.bits (plainValue f v)
      | .i => convertInt r.sat f.bits false t.bits (intOf f v)
      | .b => convertInt r.sat f.bits false t.bits (v % 2 ^ f.bits : Nat)

/-- An element moved into a format: bit for bit where it stands in the format or is a bit pattern of its width, and
otherwise converted (06 R164, R172, 07 R188, R191). -/
def moveInto (t : Fmt) (r : Rounding) (f : Fmt) (v : Nat) : Nat × List Flag :=
  if f.held = t.held then (v % 2 ^ t.heldBits, [])
  else if f.cls == .b && f.bits == t.held.bits then (v % 2 ^ t.heldBits, [])
  else convert t r f v

/-- The pattern of an immediate in a format: a 7-bit signed integer converted at the node (03 R99, 04 R107). -/
def immediatePattern (t : Fmt) (r : Rounding) (n : Int) : Nat × List Flag :=
  match t.cls with
  | .f | .k => roundTo t.held.layout r (FV.ofInt n)
  | .i => convertInt r.sat 7 t.signed t.bits n
  | .b => convertInt r.sat 7 false t.bits n

/-- The format of a captured scalar (04 R107). -/
def scalarFmt (t : Fmt) : Fmt := t.held.computed

/-! ## Arithmetic (06 R167, R168) -/

/-- The operations of vadd to vmax. -/
inductive Arith where
  | add | sub | mul | div | min | max
  deriving DecidableEq, Repr

/-- Rounds an exact result into a floating-point format, its flags after those of the operation. -/
def finish (t : Fmt) (r : Rounding) (x : FV × List Flag) : Nat × List Flag :=
  let y := roundTo t.held.layout r x.1
  (y.1, x.2 ++ y.2)

/-! ## Running values (03 R100, R101, 07 R198 to R204) -/

/-- An integer as a running value: FP32 bits where it is an FP32 value. -/
def Amount.ofInt (at_ : Word) (n : Int) : Amount :=
  let x := roundTo Fmt.f32.layout Rounding.nearest (FV.ofInt n)
  if x.2.isEmpty then .bits x.1 else .whole (decide (n < 0)) n.natAbs at_

/-- The value of a running value of a floating-point class. -/
def Amount.value : Amount → FV
  | .bits v => unpack Fmt.f32.layout v
  | .whole neg m _ => .fin neg m 0 false

/-- The pattern of a running value; of one that is no FP32 value, its magnitude. -/
def Amount.pattern : Amount → Nat
  | .bits v => v
  | .whole _ m _ => m

/-- A running value as the numbers that a sink consumes. -/
def Amount.nats : Amount → List Nat
  | .bits v => [v]
  | .whole neg m _ => [m, bitOf neg]

/-- The running value that a sink consumes at an absolute index. -/
def Amount.ofNats (at_ : Word) : List Nat → Option Amount
  | [] => none
  | [v] => some (.bits v)
  | m :: n :: _ => some (.whole (n == 1) m at_)

/-- A running value as FP32 bits: one that is no FP32 value is rounded once. -/
def Amount.single (r : Rounding) : Amount → Nat × List Flag
  | .bits v => (v, [])
  | .whole neg m _ => roundWide Fmt.f32.layout r (.fin neg m 0 false)

/-- A sum of two running values, rounded once into FP32 (03 R100, R101). -/
def Amount.add (r : Rounding) (x y : Amount) : Nat × List Flag :=
  finish .f32 r (addValues r.mode x.value y.value)

/-- The lesser or greater of two running values, exact (05 R137, 07 R202). -/
def Amount.pick (max : Bool) (x y : Amount) : Amount × List Flag :=
  let z := minMax max x.value y.value
  match x, y with
  | .bits _, .bits _ => let w := finish .f32 Rounding.nearest z; (.bits w.1, w.2)
  | _, _ => (if z.1 = x.value then x else y, z.2)

/-- A running value alone, a NaN canonical (07 R202). -/
def Amount.alone : Amount → Amount × List Flag
  | .bits v => let w := finish .f32 Rounding.nearest (unpack Fmt.f32.layout v, []); (.bits w.1, w.2)
  | x => (x, [])

/-- The exact result of a floating-point operation. -/
def floatArith (o : Arith) (r : Rounding) (x y : FV) : FV × List Flag :=
  match o with
  | .add => addValues r.mode x y
  | .sub => subValues r.mode x y
  | .mul => mulValues x y
  | .div => divValues x y
  | .min => minMax false x y
  | .max => minMax true x y

/-- An integer operation on patterns of the computing format, delivered in the format (06 R167). A minimum or maximum of `.ix4` above
15 is clamped under SAT, as every delivery is (R162, R94), though R167 has vmin and vmax raise no flag (DESIGN CHOICE, assumption log 107). -/
def intArith (o : Arith) (t : Fmt) (sat : Bool) (x y : Nat) : Nat × List Flag :=
  let a := computedInt t x
  let b := computedInt t y
  match o with
  | .add => deliver t sat (a + b)
  | .sub => deliver t sat (a - b)
  | .mul => deliver t sat (a * b)
  | .div => if b = 0 then (2 ^ t.bits - 1, []) else deliver t sat (Int.tdiv a b)
  | .min => deliver t sat (if a ≤ b then a else b)
  | .max => deliver t sat (if a ≤ b then b else a)

/-- An operation of 06 R167 on two elements in their own formats. -/
def arith (o : Arith) (t : Fmt) (r : Rounding) (fa : Fmt) (a : Nat) (fb : Fmt) (b : Nat) : Nat × List Flag :=
  match t.cls with
  | .f | .k =>
    let x := valueRead t r fa a
    let y := valueRead t r fb b
    let z := finish t r (floatArith o r x.1 y.1)
    (z.1, x.2 ++ y.2 ++ z.2)
  | .i | .b =>
    let x := patternRead t r fa a
    let y := patternRead t r fb b
    let z := intArith o t r.sat x.1 y.1
    (z.1, x.2 ++ y.2 ++ z.2)

/-- vfma and vfms on three elements (06 R168). -/
def fusedArith (minus : Bool) (t : Fmt) (r : Rounding) (fa : Fmt) (a : Nat) (fb : Fmt) (b : Nat) (fc : Fmt) (c : Nat) :
    Nat × List Flag :=
  match t.cls with
  | .f | .k =>
    let x := valueRead t r fa a
    let y := valueRead t r fb b
    let z := valueRead t r fc c
    let w := match z.1 with | .nan _ _ => z.1 | v => if minus then v.neg else v
    let s := finish t r (fmaValues r.mode x.1 y.1 w)
    (s.1, x.2 ++ y.2 ++ z.2 ++ s.2)
  | .i | .b =>
    let x := patternRead t r fa a
    let y := patternRead t r fb b
    let z := patternRead t r fc c
    let p := computedInt t x.1 * computedInt t y.1
    let s := deliver t r.sat (if minus then p - computedInt t z.1 else p + computedInt t z.1)
    (s.1, x.2 ++ y.2 ++ z.2 ++ s.2)

/-! ## Unary operations (06 R169) -/

/-- The magnitude of a value, without its sign. -/
def FV.abs : FV → FV
  | .nan _ q => .nan false q
  | .inf _ => .inf false
  | .fin _ m e s => .fin false m e s

/-- vabs and vneg: exact; a NaN gives the canonical NaN with its sign cleared or inverted (06 R169). -/
def signOp (neg : Bool) (t : Fmt) (r : Rounding) (f : Fmt) (v : Nat) : Nat × List Flag :=
  match t.cls with
  | .f | .k =>
    let x := valueRead t r f v
    let y := roundTo t.held.layout r (if neg then x.1.neg else x.1.abs)
    (y.1, x.2 ++ y.2)
  | .i | .b =>
    let x := patternRead t r f v
    let a := computedInt t x.1
    let z := deliver t r.sat (if neg then -a else if a < 0 then -a else a)
    (z.1, x.2 ++ z.2)

/-- The correctly rounded functions of 06 R169 on one element. -/
def unaryOp (fn : UnaryFn) (t : Fmt) (r : Rounding) (f : Fmt) (v : Nat) : Nat × List Flag :=
  let x := valueRead t r f v
  let y := unary fn t.held.layout r x.1
  (y.1, x.2 ++ y.2)

/-! ## Bits (06 R170) -/

/-- The pattern that a bitwise operation reads: bits of the format, or the value converted into it (06 R164). -/
def bitsRead (t : Fmt) (r : Rounding) (f : Fmt) (v : Nat) : Nat × List Flag :=
  match t.cls with
  | .i => patternRead t r f v
  | _ => moveInto t r f v

/-- The bitwise operations, the shifts and the high product. -/
inductive BitArith where
  | and | or | xor | shl | shr | sra | mulh
  deriving DecidableEq, Repr

/-- The bits of the computing format. -/
def bitWidth (t : Fmt) : Nat := t.computed.held.bits

/-- An operation of 06 R170 on two patterns, cut to the format; no flag. -/
def bitArith (o : BitArith) (t : Fmt) (x y : Nat) : Nat :=
  let w := bitWidth t
  let n := y % w
  let v := match o with
    | .and => x &&& y
    | .or => x ||| y
    | .xor => x ^^^ y
    | .shl => x * 2 ^ n
    | .shr => x / 2 ^ n
    | .sra => patternOf w (signedOf w x / (2 ^ n : Nat))
    | .mulh => patternOf w (computedInt t x * computedInt t y / (2 ^ w : Nat))
  v % 2 ^ t.heldBits

/-! ## Comparison (06 R171) -/

/-- A condition on two floating-point values, and whether INV is raised. -/
def floatCond (c : Cond) (x y : FV) : Bool × Bool :=
  let nan := x.isNan || y.isNan
  let sig := x.signals || y.signals
  let lt := lessThan x y
  let gt := lessThan y x
  match c with
  | .eq => (!nan && !lt && !gt, sig)
  | .ne => (nan || lt || gt, sig)
  | .lt => (!nan && lt, nan)
  | .le => (!nan && !gt, nan)
  | .gt => (!nan && gt, nan)
  | .ge => (!nan && !lt, nan)
  | .un => (nan, sig)
  | .ord => (!nan, sig)

/-- A condition on two integers. -/
def intCond (c : Cond) (x y : Int) : Bool :=
  match c with
  | .eq => x == y
  | .ne => x != y
  | .lt => decide (x < y)
  | .le => decide (x ≤ y)
  | .gt => decide (y < x)
  | .ge => decide (y ≤ x)
  | .un => false
  | .ord => true

/-- The mask bit of vcmp on two elements (06 R171). -/
def compare (c : Cond) (t : Fmt) (r : Rounding) (fa : Fmt) (a : Nat) (fb : Fmt) (b : Nat) : Nat × List Flag :=
  match t.cls with
  | .f | .k =>
    let x := valueRead t r fa a
    let y := valueRead t r fb b
    let z := floatCond c x.1 y.1
    (bitOf z.1, x.2 ++ y.2 ++ if z.2 then [.inv] else [])
  | .i =>
    let x := patternRead t r fa a
    let y := patternRead t r fb b
    (bitOf (intCond c (computedInt t x.1) (computedInt t y.1)), x.2 ++ y.2)
  | .b =>
    let x := moveInto t r fa a
    let y := moveInto t r fb b
    (bitOf (intCond c x.1 y.1), x.2 ++ y.2)

/-! ## Scaling (06 R174) -/

/-- The integer that vscl takes from a floating-point value. -/
def scaleOf : FV → Int × List Flag
  | .nan _ _ => (0, [.inv])
  | .inf neg => (if neg then -(2 ^ 63 : Nat) else (2 ^ 63 : Nat), [])
  | .fin neg m e _ =>
    let n : Nat := if 0 ≤ e then m * 2 ^ (if e < 4096 then e.toNat else 4096) else m / 2 ^ (-e).toNat
    (if neg then -(n : Int) else n, [])

/-- The integer that vscl in format t takes from an element of a handle. -/
def scaleRead (t : Fmt) (r : Rounding) (f : Fmt) (v : Nat) : Int × List Flag :=
  match f.cls with
  | .i => (intOf f v, [])
  | .b =>
    if f.bits = t.held.bits then scaleOf (valueRead t r f v).1 else (intOf f v, [])
  | .f | .k => scaleOf (plainValue f v)

/-- A times 2^n, rounded once; beyond 4,096 the exponent has the effect of 4,096 in every format. -/
def scaleValue (t : Fmt) (r : Rounding) (x : FV) (n : Int) : Nat × List Flag :=
  let n := if n < -4096 then -4096 else if 4096 < n then 4096 else n
  roundTo t.held.layout r (match x with | .fin neg m e s => .fin neg m (e + n) s | v => v)

/-! ## Random elements (06 R177) -/

/-- The element of vrng.raw. -/
def rawElement (t : Fmt) (q : Quad) : Nat :=
  if t.bits = 64 then q.w0 + q.w1 * 2 ^ 32 else q.w0 % 2 ^ t.bits

/-- The element of vrng.unif, rounded towards zero. -/
def unifElement (t : Fmt) (q : Quad) : Nat :=
  (roundTo t.held.layout { mode := 1, sat := false, w := 0 } (.fin false (q.w0 / 256) (-24) false)).1

/-! ## Indices (07 R187, R195) -/

/-- An index element converted to .i64 under RTZ and the captured SAT (07 R187). -/
def indexRead (sat : Bool) (f : Fmt) (v : Nat) : Int × List Flag :=
  let x := convert .i64 { mode := 1, sat := sat, w := 0 } f v
  (signedOf 64 x.1, x.2)

/-- The integer that an element is, exactly, or none (07 R195); of `.b32` and `.b64` the unsigned integer of its bits, whatever the
captured format (03 R76 speaks of values computed in a format; DESIGN CHOICE, assumption log 105). -/
def exactInteger (f : Fmt) (v : Nat) : Option Int :=
  match f.cls with
  | .f | .k =>
    match plainValue f v with
    | .fin neg m e _ =>
      if isInteger m e then
        let n : Nat := if 0 ≤ e then m * 2 ^ e.toNat else m / 2 ^ (-e).toNat
        some (if neg then -(n : Int) else n)
      else none
    | _ => none
  | .i | .b => some (intOf f v)

/-! ## Block formats (03 R78 to R82) -/

/-- The largest finite FP32 value of a sign. -/
def largestF32 (neg : Bool) : FV := .fin neg (2 ^ 24 - 1) 104 false

/-- 2^X times a value. -/
def FV.scale (v : FV) (x : Int) : FV := match v with | .fin n m e s => .fin n m (e + x) s | v => v

/-- The decoded FP32 value of an element code under a side word (03 R78, R79). -/
def blockDecode (f : Fmt) (side code : Nat) : Nat × List Flag :=
  let scale := side % 256
  let x : Int := (scale : Int) - 127
  let v : FV :=
    if scale = 255 then .nan false true
    else if f = .nx4 then
      if code % 16 = 8 then (unpack Fmt.e4m3.layout (side / 256 % 256)).scale x
      else (unpack e2m1 (code % 16)).scale x
    else (unpack Fmt.e4m3.layout (code % 256)).scale x
  roundTo Fmt.f32.layout Rounding.nearest v

/-- The value that an element brings to a block: FP32 bits of `.b32`, and otherwise its exact value (03 R76, R77, R80). -/
def blockRead (f : Fmt) (v : Nat) : FV := if f = .b32 then unpack Fmt.f32.layout v else plainValue f v

/-- An element of a block to be stored: its value and its rounding; none when absent or inactive. -/
abbrev BlockElem : Type := Option (FV × Rounding)

/-- What a block element contributes to the scale: infinities clamp under SAT = 1 (03 R81). -/
def clampInf (sat : Bool) (v : FV) : FV :=
  match v with
  | .inf n => if sat then largestF32 n else .inf n
  | v => v

/-- The largest magnitude, and the lowest position that has it. -/
def blockMax : Nat → List BlockElem → FV → Option Nat → FV × Option Nat
  | _, [], a, p => (a, p)
  | j, none :: r, a, p => blockMax (j + 1) r a p
  | j, some (v, _) :: r, a, p =>
    if lessThan a v.abs then blockMax (j + 1) r v.abs (some j) else blockMax (j + 1) r a p

/-- The flags of one encoded element (03 R80): of a nonzero value, and of the rounded pattern with its own flags. -/
def encodeFlags (zero : Bool) (fl : List Flag) : List Flag :=
  if fl.isEmpty then [] else if zero then [.unf, .inx] else if fl.contains .sat then [.sat, .inx] else [.inx]

/-- One element code (03 R80). -/
def encodeElem (f : Fmt) (x : Int) (v : FV) (r : Rounding) : Nat × List Flag :=
  let l := if f = .nx4 then e2m1 else Fmt.e4m3.layout
  let y := roundWide l { r with sat := true } (v.scale (-x))
  let mag := y.1 % 2 ^ (l.ebits + l.mbits)
  (if mag = 0 then 0 else y.1, encodeFlags (mag == 0) y.2)

/-- The flags of a NaN or an infinity in a block (03 R81). -/
def specialFlags (sat : Bool) : FV → List Flag
  | .nan _ q => if q then [] else [.inv]
  | .inf _ => if sat then [.sat, .inx] else [.ovf, .inx]
  | _ => []

/-- A block encoded (03 R80 to R82): the side word, the codes, and the flags of each element. -/
def blockEncode (f : Fmt) (sat : Bool) (es : List BlockElem) : Nat × List Nat × List (List Flag) :=
  let special (v : FV) : Bool := v.isNan || (match v with | .inf _ => !sat | _ => false)
  if es.any fun e => match e with | some (v, _) => special v | none => false then
    (255, es.map fun _ => 0, es.map fun e => match e with | some (v, _) => specialFlags sat v | none => [])
  else
    let cs : List BlockElem := es.map fun e => match e with | some (v, r) => some (clampInf sat v, r) | none => none
    let (a, p) := blockMax 0 cs (.zero false) none
    let emax : Int := if f = .nx4 then 2 else 8
    let x : Int := match a with
      | .fin _ m e _ =>
        if m = 0 then -127
        else let t := topBit m e - emax; if t < -127 then -127 else if 127 < t then 127 else t
      | _ => 127
    let sp : Option Nat := if f = .nx4 && lessThan (.fin false 6 x false) a then p else none
    let coded := (List.range cs.length).map fun j =>
      match (cs[j]?).getD none with
      | none => (0, [])
      | some (v, r) =>
        if sp = some j then
          let y := roundWide Fmt.e4m3.layout { r with sat := true } (v.scale (-x))
          (8, if y.2.isEmpty then [] else [Flag.inx])
        else encodeElem f x v r
    let pat : Nat := match sp with
      | some j => match (cs[j]?).getD none with
        | some (v, r) => (roundWide Fmt.e4m3.layout { r with sat := true } (v.scale (-x))).1
        | none => 0
      | none => 0
    (pat * 256 + (x + 127).toNat, coded.map fun c => c.1,
      (List.range es.length).map fun j =>
        (match (es[j]?).getD none with | some (v, _) => specialFlags sat v | none => []) ++ ((coded[j]?).map fun c => c.2).getD [])

end Sys2Proof.Machine
end

