-- ==== Sys2Proof/Machine/Float.lean ====
section
/-!
DEFINITION. Scalar floating point (05 R134 to R138): FP32 values in the low halves of the scalar registers, rounded once under
VMODE.FRM; flags go to FLAGS alone.
-/

namespace Sys2Proof.Machine

/-- Scalar rounding: VMODE.FRM (01 R22). -/
def Csrs.frm (c : Csrs) : Nat := field c.vmode 5 3

/-- VMODE.SAT (01 R22). -/
def Csrs.satBit (c : Csrs) : Bool := bit c.vmode 3

/-- How a scalar instruction rounds; SAT matters to conversions alone (05 R138). -/
def State.scalarRounding (s : State) (sat : Bool) : Rounding := { mode := s.me.a.csr.frm, sat := sat, w := 0 }

/-- The FP32 value in the low half of a register (05 R134). -/
def State.float (s : State) (n : SReg) : FV := unpack Fmt.f32.layout ((s.reg n).toNat % 2 ^ 32)

/-- A result written with its flags (05 R134). -/
def State.floatResult (s : State) (d : SReg) (x : Nat × List Flag) : Res := .next ((s.setReg d (word x.1)).raise x.2).retire

/-- d := f of a and b, rounded once. -/
def State.float3 (s : State) (d a b : SReg) (f : Nat → FV → FV → FV × List Flag) : Res :=
  s.reading [a, b] fun s =>
    let r := s.scalarRounding false
    s.floatResult d (finish .f32 r (f r.mode (s.float a) (s.float b)))

/-- d := a relation of a and b, in all 64 bits (05 R136). -/
def State.floatTest (s : State) (c : Cond) (d a b : SReg) : Res :=
  s.reading [a, b] fun s =>
    let x := floatCond c (s.float a) (s.float b)
    s.floatResult d (bitOf x.1, if x.2 then [.inv] else [])

/-- fadd (R135). -/
def execFadd (d a b : SReg) (s : State) : Res := s.float3 d a b addValues
/-- fsub (R135). -/
def execFsub (d a b : SReg) (s : State) : Res := s.float3 d a b subValues
/-- fmul (R135). -/
def execFmul (d a b : SReg) (s : State) : Res := s.float3 d a b fun _ x y => mulValues x y
/-- fdiv (R135). -/
def execFdiv (d a b : SReg) (s : State) : Res := s.float3 d a b fun _ x y => divValues x y
/-- fmin (R137). -/
def execFmin (d a b : SReg) (s : State) : Res := s.float3 d a b fun _ x y => minMax false x y
/-- fmax (R137). -/
def execFmax (d a b : SReg) (s : State) : Res := s.float3 d a b fun _ x y => minMax true x y

/-- fsqrt (R135). -/
def execFsqrt (d a : SReg) (s : State) : Res :=
  s.reading [a] fun s => s.floatResult d (unary .sqrt Fmt.f32.layout (s.scalarRounding false) (s.float a))

/-- fma: a times b plus the old d (R135). -/
def execFma (d a b : SReg) (s : State) : Res :=
  s.reading [d, a, b] fun s =>
    let r := s.scalarRounding false
    s.floatResult d (finish .f32 r (fmaValues r.mode (s.float a) (s.float b) (s.float d)))

/-- fcmp.eq (R136). -/
def execFcmpEq (d a b : SReg) (s : State) : Res := s.floatTest .eq d a b
/-- fcmp.lt (R136). -/
def execFcmpLt (d a b : SReg) (s : State) : Res := s.floatTest .lt d a b
/-- fcmp.le (R136). -/
def execFcmpLe (d a b : SReg) (s : State) : Res := s.floatTest .le d a b
/-- fcmp.un (R136). -/
def execFcmpUn (d a b : SReg) (s : State) : Res := s.floatTest .un d a b

/-- A value of a format in a scalar register: sign-extended for `.i` formats, else zero-extended (R138). -/
def scalarOf (t : Fmt) (v : Nat) : Word := if t.signed then wordOfInt (signedOf t.bits v) else word v

/-- fcvt.T.f32 (R138). -/
def execFcvtFromF32 (t : Fmt) (d a : SReg) (s : State) : Res :=
  s.reading [a] fun s =>
    let x := convert t (s.scalarRounding s.me.a.csr.satBit) .f32 ((s.reg a).toNat % 2 ^ 32)
    .next ((s.setReg d (scalarOf t x.1)).raise x.2).retire
/-- fcvt.f32.T (R138). -/
def execFcvtToF32 (t : Fmt) (d a : SReg) (s : State) : Res :=
  s.reading [a] fun s =>
    s.floatResult d (convert .f32 (s.scalarRounding s.me.a.csr.satBit) t ((s.reg a).toNat % 2 ^ t.bits))

end Sys2Proof.Machine
end

