-- ==== Sys2Proof/Machine/Brood.lean ====
section
/-!
DEFINITION. The brood table: handles and references, which entries and cells are live (02 R42), cells (02 R51),
footprints (02 R56), graphs and cuts (02 R50), the guards (02 R57, R58), materialisation (02 R43), and the issue of nodes
and sinks with the checks of 02 R41.
-/

namespace Sys2Proof

/-- A mask node (02 R39). -/
def Instr.makesMask : Instr → Bool
  | .vcmp .. | .kmeet .. | .kjoin .. | .kdiff .. | .kless .. | .kflip .. | .kcopy .. | .kmsk .. | .kset .. => true
  | _ => false

end Sys2Proof

namespace Sys2Proof.Machine

/-! ## Fields of VTYPE and VMODE (01 R20, R22) -/

/-- VTYPE.FMT. -/
def Csrs.fmt (c : Csrs) : Fmt := (Fmt.ofCode (field c.vtype 0 5)).getD .f32

/-- VTYPE.EG, the code of the element group. -/
def Csrs.eg (c : Csrs) : Nat := field c.vtype 8 2

/-- VTYPE.MPOL. -/
def Csrs.mpol (c : Csrs) : Bool := bit c.vtype 11

/-- VTYPE.MSEL. -/
def Csrs.msel (c : Csrs) : KReg := BitVec.ofNat 4 (field c.vtype 12 4)

/-- VMODE.RM. -/
def Csrs.rm (c : Csrs) : Nat := field c.vmode 0 3

/-- VMODE.SAT. -/
def Csrs.satOn (c : Csrs) : Bool := bit c.vmode 3

/-- VMODE.CBX. -/
def Csrs.cbxOn (c : Csrs) : Bool := bit c.vmode 4

/-! ## Handles -/

/-- A vector handle (01 R16). -/
def Arch.vhandle (a : Arch) (v : VReg) : Handle := Sparse.get .empty a.vh v.toNat

/-- A mask handle (01 R16); k0 is not held. -/
def Arch.khandle (a : Arch) (k : KReg) : Handle := Sparse.get .empty a.kh k.toNat

/-- Makes a vector handle name something. -/
def Arch.setV (a : Arch) (v : VReg) (h : Handle) : Arch := { a with vh := Sparse.set .empty a.vh v.toNat h }

/-- Makes a mask handle name something; k0 keeps its meaning (01 R18). -/
def Arch.setK (a : Arch) (k : KReg) (h : Handle) : Arch := if k = 0 then a else { a with kh := Sparse.set .empty a.kh k.toNat h }

/-- No operand. -/
def Operand.none : Operand := { ref := .none, bank := Option.none }

/-- An operand that is no codebook reference. -/
def Operand.of (r : Ref) : Operand := { ref := r, bank := Option.none }

/-- The reference of a vector handle as a source (01 R17). -/
def Arch.vref (a : Arch) (v : VReg) : Ref :=
  match a.vhandle v with
  | .empty => .none
  | .node e => .node e
  | .cell c => .cell c
  | .stream _ => .stream v

/-- The reference of a mask register as a source (01 R17, R18). -/
def Arch.kref (a : Arch) (k : KReg) : Ref :=
  if k = 0 then .k0
  else match a.khandle k with
    | .node e => .node e
    | .cell c => .cell c
    | .empty | .stream _ => .none

/-- A handle in STREAM state. -/
def Arch.streaming (a : Arch) (v : VReg) : Bool :=
  match a.vhandle v with
  | .stream _ => true
  | _ => false

/-- The length of what a reference names; none where every length matches (02 R41, 01 R17, R18). -/
def Arch.refLen (a : Arch) : Ref → Option Nat
  | .node e => (broodEntry a.brood e).map fun x => x.len
  | .cell c => some c.len
  | .none | .scalar _ | .stream _ | .k0 => none

/-- The format of what a reference names, a mask's being none. -/
def Arch.refFmt (a : Arch) : Ref → Option Fmt
  | .node e => (broodEntry a.brood e).map fun x => x.fmt
  | .cell c => c.fmt
  | .none | .scalar _ | .stream _ | .k0 => none

/-! ## Operands of an entry, and what is live -/

/-- The operands of an entry. -/
def Entry.operands (e : Entry) : List Operand := [e.a, e.b, e.c, e.merge, e.mask]

/-- The operands that an entry reads: those of vforce and vldx hold in c the cell that the sink fills. -/
def Entry.sources (e : Entry) : List Operand :=
  match e.op with
  | .vforce .. | .vldx .. | .cvprbb .. => [e.a, e.b, e.merge, e.mask]
  | _ => e.operands

/-- The node that a reference names. -/
def Ref.node? : Ref → Option Nat
  | .node e => some e
  | _ => Option.none

/-- The cell that a reference names. -/
def Ref.cell? : Ref → Option CellRef
  | .cell c => some c
  | _ => Option.none

/-- The nodes that an entry names. -/
def Entry.nodes (e : Entry) : List Nat := e.operands.filterMap fun o => o.ref.node?

/-- The cells that an entry names. -/
def Entry.cells (e : Entry) : List CellRef := e.operands.filterMap fun o => o.ref.cell?

/-- Every entry that a list of entries reaches, with the list itself. -/
def closure (b : List (Nat × Entry)) : Nat → List Nat → List Nat → List Nat
  | 0, _, seen => seen
  | fuel + 1, todo, seen =>
    let next := (todo.flatMap fun n => match broodEntry b n with | some e => e.nodes | none => []).eraseDups.filter
      fun n => !seen.contains n
    if next.isEmpty then seen else closure b fuel next (seen ++ next)

/-- The entries reached from a list, itself included. -/
def reached (b : List (Nat × Entry)) (from_ : List Nat) : List Nat :=
  let f := from_.eraseDups
  closure b 257 f f

/-- The node that a handle names. -/
def Handle.node? : Handle → Option Nat
  | .node e => some e
  | _ => none

/-- The cell that a handle names. -/
def Handle.cell? : Handle → Option CellRef
  | .cell c => some c
  | _ => none

/-- What the handles name. -/
def Arch.handles (a : Arch) : List Handle := (a.vh ++ a.kh).map fun e => e.2

/-- The nodes that handles name. -/
def Arch.handleNodes (a : Arch) : List Nat := a.handles.filterMap Handle.node?

/-- A reference to a stage's cell put back to its node. -/
def Ref.unstage (t : Stage) : Ref → Ref
  | .cell c => if c.addr = t.cell.addr ∧ c.len ≠ 0 then .node t.node else .cell c
  | r => r

/-- A handle that names a stage's cell put back to its node. -/
def Handle.unstage (t : Stage) : Handle → Handle
  | .cell c => if c.addr = t.cell.addr ∧ c.len ≠ 0 then .node t.node else .cell c
  | h => h

/-- The operands of an entry put back to a stage's node. -/
def Entry.unstage (t : Stage) (e : Entry) : Entry :=
  let o (x : Operand) : Operand := { x with ref := x.ref.unstage t }
  { e with a := o e.a, b := o e.b, c := o e.c, merge := o e.merge, mask := o e.mask }

/-- A view in which the references to a stage's cell are references to its node again: a stage that has not completed has
replaced none (02 R50, R69). -/
def Arch.unstage (a : Arch) (t : Stage) : Arch :=
  if t.cell.len = 0 then a
  else
    { a with vh := a.vh.map fun e => (e.1, e.2.unstage t), kh := a.kh.map fun e => (e.1, e.2.unstage t),
             brood := a.brood.map fun e => (e.1, e.2.unstage t) }

/-- The stages that a context still has to run. -/
def Ctx.stages (c : Ctx) : List Stage :=
  (c.pend.flatMap fun p => p.stages) ++ (match c.run with | some r => r.stages.drop r.stage | none => []) ++
    (match c.stopped with | some r => r.stages.drop r.stage | none => [])

/-- The entries of a view that are live: reached from a handle, from a sink, or from a stage (02 R42). -/
def Arch.live (st : List Stage) (a : Arch) : List Nat :=
  reached a.brood (a.handleNodes ++ (a.brood.filter fun e => e.2.kind == .sink).map (fun e => e.1) ++
    (st.map fun t => t.node).filter fun n => (broodEntry a.brood n).isSome)

/-- A view without the entries and cells that are not live (02 R42). -/
def Arch.collect (st : List Stage) (a : Arch) : Arch :=
  let keep := a.live st
  let brood := a.brood.filter fun e => keep.contains e.1
  let used := (a.handles.filterMap Handle.cell?) ++ (brood.flatMap fun e => e.2.cells) ++ st.map fun t => t.cell
  let named (c : Nat × Nat) : Bool := used.any fun u => decide (u.len ≠ 0) && u.addr.toNat == c.1
  let cells := a.cells.filter named
  let freed := ((a.cells.filter fun c => !named c).map fun c => c.2).sum
  { a with brood := brood, cells := cells, csr := { a.csr with celluse := a.csr.celluse - word freed } }

/-- The moving context's own view, collected. -/
def State.collect (s : State) : State := s.setArch (Arch.collect s.me.stages)

/-- Every view of a context, collected. -/
def Ctx.collect (c : Ctx) : Ctx := c.mapArch (Arch.collect c.stages)

/-! ## Cells (02 R51) -/

/-- The bytes of a cell. -/
def cellBytes (len : Nat) (f : Option Fmt) (eg : Nat) : Nat :=
  let bits := match f with
    | none => len
    | some f => len * (f.heldBits * 2 ^ eg)
  (bits + 511) / 512 * 64

/-- A range of the cell area is free. -/
def Arch.cellFree (a : Arch) (at_ n : Nat) : Bool :=
  decide (a.csr.cellbase.toNat ≤ at_) && decide (at_ + n ≤ a.csr.cellbase.toNat + a.csr.celllim.toNat) &&
    a.cells.all fun c => !spansOverlap c.1 c.2 at_ n

/-- The lowest free range of the cell area that fits. -/
def Arch.cellPlace (a : Arch) (n : Nat) : Option Nat :=
  ((a.csr.cellbase.toNat :: a.cells.map fun c => c.1 + c.2).filter fun x => a.cellFree x n).min?

/-- Places a cell of a size, counted in CELLUSE and CELLCNT (01 R30, 02 R51). -/
def Arch.takeCell (a : Arch) (n : Nat) : Option (Nat × Arch) :=
  if a.csr.celllim.toNat < a.csr.celluse.toNat + n then none
  else match a.cellPlace n with
    | none => none
    | some p => some (p, { a with cells := Sparse.set 0 a.cells p n,
                                  csr := { a.csr with celluse := a.csr.celluse + word n, cellcnt := a.csr.cellcnt + 1 } })

/-- Whether a load node's format is not yet decided (03 R434). -/
def Entry.undecided (e : Entry) : Bool :=
  match e.source with
  | some s => s.decided.isNone
  | none => false

/-- The format of an entry as a reference to it carries it: none for a mask (06 R171). -/
def Entry.valueFmt (e : Entry) : Option Fmt := if e.op.makesMask then none else some e.fmt

/-- The bytes that a cell of a node needs; of one whose format is not yet decided, the most it can need. -/
def Entry.cellSize (e : Entry) : Nat :=
  let n := cellBytes e.len e.valueFmt e.eg
  if e.undecided then max n (cellBytes e.len (some .i64) 0) else n

/-- Places a cell for a node. -/
def Arch.cellFor (a : Arch) (e : Entry) : Option (CellRef × Arch) :=
  if e.len = 0 then some ({ addr := 0, len := 0, fmt := e.valueFmt, eg := e.eg }, a)
  else match a.takeCell e.cellSize with
    | none => none
    | some (p, a) => some ({ addr := word p, len := e.len, fmt := e.valueFmt, eg := e.eg }, a)

/-! ## Replacing a node by its cell -/

/-- A reference with a node replaced. -/
def Ref.replace (n : Nat) (c : CellRef) : Ref → Ref
  | .node e => if e = n then .cell c else .node e
  | r => r

/-- An operand with a node replaced. -/
def Operand.replace (n : Nat) (c : CellRef) (o : Operand) : Operand := { o with ref := o.ref.replace n c }

/-- An entry with a node replaced in its operands. -/
def Entry.replace (n : Nat) (c : CellRef) (e : Entry) : Entry :=
  { e with a := e.a.replace n c, b := e.b.replace n c, c := e.c.replace n c, merge := e.merge.replace n c,
           mask := e.mask.replace n c }

/-- A handle with a node replaced. -/
def Handle.replace (n : Nat) (c : CellRef) : Handle → Handle
  | .node e => if e = n then .cell c else .node e
  | h => h

/-- Every reference to a node replaced by a cell (02 R43, R50, 06 R160). -/
def Arch.replace (n : Nat) (c : CellRef) (a : Arch) : Arch :=
  { a with vh := a.vh.map fun e => (e.1, e.2.replace n c), kh := a.kh.map fun e => (e.1, e.2.replace n c),
           brood := a.brood.map fun e => (e.1, e.2.replace n c) }

/-- Changes an entry wherever it stands in a view. -/
def Arch.setEntry (n : Nat) (f : Entry → Entry) (a : Arch) : Arch :=
  { a with brood := a.brood.map fun e => if e.1 = n then (e.1, f e.2) else e }

/-! ## Footprints (02 R56) -/

/-- The shortest run of addresses on the circle that holds byte runs of one size at rising positions of a list. -/
def circleRun (size : Nat) (ps : List Nat) : Range :=
  match ps with
  | [] => { base := 0, len := 0 }
  | p :: r =>
    let last := (p :: r).getLast?.getD p
    let gaps := (List.zip (p :: r) (r ++ [p + 2 ^ 64])).map fun x => (x.2 - x.1, x.2)
    let best := gaps.foldl (fun b g => if b.1 < g.1 then g else if b.1 = g.1 ∧ g.2 % 2 ^ 64 < b.2 % 2 ^ 64 then g else b)
      (p + 2 ^ 64 - last, p + 2 ^ 64)
    { base := best.2 % 2 ^ 64, len := 2 ^ 64 - best.1 + size }

/-- Inserts a number in a rising list, once. -/
def insertSorted (x : Nat) : List Nat → List Nat
  | [] => [x]
  | y :: r => if x < y then x :: y :: r else if x = y then y :: r else y :: insertSorted x r

/-- The run of len elements of a byte size at a stride in elements. -/
def stridedRun (base : Nat) (stride : Int) (size len : Nat) : Range :=
  if len = 0 then { base := base % 2 ^ 64, len := 0 }
  else
    let total := (len - 1) * stride.natAbs * size + size
    if total ≤ 2 ^ 63 then
      { base := if stride < 0 then (base + 2 ^ 64 - (len - 1) * stride.natAbs * size % 2 ^ 64) % 2 ^ 64 else base % 2 ^ 64,
        len := total }
    else
      let ps := (List.range len).foldl (fun l (i : Nat) =>
        insertSorted ((((base : Int) + (i : Int) * stride * size) % (2 ^ 64 : Nat)).toNat) l) []
      circleRun size ps

/-- The run of nibbles of a 4-bit format, in bytes (07 R181). -/
def nibbleRun (base : Nat) (stride : Int) (len : Nat) : Range :=
  if len = 0 then { base := base, len := 0 }
  else
    let n := (len - 1) * stride.natAbs
    if n < 2 ^ 63 then
      if stride < 0 then
        let lo := 2 * base + 2 ^ 65 - n
        { base := lo / 2 % 2 ^ 64, len := base + 2 ^ 64 - lo / 2 + 1 }
      else { base := base % 2 ^ 64, len := (2 * base + n) / 2 - base + 1 }
    else circleRun 1 ((List.range len).foldl (fun l (i : Nat) => insertSorted (((((2 * base : Nat) : Int) + (i : Int) * stride) / 2 % (2 ^ 64 : Nat)).toNat) l) [])

/-- The bytes of a block (03 R86). -/
def blockBytes (f : Fmt) (geo : Nat) : Nat := if f = .nx4 then 4 * 2 ^ geo else 32

/-- shift_g of a geometry code (03 R86). -/
def sideShift (geo : Nat) : Nat := geo + 1

/-- SIDEBASE of a geometry code, 1 to 3 (19 R353). -/
def Tenant.side (t : Tenant) : Nat → Word
  | 1 => t.side16
  | 2 => t.side32
  | _ => t.side64

/-- The address of a block's side word (03 R86). -/
def sideAddr (t : Tenant) (geo block : Nat) : Nat := ((t.side geo).toNat + block / 2 ^ sideShift geo) % 2 ^ 64

/-- A run of addresses on the circle as runs that do not pass its end. -/
def Range.parts (r : Range) : List Range :=
  let b := r.base % 2 ^ 64
  if r.len = 0 then []
  else if b + r.len ≤ 2 ^ 64 then [{ base := b, len := r.len }]
  else [{ base := b, len := 2 ^ 64 - b }, { base := 0, len := min (b + r.len - 2 ^ 64) (2 ^ 64) }]

/-- The side words of the blocks that a run of bytes touches, for block sizes between two bounds. -/
def sideRuns (t : Tenant) (geo lowBlock highBlock : Nat) (r : Range) : List Range :=
  r.parts.map fun p =>
    let first := p.base / lowBlock * lowBlock
    let last := (p.base + p.len - 1) / highBlock * highBlock
    { base := ((t.side geo).toNat + first / 2 ^ sideShift geo) % 2 ^ 64,
      len := last / 2 ^ sideShift geo - first / 2 ^ sideShift geo + 2 }

/-- The side words that a run of bytes may have in any geometry. -/
def anySideRuns (t : Tenant) (r : Range) : List Range := sideRuns t 1 8 8 r ++ sideRuns t 2 32 16 r ++ sideRuns t 3 32 32 r

/-- A page's format is one that R83 admits (03 R83, R87). GEO 4 is the model's own, of a restored format whose page is not
known (assumption log 94). -/
def PageAttr.fmt? (p : PageAttr) : Option Fmt :=
  match Fmt.ofCode p.fmt with
  | none => none
  | some f =>
    if p.geo = 4 || (f = .nx4 && p.geo ≠ 0) || (f = .mx8 && p.geo = 2) || (f ≠ .nx4 && f ≠ .mx8 && p.geo = 0) then some f
    else none

/-- A decided format that a snapshot gives, of which no page gives the geometry yet: the layout holds the code alone (19
R378; DESIGN CHOICE, assumption log 94). -/
def PageAttr.restored (f : Fmt) : PageAttr := { fe := true, fmt := f.code, geo := 4 }

/-- A page on which a restored format may stand. -/
def PageAttr.gives (p : PageAttr) (f : Fmt) : Bool := if p.fe then p.fmt? == some f else f != .nx4 && f != .mx8

/-- A format decided as for a raw page, from no page (03 R434): no page has this FMT. -/
def PageAttr.raw : PageAttr := { fe := false, fmt := 32, geo := 0 }

/-- The whole blocks that a run of bytes touches (03 R82). -/
def Range.blocks (bytes : Nat) (r : Range) : Range :=
  if r.len = 0 then r
  else
    let lo := r.base / bytes * bytes
    { base := lo, len := (r.base + r.len + bytes - 1) / bytes * bytes - lo }

/-- A page of a block format that R83 admits. -/
def PageAttr.block (p : PageAttr) : Bool := p.fe && (p.fmt? == some .nx4 || p.fmt? == some .mx8)

/-- The footprint of a vector access of a decided format: elements, and side words of a block format. -/
def vectorRanges (t : Tenant) (base : Nat) (stride : Int) (len : Nat) (captured : Fmt) (eg : Nat) (p : Option PageAttr) :
    List Range :=
  match p with
  | none =>
    let r := stridedRun base stride (max 8 (captured.bits * 2 ^ eg / 8)) len
    r :: anySideRuns t r
  | some p =>
    if p.fe then
      match p.fmt? with
      | none => [stridedRun base stride (max 1 (((Fmt.ofCode p.fmt).getD .n8).bits / 8)) len]
      | some f =>
        let r := if f.bits = 4 then nibbleRun base stride len else stridedRun base stride (f.bits / 8) len
        if f = .nx4 ∨ f = .mx8 then
          r :: (if p.geo = 4 then anySideRuns t r else sideRuns t p.geo (blockBytes f p.geo) (blockBytes f p.geo) r)
        else [r]
    else [if captured.bits = 4 then nibbleRun base stride len else stridedRun base stride (captured.bits * 2 ^ eg / 8) len]

/-- The footprint of a store: into a block page it writes every block that it touches, whole (03 R82); one whose format is not yet
decided may do so. -/
def storeRanges (t : Tenant) (base : Nat) (stride : Int) (len : Nat) (captured : Fmt) (eg : Nat) (p : Option PageAttr) : List Range :=
  match vectorRanges t base stride len captured eg p with
  | [] => []
  | r :: side =>
    match p with
    | none => r.blocks 32 :: side
    | some d => (if d.block then r.blocks (blockBytes ((d.fmt?).getD .nx4) d.geo) else r) :: side

/-- The stride in elements of a load source (07 R180). -/
def Source.step (s : Source) : Int :=
  match s.form with
  | .vld | .vldc => 1
  | .vldb => 0
  | .vlds => s.stride.toInt

/-- The object's bytes that the chunk of an element touches (15 R333). -/
def objectRun (o : Word) : Range := { base := o.toNat, len := 64 }

/-- The load-source footprint of a load node; of a vldc also its object's line. -/
def Entry.loadRanges (t : Tenant) (e : Entry) : List Range :=
  match e.source with
  | none => []
  | some s =>
    vectorRanges t s.base.toNat s.step e.len e.fmt e.eg s.decided ++ (if s.form = .vldc then [objectRun s.stride] else [])

/-! ## Graphs and cuts (02 R50) -/

/-- A node that computes. -/
def Entry.computes (e : Entry) : Bool := e.kind == .node

/-- The memory sources of a set of entries: load nodes, and distinct cells. -/
def sourceCount (b : List (Nat × Entry)) (ns : List Nat) (extra : List CellRef) : Nat :=
  let es := ns.filterMap (broodEntry b)
  (es.filter fun e => e.kind == .load).length +
    ((es.flatMap Entry.cells ++ extra).filter fun c => decide (c.len ≠ 0)).eraseDups.length

/-- The nodes of a set of entries other than load nodes. -/
def nodeCount (b : List (Nat × Entry)) (ns : List Nat) : Nat := ((ns.filterMap (broodEntry b)).filter Entry.computes).length

/-- The graph under a list of operands. -/
def graphOf (b : List (Nat × Entry)) (os : List Operand) : List Nat := reached b (os.filterMap fun o => o.ref.node?)

/-- Age of an entry: greater is older. -/
def Arch.ageOf (a : Arch) (e : Entry) : Nat := (a.seq - e.seq).toNat

/-- The node to cut (02 R50): the largest graph within the limits, the lowest sequence number among equals. -/
def Arch.cutNode (a : Arch) (g : List Nat) : Option Nat :=
  let ok := g.filter fun n =>
    match broodEntry a.brood n with
    | some e =>
      e.computes && decide (nodeCount a.brood (reached a.brood [n]) ≤ 64) && decide (sourceCount a.brood (reached a.brood [n]) [] ≤ 8)
    | none => false
  let size (n : Nat) : Nat := nodeCount a.brood (reached a.brood [n])
  let age (n : Nat) : Nat := match broodEntry a.brood n with | some e => a.ageOf e | none => 0
  match ok with
  | [] => none
  | n :: r => some (r.foldl (fun b x => if size b < size x ∨ (size b = size x ∧ age b < age x) then x else b) n)

/-- Makes a stage of a node: its cell, and the references replaced. -/
def Arch.stage (a : Arch) (n : Nat) : Option (Stage × Arch) :=
  match broodEntry a.brood n with
  | none => none
  | some e =>
    match a.cellFor e with
    | none => none
    | some (c, a) => some ({ node := n, cell := c }, a.replace n c)

/-- The cuts of a graph (02 R50). -/
def Arch.cuts : Nat → Arch → List Operand → Option (List Stage × Arch)
  | 0, a, _ => some ([], a)
  | fuel + 1, a, os =>
    let g := graphOf a.brood os
    let extra := os.filterMap fun o => o.ref.cell?
    if nodeCount a.brood g ≤ 64 ∧ sourceCount a.brood g extra ≤ 8 then some ([], a)
    else match a.cutNode g with
      | none => some ([], a)
      | some n =>
        match a.stage n with
        | none => none
        | some (st, a') =>
          let os' := os.map fun o => o.replace n st.cell
          match a'.cuts fuel os' with
          | none => none
          | some (sts, a'') => some (st :: sts, a'')

/-- The stages that materialise a list of nodes, each after the cuts of its own graph, itself in the count (02 R50). -/
def Arch.stagesFor : Arch → List Nat → Option (List Stage × Arch)
  | a, [] => some ([], a)
  | a, n :: r =>
    match broodEntry a.brood n with
    | none => a.stagesFor r
    | some _ =>
      match a.cuts 256 [Operand.of (.node n)] with
      | none => none
      | some (cs, a1) =>
        match a1.stage n with
        | none => none
        | some (st, a2) =>
          match a2.stagesFor r with
          | none => none
          | some (sts, a3) => some (cs ++ st :: sts, a3)

/-! ## The guards -/

/-- A handle that a dead standing immediately after the instruction marks dead (02 R58). -/
inductive DeadNext where
  | none
  | vectors (lo hi : Nat)
  | masks (lo hi : Nat)
  deriving DecidableEq, Repr

/-- The bytes that a launch's contexts have written at an address, as they stood before (05 R152). -/
def oldByte (old : List Host.Cell) (pa : Nat) : Option Byte :=
  match old.find? fun e => e.1 == pa with
  | some e => some e.2
  | none => none

/-- The word that a fetch reads: at its home; one that has been written since the fetching launch was placed is the earlier contents or
the new, and nothing says which (05 R152; assumption log 27, 125); in the pod window nothing says what (DESIGN CHOICE, assumption log 9). -/
def State.fetchedWord (s : State) (va pa : Nat) : Nat :=
  let new := s.readHome s.me pa 4
  let old := match (s.die s.me.die).launch? s.me.launch with | some l => l.old | none => []
  if region pa = .pod then leNat ((s.podRead s.me va pa 4).getD [])
  else if ((List.range 4).any fun j => (oldByte old (pa + j)).isSome) && Config.freeBit s.freeCtr then
    leNat ((List.range 4).map fun j => (oldByte old (pa + j)).getD ((new[j]?).getD 0))
  else leNat new

/-- A fetch from another package that is answered with an error, or not in time (22 R421). -/
def State.fetchFails (s : State) (va pa : Nat) : Bool := region pa == .pod && (s.podRead s.me va pa 4).isNone

/-- The word at an address, as a fetch would read it now; none where it cannot be fetched. -/
def State.peek (s : State) (va : Word) : Option Nat :=
  match s.translate s.me va.toNat .fetch with
  | .ok x => some (s.fetchedWord va.toNat x.pa)
  | .error _ => none

/-- What a dead immediately after the instruction that issues marks dead (02 R58). -/
def State.deadNext (s : State) : DeadNext :=
  if (match s.me.a.rep with | some r => decide (s.me.a.csr.repDone + 1 < r.count) | none => false) then .none
  else match s.peek (s.me.a.ipc + 4) with
    | none => .none
    | some w => match decode w with
      | .ok (.deadVector d a) => .vectors d.toNat a.toNat
      | .ok (.deadMask d a) => .masks d.toNat a.toNat
      | _ => .none

/-- The nodes that handles name, but for those that a following dead marks. -/
def Arch.guardRoots (a : Arch) (d : DeadNext) : List Nat :=
  let v : List (Nat × Handle) := match d with
    | .vectors lo hi => a.vh.filter fun e => !(decide (lo ≤ e.1) && decide (e.1 ≤ hi))
    | _ => a.vh
  let k : List (Nat × Handle) := match d with
    | .masks lo hi => a.kh.filter fun e => !(decide (lo ≤ e.1) && decide (e.1 ≤ hi))
    | _ => a.kh
  (v ++ k).filterMap fun e => e.2.node?

/-- Entries of a list in rising sequence order: the oldest first. -/
def Arch.oldestFirst (a : Arch) (ns : List Nat) : List Nat :=
  let age (n : Nat) : Nat := match broodEntry a.brood n with | some e => a.ageOf e | none => 0
  ns.foldl (fun l n => (l.filter fun x => decide (age n ≤ age x)) ++ [n] ++ l.filter fun x => decide (age x < age n)) []

/-- The load nodes that handles reach (02 R58, R61). -/
def Arch.reachedLoads (a : Arch) (d : DeadNext) : List Nat :=
  a.oldestFirst ((reached a.brood (a.guardRoots d)).filter fun n =>
    match broodEntry a.brood n with | some e => e.kind == .load | none => false)

/-- The nodes that pending vforces name, with the cells that these fill (06 R160). -/
def Arch.forcedCells (a : Arch) : List (Nat × CellRef) :=
  a.brood.filterMap fun x => match x.2.op, x.2.a.ref, x.2.c.ref with
    | .vforce _, .node n, .cell c => some (n, c)
    | _, _, _ => none

/-- Handles and nodes read a cell in place of a node; pending sinks go on reading the node. -/
def Arch.adopt (a : Arch) (n : Nat) (c : CellRef) : Arch :=
  { a with vh := a.vh.map fun e => (e.1, e.2.replace n c), kh := a.kh.map fun e => (e.1, e.2.replace n c),
           brood := a.brood.map fun e => if e.2.kind = .sink then e else (e.1, e.2.replace n c) }

/-- The view in program order: a node that a pending vforce names is its cell already, which that sink fills before any later pass
runs (02 R47, 06 R160). -/
def Arch.inOrder (a : Arch) : Arch := a.forcedCells.foldl (fun b x => b.adopt x.1 x.2) a

/-- An entry as it reads the view in program order. -/
def Entry.inOrder (a : Arch) (e : Entry) : Entry := a.forcedCells.foldl (fun e x => e.replace x.1 x.2) e

/-- The load nodes that the source guard materialises before a write, in a view (02 R58). -/
def State.guardedIn (s : State) (a : Arch) (w : List Range) : List Nat :=
  let t := (s.die s.me.die).tenant a.csr.tenant
  if a.brood.isEmpty then []
  else (a.reachedLoads s.deadNext).filter fun n =>
    match broodEntry a.brood n with | some e => rangesOverlap (e.loadRanges t) w | none => false

/-- The load nodes that the source guard materialises before a write (02 R58). -/
def State.guarded (s : State) (w : List Range) : List Nat := s.guardedIn s.me.a.inOrder w

/-! ## Implicit materialisation -/

/-- The items that a context still has to run, oldest first. -/
def Ctx.items (c : Ctx) : List Pend := (match c.run with | some r => r.items | none => []) ++ c.pend

/-- A pending vforce names a node, which is a cell in program order (06 R160). -/
def Arch.forcing (a : Arch) (n : Nat) : Bool :=
  a.brood.any fun e => match e.2.op with | .vforce _ => e.2.a.ref == .node n | _ => false

/-- The element at which a stopped stage resumes: FAULTEL's; the first of STRIP.NUM where the supervisor has written NUM and
left FAULTEL as the stop gave it, or where FAULTEL, all ones, names no element (02 R69; DEDUCED, assumption log 12). -/
def Csrs.resumeAt (c : Csrs) (num : Nat) (faultel elbase : Word) (len : Nat) : Nat :=
  let n := field c.strip 0 25
  min (if c.faultel = -1 ∨ (n ≠ num ∧ c.faultel = faultel) then 128 * n else (c.faultel - elbase).toNat) len

/-- CELLUSE counted anew from the cells in hand. -/
def Arch.countCells (a : Arch) : Arch := { a with csr := { a.csr with celluse := word ((a.cells.map fun c => c.2).sum) } }

/-- CELLUSE and CELLCNT as another view holds them. -/
def Arch.keepCount (b a : Arch) : Arch := { a with csr := { a.csr with celluse := b.csr.celluse, cellcnt := b.csr.cellcnt } }

/-- The stopped materialisation of a snapshot that the instruction at PC is to take up again. -/
def Ctx.resumeHere (c : Ctx) : Option Resume := c.resume.filter fun x => x.due == some c.a.pc

/-- What an instruction asks of the view in which the stages before its own stand: that its own cells have room (02 R41). -/
abbrev Room : Type := List Stage → Arch → Bool

/-- An instruction that places no cell of its own. -/
def noCells : Room := fun _ _ => true

/-- An instruction needs the materialisation of a list of nodes: with no room for one of them, or for its own cells after
them, it traps CELL_FULL; otherwise it queues the pass of the first, waits for it, and issues again (02 R41, R43, R58, R61, 11
R256). A materialisation that a snapshot held as stopped runs on from where it stopped (02 R69, R70). -/
def State.materialise (s : State) (room : Room) (ns : List Nat) : Res :=
  let held := s.me.resumeHere
  let now := (if held.isSome then s.me.a.countCells else s.me.a).inOrder
  match now.stagesFor ns, now.stagesFor (ns.take 1) with
  | some (all, b), some (sts, a) =>
    if !room all b then s.trap .cellFull
    else
      let a' := { a with pc := s.me.a.pc }
      let t := (s.die s.me.die).tenant a.csr.tenant
      let p : Pend :=
        { implicit := true, entry := 0, no := s.me.issueNo, pc := s.me.a.pc, repc := none, stages := sts, store := [],
          loads := (ns.take 1).flatMap fun n => match broodEntry a.brood n with | some e => e.loadRanges t | none => [],
          epoch := s.me.epoch, joins := false, resync := true, age := s.myCore.ages, before := s.me.a, after := a' }
      let s := s.setMyCore fun k => { k with ages := k.ages + 1 }
      match held with
      | none => .next { s with me := { s.me with a := a', pend := s.me.pend ++ [p] } }.wait
      | some x =>
        let a' := s.me.a.keepCount a'
        let base := ((ns.head?.bind fun n => broodEntry a.brood n).map fun e => e.elbase).getD 0
        let c : Csrs := { s.me.a.csr with strip := x.strip, faultel := x.el }
        let cur := c.resumeAt x.num x.faultel base ((sts.head?.map fun (t : Stage) => t.cell.len).getD 0)
        let r : Run :=
          { items := [{ p with after := a' }], stage := 0, cur := cur, strips := [], carries := x.carries, parts := [],
            waits := 0, waitsOn := 0, mustCommit := some cur, done_ := x.stage, num := x.num, traced := [] }
        .next { s with me := { s.me with a := a', run := some r, resume := none } }.wait
  | _, _ => s.trap .cellFull

/-- The source guard of an instruction that writes memory at issue (02 R58). -/
def State.guardWrite (s : State) (w : List Range) (k : State → Res) : Res :=
  match s.guarded w with
  | [] => k s
  | ns => s.materialise noCells ns

/-- The nodes that the codebook guard of a bank write materialises (11 R256). -/
def State.bankGuarded (s : State) (b : BankReg) : List Nat :=
  let a := s.me.a.inOrder
  let uses (e : Entry) : Bool := e.kind != .sink && e.operands.any fun o => o.bank == some b
  if a.brood.any fun e => uses e.2 then
    a.oldestFirst ((reached a.brood (a.guardRoots s.deadNext)).filter fun n =>
      match broodEntry a.brood n with | some e => uses e | none => false)
  else []

/-- The codebook guard of a bank write (11 R256). -/
def State.guardBank (s : State) (b : BankReg) (k : State → Res) : Res :=
  match s.bankGuarded b with
  | [] => k s
  | ns => s.materialise noCells ns

/-- A release waits until the load nodes that handles reach are materialised and every earlier sink has completed
(02 R61). -/
def State.forRelease (s : State) (k : State → Res) : Res :=
  match s.me.a.inOrder.reachedLoads .none with
  | [] => s.afterSinks k
  | ns => s.materialise noCells ns

/-! ## A free entry (02 R43) -/

/-- The lowest free entry number (DESIGN CHOICE, assumption log 8). -/
def Arch.freeEntry (a : Arch) : Option Nat := (List.range 256).find? fun n => (broodEntry a.brood n).isNone

/-- The instruction has an entry; otherwise it waits while entries are freed (02 R43). -/
def State.withEntry (s : State) (room : Room) (k : Nat → State → Res) : Res :=
  match s.me.a.freeEntry with
  | some n => k n s
  | none =>
    if s.me.busy then .next s.wait
    else
      match s.me.a.oldestFirst ((s.me.a.brood.filter fun e => e.2.kind != .sink).map fun e => e.1) with
      | [] => .next s.wait
      | n :: _ => s.materialise room [n]

/-! ## The checks of 02 R41 -/

/-- What an instruction asks of the checks. -/
structure VectorChecks where
  /-- an encoding fault, or another ground of ILLEGAL that does not read VTYPE -/
  illegal : Bool
  /-- grounds of ILLEGAL that read VTYPE, made only while ILL is clear -/
  illegalTyped : Bool
  /-- it depends on VTYPE -/
  typed : Bool
  vs : List VReg
  ks : List KReg
  ss : List SReg
  /-- the length that its sources must have -/
  len : Nat
  /-- a bank that it must own -/
  bank : Option BankReg
  /-- the cause of a unit that it does not own (12 R281, 13 R299) -/
  unit : Option Cause := none
  /-- a stream whose row length is wrong (12 R276, 13 R306) -/
  clash : Bool := false
  deriving DecidableEq, Repr

/-- The bank is owned by the context (11 R249). -/
def State.ownsBank (s : State) (b : BankReg) : Bool := ownedBy s.myCore.cbown b.toNat s.me.pos

/-- A source handle that is EMPTY or dead (01 R17). -/
def Arch.emptySource (a : Arch) (vs : List VReg) (ks : List KReg) : Bool :=
  (vs.any fun v => a.vhandle v == .empty) || (ks.any fun k => decide (k ≠ 0) && a.khandle k == .empty)

/-- A source whose length differs (02 R41 step 4). -/
def Arch.lengthClash (a : Arch) (len : Nat) (vs : List VReg) (ks : List KReg) : Bool :=
  let bad (r : Ref) : Bool := match a.refLen r with | some n => n != len | none => false
  (vs.any fun v => bad (a.vref v)) || (ks.any fun k => bad (a.kref k))

/-- The checks of 02 R41 in their order; step 6 belongs to what follows. A vector instruction while a stopped pass stands
is ILLEGAL (02 R72), and so is one on a nurse core, which has no vector unit (19 R352). -/
def State.checked (s : State) (c : VectorChecks) (k : State → Res) : Res :=
  let a := s.me.a
  if s.me.nurse || (a.csr.sup && a.csr.stripPend) || c.illegal || (c.vs.any fun v => a.streaming v) || (!a.csr.ill && c.illegalTyped) then
    s.trap .illegal
  else if c.typed && a.csr.ill then s.trap .vtypeIll
  else if c.unit.isSome then s.trap (c.unit.getD .illegal)
  else if (c.ss.any fun n => a.deadRead n) || (a.csr.deadTrap && a.emptySource c.vs c.ks) then s.trap .deadRead
  else if c.clash || a.lengthClash c.len c.vs c.ks then s.trap .lenMismatch
  else match c.bank with
    | some b => if s.ownsBank b then k s else s.trap .cbOwner
    | none => k s

/-! ## Nodes -/

/-- The captured state of an instruction that issues (02 R39, 01 R23). -/
def Arch.entry (a : Arch) (op : Instr) (kind : EntryKind) : Entry :=
  { op := op, kind := kind, seq := a.seq, pc := a.ipc, len := a.csr.vl.toNat, fmt := a.csr.fmt, eg := a.csr.eg, rm := a.csr.rm,
    sat := a.csr.satOn, cbx := a.csr.cbxOn, mpol := a.csr.mpol, elbase := a.csr.elbase, srseed := a.csr.srseed,
    srsalt := a.csr.srsalt.setWidth 32, rngkey := a.csr.rngkey, a := Operand.none, b := Operand.none, c := Operand.none,
    merge := Operand.none, mask := Operand.of .k0, source := none, dst := 0, dst2 := 0, val := 0, str := 0 }

/-- A brood table with an entry more, by rising number. -/
def insertEntry (n : Nat) (e : Entry) : List (Nat × Entry) → List (Nat × Entry)
  | [] => [(n, e)]
  | (k, x) :: r => if n < k then (n, e) :: (k, x) :: r else if n = k then (n, e) :: r else (k, x) :: insertEntry n e r

/-- Enters a node, which takes a sequence number (02 R40). -/
def Arch.addNode (a : Arch) (n : Nat) (e : Entry) : Arch :=
  { a with brood := insertEntry n e a.brood, seq := a.seq + 1 }

/-- The node is created and its handle names it; the instruction completes. -/
def State.makeNode (s : State) (e : Entry) (name : Nat → Arch → Arch) : Res :=
  s.withEntry noCells fun n s => .next (s.setArch fun a => name n (a.addNode n e)).collect.retire

/-- The mask operand of an instruction with an m bit (06 R166). -/
def Arch.maskOperand (a : Arch) (m : Bool) : Operand := Operand.of (if m then a.kref a.csr.msel else .k0)

/-- The masks that an instruction with an m bit reads. -/
def Arch.maskSources (a : Arch) (m : Bool) : List KReg := if m && !a.csr.ill then [a.csr.msel] else []

/-- The merge operand is read when m = 1 and MPOL = 0 (06 R166). -/
def Arch.merges (a : Arch) (m : Bool) : Bool := m && !a.csr.mpol

/-- The merge operand of a vector destination. -/
def Arch.mergeOperand (a : Arch) (m : Bool) (d : VReg) : Operand := if a.merges m then Operand.of (a.vref d) else Operand.none

/-! ## Sinks -/

/-- The last element of a sink's range would exceed the last index (02 R46). -/
def rangeWraps (elbase : Word) (len : Nat) : Bool := decide (1 ≤ len) && decide (2 ^ 64 - 2 < elbase.toNat + len - 1)

/-- How a sink issues. -/
structure SinkForm where
  joins : Bool
  resync : Bool
  /-- its store footprint -/
  store : List Range
  /-- nodes to materialise first: of the guards -/
  guards : List Nat
  /-- whether the load of an entry stands in the aligned case with the sink's store (02 R57) -/
  aligned : Entry → Bool
  /-- a cell that the sink fills: the entry whose values it holds (06 R160, 07 R187) -/
  fills : Option Entry

/-- The loads of a graph that overlap a store outside the aligned case, or reach it through movement (02 R57, 07 R193). -/
def Arch.misaligned (a : Arch) (t : Tenant) (e : Entry) (f : SinkForm) : List Nat :=
  let g := graphOf a.brood e.operands
  let moved := reached a.brood (g.flatMap fun n => match broodEntry a.brood n with
    | some x => (match x.op with
      | .vslup .. | .vsldn .. | .vperm .. | .vcmpr .. | .vexpd .. => x.nodes
      | _ => [])
    | none => [])
  a.oldestFirst (g.filter fun n => match broodEntry a.brood n with
    | some x => x.kind == .load && rangesOverlap (x.loadRanges t) f.store && (!f.aligned x || moved.contains n)
    | none => false)

/-- The stages of a sink, with the sink and the view that read their cells: of the guards first, then of the misaligned
loads, then the cuts (02 R50, R57, R58; the order among the three is the model's: DESIGN CHOICE, assumption log 95). -/
def Arch.planSink (a : Arch) (t : Tenant) (e : Entry) (f : SinkForm) : Option (List Stage × Entry × Arch) :=
  match a.stagesFor f.guards with
  | none => none
  | some (s1, a1) =>
    let e1 := s1.foldl (fun e st => e.replace st.node st.cell) e
    match a1.stagesFor (a1.misaligned t e1 f) with
    | none => none
    | some (s2, a2) =>
      let e2 := s2.foldl (fun e st => e.replace st.node st.cell) e1
      match a2.cuts 256 e2.sources with
      | none => none
      | some (s3, a3) => some (s1 ++ s2 ++ s3, s3.foldl (fun e st => e.replace st.node st.cell) e2, a3)

/-- The stages of a sink that issues, and the cell that it fills: none where the cell area has no room (02 R41). -/
def Arch.planIssue (a : Arch) (t : Tenant) (e : Entry) (f : SinkForm) : Option (List Stage × Entry × Arch) :=
  match a.planSink t e f with
  | none => none
  | some (sts, e1, a1) =>
    match f.fills with
    | none => some (sts, e1, a1)
    | some x => match a1.cellFor x with
      | none => none
      | some (c, a2) => some (sts, { e1 with c := Operand.of (.cell c) }, a2)

/-- The plan of a sink that issues: as it stands where it needs no stage; else in the view in program order (06 R160), with whether it
needs none as it stands. -/
def Arch.planInOrder (a : Arch) (t : Tenant) (e : Entry) (f : SinkForm) : Option (Bool × List Stage × Entry × Arch) :=
  match a.planIssue t e f with
  | some ([], x) => some (true, [], x)
  | r => (if a.forcedCells.isEmpty then r else a.inOrder.planIssue t (e.inOrder a) f).map fun x => (false, x)

/-- A sink has room for its own cells once earlier stages have run. -/
def Entry.room (e : Entry) (t : Tenant) (f : SinkForm) : Room := fun sts b =>
  let e := sts.foldl (fun e st => e.replace st.node st.cell) e
  match e.op, e.a.ref with
  | .vforce _, .cell _ => true
  | _, _ => (b.planIssue t e { f with guards := f.guards.filter fun n => !(sts.any fun st => st.node == n) }).isSome

/-- The load-source footprints of a pass (02 R48). -/
def Arch.passLoads (a : Arch) (t : Tenant) (e : Entry) (sts : List Stage) : List Range :=
  (graphOf a.brood e.operands ++ sts.map fun st => st.node).flatMap fun k =>
    match broodEntry a.brood k with | some x => x.loadRanges t | none => []

/-- The sink issues: its stages are planned and their cells placed, it takes an entry and a sequence number, and the
instruction completes (02 R40, R44, R50, R57, R58). -/
def State.issueSink (s : State) (e : Entry) (f : SinkForm) (adjust : Entry → Nat → Arch → Arch) : Res :=
  s.withEntry (e.room ((s.die s.me.die).tenant s.me.a.csr.tenant) f) fun n s =>
    let a := s.me.a
    let t := (s.die s.me.die).tenant a.csr.tenant
    match a.planInOrder t e f with
    | none => s.trap .cellFull
    | some (plain, sts, e, a1) =>
      let loads := a1.passLoads t e sts
      let a2 := adjust e n (a1.addNode n e)
      let p : Pend :=
        { implicit := false, entry := n, no := s.me.issueNo, pc := a.pc, repc := a.repcStopped, stages := sts, store := f.store,
          loads := loads, epoch := s.me.epoch, joins := f.joins && plain, resync := f.resync, age := s.myCore.ages,
          before := a, after := a2.next }
      .next (({ s with me := { s.me with a := a2, pend := s.me.pend ++ [p] } }).setMyCore fun k => { k with ages := k.ages + 1 }).retire

/-- The page-decided format at issue: a probe that faults nothing and changes nothing (03 R434). -/
def State.probe (s : State) (base : Word) (k : Access) : Option PageAttr :=
  match s.translate s.me base.toNat k with
  | .ok x => some x.entry.attr
  | .error _ => none

end Sys2Proof.Machine
end

