-- ==== Sys2Proof/Machine/Eval.lean ====
section
/-!
DEFINITION. What the nodes and sinks of one stage are at one element: operands, loads, element-wise operations, movement,
scans, masks and stores (02 R53 to R65, 03 R84 to R87, 06 R166 to R179, 07 R181 to R204, 10 R238, 11 R252, 13 R303 to R307,
15 R333). A stage is read at one moment of the machine; nothing here changes it.
-/

namespace Sys2Proof

/-- The immediate of a `.vi` form (04 R107). -/
def Instr.immediate : Instr → Option Int
  | .vadd f _ _ _ b | .vsub f _ _ _ b | .vmul f _ _ _ b | .vdiv f _ _ _ b | .vmin f _ _ _ b | .vmax f _ _ _ b
  | .vfma f _ _ _ b | .vfms f _ _ _ b | .vand f _ _ _ b | .vor f _ _ _ b | .vxor f _ _ _ b | .vshl f _ _ _ b
  | .vshr f _ _ _ b | .vsra f _ _ _ b | .vmulh f _ _ _ b | .vscl f _ _ _ b => if f = .vi then some b.toInt else none
  | .vcmp f _ _ _ _ b => if f = .vi then some b.toInt else none
  | .vsel f _ _ b => if f = .vi then some b.toInt else none
  | _ => none

/-- The functions of slot 0x48 that round (06 R169). -/
def Instr.unaryFn : Instr → Option Machine.UnaryFn
  | .vsqrt .. => some .sqrt | .vrcp .. => some .rcp | .vrsq .. => some .rsq | .vexp2 .. => some .exp2
  | .vlog2 .. => some .log2 | .vtanh .. => some .tanh | .vsigm .. => some .sigm
  | _ => none

end Sys2Proof

namespace Sys2Proof.Machine

/-! ## What an element gives -/

/-- An access that a strip makes: its translation is used, and its line is filled. -/
structure Touch where
  x : Xlat
  size : Nat
  kind : Access
  el : Word
  seq : Word32
  pc : Word
  /-- read at its home, as an acquire for the block of this size around it: the core's lines there are stale (15 R333, R341) -/
  home : Option Nat
  deriving DecidableEq, Repr

/-- A node at one element. -/
structure NodeOut where
  vals : List Nat
  flags : List Flag
  events : List PassEvent
  touches : List Touch
  carry : Option Carry
  /-- an access waits on a link under retrain -/
  stall : Bool
  deriving DecidableEq, Repr

/-- A node that gives nothing but values. -/
def NodeOut.of (vals : List Nat) : NodeOut :=
  { vals := vals, flags := [], events := [], touches := [], carry := none, stall := false }

/-- The nodes of a stage at one element. -/
abbrev Env : Type := List (Nat × NodeOut)

/-- The node of a number at this element. -/
def envGet : Env → Nat → NodeOut
  | [], _ => NodeOut.of []
  | (k, o) :: r, n => if k = n then o else envGet r n

/-- A stage as it is read: the machine, the brood table, the length, and the carries with the element they stand at. -/
structure Stg where
  s : State
  brood : List (Nat × Entry)
  len : Nat
  at_ : Nat
  carries : List (Nat × Carry)

/-- An operand at one element. -/
structure Src where
  fmt : Fmt
  vals : List Nat
  /-- one value serves every sub-value -/
  every : Bool
  flags : List Flag
  events : List PassEvent
  touches : List Touch
  stall : Bool
  deriving DecidableEq, Repr

/-- A value that serves every sub-value. -/
def Src.all (f : Fmt) (v : Nat) : Src :=
  { fmt := f, vals := [v], every := true, flags := [], events := [], touches := [], stall := false }

/-- An event of a node or sink. -/
def eventOf (e : Entry) (c : Cause) (va : Nat) (write : Bool) : PassEvent :=
  { cause := c, va := word va, write := write, seq := e.seq, pc := e.pc, slot := 0 }

/-- The scalar that an operand holds. -/
def Operand.scalar (o : Operand) : Word :=
  match o.ref with
  | .scalar w => w
  | _ => 0

/-- The event that the cause priority takes among those of one node (19 R368). -/
def pickEvent : List PassEvent → List PassEvent
  | [] => []
  | x :: r => [r.foldl (fun b y => if y.cause.priority < b.cause.priority then y else b) x]

/-- Absolute index of an element under an entry's captured ELBASE (02 R54). -/
def Entry.index (e : Entry) (i : Nat) : Word := e.elbase + word i

/-- How sub-value k of an element is rounded (03 R89 to R92). -/
def Entry.rounding (e : Entry) (i k : Nat) : Rounding :=
  { mode := e.rm, sat := e.sat, w := if e.rm = 5 then subWord e.srseed e.srsalt (e.index i) k else 0 }

/-! ## Access to memory (07 R184) -/

/-- The lowest poisoned word that a read of the core meets, by virtual address (01 R33, 02 R65). -/
def State.poisonedWord (s : State) (core : Nat) (x : Xlat) (size : Nat) : Nat :=
  (x.va / 8 + ((List.range (wordsOf x.pa size).length).find? fun j => s.corePoison core (x.pa / 8 * 8 + 8 * j) 8).getD 0) * 8

/-- One access of an element. -/
structure Got where
  x : Option Xlat
  events : List PassEvent
  touches : List Touch
  stall : Bool
  deriving DecidableEq, Repr

/-- Checks one access, with every event it meets; the format test is the caller's. -/
def Stg.access (g : Stg) (e : Entry) (i va size : Nat) (k : Access) (badPage : PageAttr → Bool) : Got :=
  let c := g.s.me
  match g.s.lookup c va k with
  | .fault f => { x := none, events := [eventOf e f va k.writes], touches := [], stall := false }
  | .waits _ _ => { x := none, events := [], touches := [], stall := true }
  | .ok x =>
    let ev := (if badPage x.entry.attr then [eventOf e .format va k.writes] else []) ++
      (if g.s.watched c va size k then [eventOf e .watch (g.s.watchedByte c va size k) k.writes] else []) ++
      (if !k.writes && g.s.corePoison c.core x.pa size then [eventOf e .poison (g.s.poisonedWord c.core x size) k.writes] else []) ++
      (match g.s.reach c x.pa with
      | .fails f => [eventOf e f va k.writes]
      | .here => if region x.pa = .pod ∧ k.writes = false ∧ (g.s.podRead c x.va x.pa size).isNone = true then [eventOf e .remote va false] else []
      | .waits _ _ => [])
    { x := some x, events := pickEvent ev,
      touches := [{ x := x, size := size, kind := k, el := e.index i, seq := e.seq, pc := e.pc, home := none }],
      stall := match g.s.reach c x.pa with | .waits _ _ => true | _ => false }

/-- The bytes that a strip reads: of the core, or of another package (DESIGN CHOICE, assumption log 9). -/
def Stg.bytes (g : Stg) (x : Xlat) (n : Nat) : List Byte :=
  match region x.pa with
  | .pod => (g.s.podRead g.s.me x.va x.pa n).getD []
  | _ => g.s.coreBytes g.s.me.core x.pa n

/-- Element i of a cell (02 R51). -/
def Stg.cell (g : Stg) (e : Entry) (c : CellRef) (i : Nat) : Src :=
  let bits := match c.fmt with | none => 1 | some f => f.heldBits * 2 ^ c.eg
  let va := (c.addr.toNat + i * bits / 8) % 2 ^ 64
  let n := if bits < 8 then 1 else bits / 8
  let a := g.access e i va n .read fun _ => false
  let raw := match a.x with | some x => leNat (g.bytes x n) | none => 0
  let v := if bits < 8 then raw / 2 ^ (i * bits % 8) % 2 ^ bits else raw
  { fmt := (c.fmt.getD .n8), every := c.fmt.isNone,
    vals := match c.fmt with
      | none => [v % 2]
      | some f => (List.range (2 ^ c.eg)).map fun k => v / 2 ^ (k * f.heldBits) % 2 ^ f.heldBits,
    flags := [], events := a.events, touches := a.touches, stall := a.stall }

/-! ## Operands -/

/-- A reference at element i; a handle that is EMPTY reads as zeros (01 R17), k0 as ones (01 R18). -/
def Stg.ref (g : Stg) (e : Entry) (r : Ref) (env : Env) (i : Nat) : Src :=
  match r with
  | .none | .stream _ => Src.all .n8 0
  | .k0 => Src.all .n8 1
  | .scalar w => Src.all (scalarFmt e.fmt) (w.toNat % 2 ^ (scalarFmt e.fmt).bits)
  | .cell c => g.cell e c i
  | .node n =>
    match broodEntry g.brood n with
    | none => Src.all .n8 0
    | some x => { Src.all x.fmt 0 with vals := (envGet env n).vals, every := x.op.makesMask }

/-- Word n of an entry of a bank that holds sub-values is poisoned: the lowest. -/
def bankPoison (b : Bank) (x bytes : Nat) : Option Nat :=
  (List.range ((bytes + 7) / 8)).find? fun n => b.poison.getLsbD (2 * x + n)

/-- The bytes of a bank as a number (11 R248). -/
def bankValue (b : Bank) (at_ n : Nat) : Nat := leNat (Sparse.getRun 0 b.bytes at_ n)

/-- The formats of an index operand (11 R251). -/
def indexFmt (f : Fmt) : Bool :=
  match f with
  | .ix4 | .ix8 | .i8 | .i16 | .i32 | .i64 | .n8 | .n16 | .n32 | .n64 => true
  | _ => false

/-- The index value of an element (11 R251); of an operand whose format was decided after issue and is no index format,
a free value (DESIGN CHOICE, assumption log 13). -/
def indexValue (e : Entry) (i : Nat) (f : Fmt) (v : Nat) : Int :=
  if indexFmt f then intOf f v else (Config.missing e.seq.toNat (e.index i).toNat (2 ^ 64)).toNat

/-- FAULTVA of a poisoned bank word (11 R252). -/
def bankFaultVa (bank x n : Nat) : Nat := 2 ^ 63 + bank * 2 ^ 12 + 16 * x + 8 * n

/-- Expansion of an index through a bank into sub-values of a format (11 R252). -/
def Stg.expand (g : Stg) (e : Entry) (bank : BankReg) (f : Fmt) (v : Int) : Src :=
  let b := Sparse.get Bank.reset g.s.myCore.banks bank.toNat
  let n := 2 ^ e.eg
  let w := f.bits / 8
  let none_ := { Src.all f 0 with vals := List.replicate n 0, every := false }
  if 0 ≤ v ∧ v ≤ 255 ∧ b.valid.getLsbD v.toNat = true then
    match bankPoison b v.toNat (n * w) with
    | some k => { none_ with events := [eventOf e .poison (bankFaultVa bank.toNat v.toNat k) false] }
    | none => { none_ with vals := (List.range n).map fun k => bankValue b (16 * v.toNat + k * w) w }
  else if e.cbx then { none_ with flags := [.cbi] }
  else { none_ with events := [eventOf e .cbInvalid 0 false] }

/-- An operand at element i, expanded where it is codebook-indexed. -/
def Stg.operand (g : Stg) (e : Entry) (o : Operand) (env : Env) (i : Nat) : Src :=
  let r := g.ref e o.ref env i
  match o.bank with
  | none => r
  | some b =>
    let x := g.expand e b e.fmt (indexValue e i r.fmt ((r.vals[0]?).getD 0))
    { x with events := r.events ++ x.events, touches := r.touches, stall := r.stall }

/-- Sub-value k of an operand; one that it does not hold is a free value (DESIGN CHOICE, assumption log 10). -/
def Src.sub (x : Src) (e : Entry) (i k : Nat) : Nat :=
  if x.every then (x.vals[0]?).getD 0
  else match x.vals[k]? with
    | some v => v
    | none => (Config.missing e.seq.toNat (e.index i).toNat k).toNat % 2 ^ x.fmt.heldBits

/-- The mask bit of an entry at element i. -/
def Stg.active (g : Stg) (e : Entry) (env : Env) (i : Nat) : Bool × Src :=
  let x := g.ref e e.mask.ref env i
  ((x.vals[0]?).getD 0 % 2 == 1, x)

/-- What several operands bring with them. -/
def NodeOut.with (o : NodeOut) (xs : List Src) : NodeOut :=
  { o with flags := (xs.flatMap fun x => x.flags) ++ o.flags, events := (xs.flatMap fun x => x.events) ++ o.events,
           touches := (xs.flatMap fun x => x.touches) ++ o.touches, stall := o.stall || xs.any fun x => x.stall }

/-- What an operand brings but its flags, for an element that reads it without raising any. -/
def Src.quiet (x : Src) : Src := { x with flags := [] }

/-- Sub-values of an element, each computed and rounded on its own (06 R165). -/
def perSub (eg : Nat) (f : Nat → Nat × List Flag) : NodeOut :=
  let rs := (List.range (2 ^ eg)).map f
  { NodeOut.of (rs.map fun r => r.1) with flags := rs.flatMap fun r => r.2 }

/-- An operand moved into the format of the node, sub-value by sub-value (06 R172, 07 R191). -/
def moved (e : Entry) (x : Src) (i : Nat) : NodeOut :=
  (perSub e.eg fun k => moveInto e.fmt (e.rounding i k) x.fmt (x.sub e i k)).with [x]

/-- An inactive element: the merge operand under MPOL = 0, or zero; no flag (06 R166). vcvt converts merge values as it converts
its source (06 R173). -/
def Stg.inactive (g : Stg) (e : Entry) (env : Env) (i : Nat) : NodeOut :=
  if e.mpol then NodeOut.of (List.replicate (2 ^ e.eg) 0)
  else
    let x := (g.operand e e.merge env i).quiet
    match e.op with
    | .vcvt .. => { (perSub e.eg fun k => convert e.fmt (e.rounding i k) x.fmt (x.sub e i k)).with [x] with flags := [] }
    | _ => { moved e x i with flags := [] }

/-! ## Element-wise operations (06 R167 to R177) -/

/-- Operand b of an element-wise instruction: an immediate is converted at the element (04 R107). -/
def Stg.opB (g : Stg) (e : Entry) (env : Env) (i : Nat) : (Nat → Fmt × Nat × List Flag) × List Src :=
  match e.op.immediate with
  | some n => (fun k => let x := immediatePattern e.fmt (e.rounding i k) n; (scalarFmt e.fmt, x.1, x.2), [])
  | none =>
    let x := g.operand e e.b env i
    (fun k => (x.fmt, x.sub e i k, []), [x])

/-- Two operands combined. -/
def Stg.binary (g : Stg) (e : Entry) (env : Env) (i : Nat)
    (f : Rounding → Fmt → Nat → Fmt → Nat → Nat × List Flag) : NodeOut :=
  let a := g.operand e e.a env i
  let (b, xs) := g.opB e env i
  (perSub e.eg fun k =>
    let y := b k
    let z := f (e.rounding i k) a.fmt (a.sub e i k) y.1 y.2.1
    (z.1, y.2.2 ++ z.2)).with (a :: xs)

/-- One operand. -/
def Stg.single (g : Stg) (e : Entry) (env : Env) (i : Nat) (f : Rounding → Fmt → Nat → Nat × List Flag) : NodeOut :=
  let a := g.operand e e.a env i
  (perSub e.eg fun k => f (e.rounding i k) a.fmt (a.sub e i k)).with [a]

/-- A bitwise operation. The conversion of a source or an immediate into the format raises its flags and follows SAT (R164, R107), though
R170 has the operation itself raise none (DESIGN CHOICE, assumption log 108). -/
def bitwise (o : BitArith) (e : Entry) (r : Rounding) (fa : Fmt) (a : Nat) (fb : Fmt) (b : Nat) : Nat × List Flag :=
  let x := bitsRead e.fmt r fa a
  let y := bitsRead e.fmt r fb b
  (bitArith o e.fmt x.1 y.1, x.2 ++ y.2)

/-- A shift: a scalar or immediate amount stands as it is (06 R170). -/
def Stg.shift (g : Stg) (e : Entry) (env : Env) (i : Nat) (o : BitArith) : NodeOut :=
  match e.op.immediate with
  | some n =>
    g.single e env i fun r f v =>
      let x := bitsRead e.fmt r f v
      (bitArith o e.fmt x.1 (patternOf 64 n), x.2)
  | none => g.binary e env i (bitwise o e)

/-- vfma and vfms: the addend is operand c (06 R168). -/
def Stg.fused (g : Stg) (e : Entry) (env : Env) (i : Nat) (minus : Bool) : NodeOut :=
  let a := g.operand e e.a env i
  let c := g.operand e e.c env i
  let (b, xs) := g.opB e env i
  (perSub e.eg fun k =>
    let y := b k
    let z := fusedArith minus e.fmt (e.rounding i k) a.fmt (a.sub e i k) y.1 y.2.1 c.fmt (c.sub e i k)
    (z.1, y.2.2 ++ z.2)).with (a :: c :: xs)

/-- vscl (06 R174). -/
def Stg.scaled (g : Stg) (e : Entry) (env : Env) (i : Nat) : NodeOut :=
  let a := g.operand e e.a env i
  let b := g.operand e e.b env i
  (perSub e.eg fun k =>
    let r := e.rounding i k
    let n : Int × List Flag := match e.op.immediate with
      | some n => (n, [])
      | none => match e.b.ref with
        | .scalar w => (w.toInt, [])
        | _ => scaleRead e.fmt r b.fmt (b.sub e i k)
    let x := valueRead e.fmt r a.fmt (a.sub e i k)
    let z := scaleValue e.fmt r x.1 n.1
    (z.1, x.2 ++ n.2 ++ z.2)).with [a, b]

/-- vcmp: the mask bit, or for an inactive element the old one or 0 (06 R171). -/
def Stg.compared (g : Stg) (e : Entry) (env : Env) (i : Nat) (cc : Cond) : NodeOut :=
  let (act, m) := g.active e env i
  (if act then g.binary e env i fun r fa a fb b => compare cc e.fmt r fa a fb b
   else if e.mpol then NodeOut.of [0]
   else
     let x := g.ref e e.merge.ref env i
     (NodeOut.of [(x.vals[0]?).getD 0 % 2]).with [x]).with [m]

/-- An element-wise node under its mask (06 R166). -/
def Stg.masked (g : Stg) (e : Entry) (env : Env) (i : Nat) (f : Unit → NodeOut) : NodeOut :=
  let (act, m) := g.active e env i
  (if act then f () else g.inactive e env i).with [m]

/-- A mask operand's bit. -/
def Stg.maskBit (g : Stg) (e : Entry) (o : Operand) (env : Env) (i : Nat) : Nat × Src :=
  let x := g.ref e o.ref env i
  ((x.vals[0]?).getD 0 % 2, x)

/-- A mask node of two masks (06 R178). -/
def Stg.maskOf (g : Stg) (e : Entry) (env : Env) (i : Nat) (f : Nat → Nat → Nat) : NodeOut :=
  let a := g.maskBit e e.a env i
  let b := g.maskBit e e.b env i
  (NodeOut.of [f a.1 b.1]).with [a.2, b.2]

/-! ## Vector memory (07 R181 to R187, 15 R333) -/

/-- Where an element stands: its byte address, its size, and which nibble (07 R181). -/
def placeOf (f : Fmt) (eg base : Nat) (q : Int) : Nat × Nat × Nat :=
  if f.bits = 4 then
    let n := (((2 * base : Nat) + q) % (2 ^ 65 : Nat)).toNat
    (n / 2, 1, n % 2)
  else
    let size := f.bits / 8 * 2 ^ eg
    ((((base : Nat) + q * size) % (2 ^ 64 : Nat)).toNat, size, 0)

/-- The format in which an access of decided attributes reads or writes: the page's, whose element size every address has, GEO
agreeing or not (03 R85); a reserved page format has no size and reads as .n8. Every element of the latter two faults FORMAT
(03 R87). -/
def decidedFmt (captured : Fmt) (p : PageAttr) : Fmt := if p.fe then (Fmt.ofCode p.fmt).getD .n8 else captured

/-- A page on which an element of an access faults FORMAT (03 R85, R87, 07 R181). -/
def formatFault (captured : Fmt) (eg : Nat) (plain : Bool) (d p : PageAttr) : Bool :=
  let f := decidedFmt captured d
  (if d = PageAttr.raw then p.fe else if d.geo = 4 then !p.gives f else p != d) || (p.fe && (p.fmt?).isNone) || (p.fe && eg != 0) ||
    (!p.fe && (f == Fmt.nx4 || f == Fmt.mx8)) || (!plain && (f == Fmt.nx4 || f == Fmt.mx8))

/-- The tenant's record. -/
def Stg.tenant (g : Stg) : Tenant := (g.s.die g.s.me.die).tenant g.s.me.a.csr.tenant

/-- The access to the side word of the block that holds a byte (03 R86, R87); none while no page has given the geometry, where
the element's own access meets its event. -/
def Stg.side (g : Stg) (e : Entry) (i : Nat) (f : Fmt) (geo va : Nat) (k : Access) : Got :=
  let bb := blockBytes f geo
  if geo = 4 then { x := none, events := [], touches := [], stall := false }
  else g.access e i (sideAddr g.tenant geo (va / bb * bb)) 2 k fun p => p.fe

/-- An element of a load read at its address (07 R184, R185). -/
def Stg.loadAt (g : Stg) (e : Entry) (i : Nat) (captured : Fmt) (d : PageAttr) (plain : Bool) (base : Nat) (q : Int) :
    NodeOut × Fmt :=
  let f := decidedFmt captured d
  let eg := if d.fe then 0 else e.eg
  let (va, size, half) := placeOf f eg base q
  if base % size ≠ 0 then ({ NodeOut.of [0] with events := [eventOf e .align va false] }, f)
  else
    let a := g.access e i va size .read (formatFault captured e.eg plain d)
    if d.block then
      let sd := g.side e i f d.geo va .read
      let ev := pickEvent (a.events ++ sd.events)
      let out := match ev, a.x, sd.x with
        | [], some x, some y =>
          let raw := leNat (g.bytes x 1)
          let v := blockDecode f (leNat (g.bytes y 2)) (if f = Fmt.nx4 then raw / 16 ^ half % 16 else raw)
          { NodeOut.of [v.1] with flags := v.2 }
        | _, _, _ => NodeOut.of [0]
      ({ out with events := ev, touches := a.touches ++ sd.touches, stall := a.stall || sd.stall }, f)
    else
      let out := match a.events, a.x with
        | [], some x =>
          let raw := leNat (g.bytes x size)
          if f.bits = 4 then NodeOut.of [raw / 16 ^ half % 16]
          else NodeOut.of ((List.range (2 ^ eg)).map fun k => raw / 2 ^ (k * f.bits) % 2 ^ f.bits)
        | _, _ => NodeOut.of [0]
      ({ out with events := a.events, touches := a.touches, stall := a.stall }, f)

/-- An access made at its home: it waits for the core's own writes that are on their way there, and is an acquire for a block
around it (15 R333, R341). -/
def Stg.homeward (g : Stg) (block : Nat) (ts : List Touch) : List Touch × Bool :=
  (ts.map fun t => { t with home := some block },
    ts.any fun t => g.s.myCore.path.any fun w => spansOverlap w.pa w.data.length t.x.pa t.size)

/-- The chunk bit that decides an element of vldc, read at its home (15 R333). -/
def Stg.chunkBit (g : Stg) (e : Entry) (i : Nat) (object va : Nat) : Bool × Got :=
  let j := va % 131072 / 512
  let at_ := object + 32 + j / 8
  if object % 64 ≠ 0 then
    (false, { x := none, events := [eventOf e .align object false], touches := [], stall := false })
  else
    let a := g.access e i at_ 1 .read fun _ => false
    let ev := match a.x with
      | some x => if g.s.homePoison x.pa 1 then [eventOf e .poison (x.va / 8 * 8) false] else []
      | none => []
    let h := g.homeward 64 a.touches
    (match a.x with | some x => (g.s.readByte g.s.me x.pa).getLsbD (j % 8) | none => false,
      { a with events := pickEvent ((a.events.filter fun v => v.cause != .poison) ++ ev), touches := h.1,
               stall := a.stall || h.2 })

/-- The same stage read at the homes of memory: as if the core held no cached line (15 R333). -/
def Stg.atHome (g : Stg) : Stg := { g with s := g.s.setCore g.s.me.core fun k => { k with cache := [] } }

/-- Element 0 of an access whose page does not translate, which decides no format: the failed translation is its event
(03 R434). -/
def Stg.undecided (g : Stg) (e : Entry) (i va : Nat) (k : Access) : Got := g.access e i va 1 k fun _ => false

/-- A load node at element i (07 R185, R186, 15 R333). -/
def Stg.load (g : Stg) (e : Entry) (src : Source) (env : Env) (i : Nat) : NodeOut :=
  let d : Option PageAttr := src.decided
  match d with
  | none =>
    let (act, m) := g.active e env i
    if act && i == 0 then
      let a := g.undecided e i src.base.toNat .read
      { NodeOut.of [0] with events := a.events, touches := m.touches, stall := a.stall || m.stall }
    else (NodeOut.of [0]).with [m]
  | some d =>
    g.masked e env i fun _ =>
      let q : Int := match src.form with
        | .vld | .vldc => i
        | .vlds => src.stride.toInt * i
        | .vldb => 0
      let cap := e.fmt
      match src.form with
      | .vldc =>
        let (va, _, _) := placeOf (decidedFmt cap d) (if d.fe then 0 else e.eg) src.base.toNat q
        let (on, b) := g.chunkBit e i src.stride.toNat va
        let f := decidedFmt cap d
        let bad : List PassEvent := if f == .nx4 || f == .mx8 then [eventOf e .format va false] else []
        if !b.events.isEmpty then { NodeOut.of [0] with events := pickEvent (b.events ++ bad), touches := b.touches, stall := b.stall }
        else if !on && !bad.isEmpty then { NodeOut.of [0] with events := bad, touches := b.touches, stall := b.stall }
        else if on then
          let o := (g.atHome.loadAt e i cap d false src.base.toNat q).1
          let h := g.homeward 512 o.touches
          { o with touches := b.touches ++ h.1, stall := b.stall || o.stall || h.2 }
        else
          let o := g.inactive e env i
          { o with touches := b.touches ++ o.touches, stall := b.stall || o.stall }
      | form => (g.loadAt e i cap d (form == .vld || form == .vldb) src.base.toNat q).1

/-- A vldb at element i: its element is read once per pass, and its access is met at the lowest active element (07 R186). -/
def Stg.once (g : Stg) (x : Entry) (env : Env) (i : Nat) (carry : Option Carry) (read : Unit → NodeOut) : NodeOut :=
  let (act, m) := g.active x env i
  let (got, met) : Option (List Nat × List Flag) × Bool := match carry with | some (.once got met) => (got, met) | _ => (none, false)
  let o := read ()
  let fresh : Option (List Nat × List Flag) := if o.events.isEmpty && !o.stall then some (o.vals, o.flags) else none
  match got, met with
  | some (vals, fl), true =>
    { (if act then { NodeOut.of vals with flags := fl } else g.inactive x env i).with [m] with carry := carry }
  | some (vals, fl), false =>
    if act then
      { ({ o with vals := vals, flags := fl } : NodeOut).with [m] with carry := some (.once got fresh.isSome) }
    else { (g.inactive x env i).with [m] with carry := carry }
  | none, _ =>
    { (if act then o else g.inactive x env i).with [m] with carry := some (.once fresh (act && fresh.isSome)) }

/-- A load node at element i, a vldb from what the pass has read (07 R185, R186). -/
def Stg.loadOf (g : Stg) (e : Entry) (src : Source) (env : Env) (i : Nat) (carry : Option Carry) : NodeOut :=
  match src.form, src.decided with
  | .vldb, some d => g.once e env i carry fun _ => (g.loadAt e i e.fmt d true src.base.toNat 0).1
  | _, _ => g.load e src env i

/-! ## Lane-private SRAM (10 R237, R238) -/

/-- The offset of an element, and the lane it is pinned to. -/
def lanePlace (e : Entry) (i : Nat) (idx : Int) (size : Nat) (base : Word) : Int × Nat :=
  ((base.toNat : Int) + idx * size, (e.index i).toNat % 64)

/-- The events of a lane-private access at an offset. -/
def Stg.laneEvents (g : Stg) (e : Entry) (o : Int) (w size : Nat) (write : Bool) : List PassEvent :=
  let va := (o % (2 ^ 64 : Nat)).toNat
  if o % w ≠ 0 then [eventOf e .align va write]
  else if o < 0 ∨ (g.s.me.lpriv : Int) < o + size then [eventOf e .perm va write]
  else []

/-- The key of a byte of a lane's slice in a core's lane-private store. -/
def laneKey (c : Ctx) (lane o : Nat) : Nat := 16384 * lane + 4096 * c.pos + o

/-- vlpld at an active element. -/
def Stg.laneLoad (g : Stg) (e : Entry) (env : Env) (i : Nat) : NodeOut :=
  let x := g.operand e e.a env i
  let w := e.fmt.bits / 8
  let size := w * 2 ^ e.eg
  let (idx, fl) := indexRead e.sat x.fmt (x.sub e i 0)
  let (o, lane) := lanePlace e i idx size e.b.scalar
  let ev := g.laneEvents e o w size false
  let key := laneKey g.s.me lane o.toNat
  let ev := if ev.isEmpty && (wordsOf key size).any fun n => g.s.myCore.lprivPoison.contains n then
    [eventOf e .poison (o % (2 ^ 64 : Nat)).toNat false] else ev
  let raw := leNat (Sparse.getRun 0 g.s.myCore.lpriv key size)
  ({ NodeOut.of (if ev.isEmpty then (List.range (2 ^ e.eg)).map fun k => raw / 2 ^ (k * e.fmt.bits) % 2 ^ e.fmt.bits
      else [0]) with flags := fl, events := ev }).with [x]

/-! ## Block packing (06 R175, R176) -/

/-- The elements of a pass that lie in the block of element i, where blocks follow the absolute index. -/
def blockOf (elbase : Word) (size len i : Nat) : List Nat :=
  let p := (elbase.toNat + i) % size
  let lo := if p ≤ i then i - p else 0
  let hi := if i + size - p < len then i + size - p else len
  (List.range (hi - lo)).map fun j => lo + j

/-- The position of element i within its block. -/
def blockPos (elbase : Word) (size i : Nat) : Nat := (elbase.toNat + i) % size

/-- The value that a block element takes into an encoding, read at its exact value (03 R77, R80). -/
def Stg.blockElem (g : Stg) (e : Entry) (o : Operand) (env : Env) (i : Nat) : BlockElem × List Flag :=
  let (act, _) := g.active e env i
  if act then
    let x := g.operand e o env i
    (some (blockRead x.fmt (x.sub e i 0), e.rounding i 0), x.flags)
  else (none, [])

/-- A row as a list of operands depends on it (07 R192). -/
def depRow (b : List (Nat × Entry)) (os : List Operand) (env : Env) : Env :=
  let ns := reached b (os.filterMap fun o => o.ref.node?)
  env.filter fun o => ns.contains o.1

/-- The events of a row. -/
def envEvents (env : Env) : List PassEvent := env.flatMap fun o => o.2.events

/-- The events that an entry's operands depend on at an element (07 R192). -/
def depEvents (b : List (Nat × Entry)) (e : Entry) (env : Env) : List PassEvent := envEvents (depRow b e.operands env)

/-- The accesses of a row. -/
def envTouches (env : Env) : List Touch := env.flatMap fun o => o.2.touches

/-- Some access of a row waits. -/
def envStall (env : Env) : Bool := env.any fun o => o.2.stall

/-- vblk at element i (06 R175). Its blocks follow the node's own captured ELBASE, as its absolute index does, where another node of the
pass captured another (DESIGN CHOICE, assumption log 109). -/
def Stg.packed (g : Stg) (e : Entry) (geo : Geo) (env : Env) (row : Nat → Env) (i : Nat) : NodeOut :=
  let js := blockOf e.elbase geo.size e.len i
  let rows := js.map fun j => if j = i then env else row j
  let es := (List.zip js rows).map fun x => g.blockElem e e.a x.2 x.1
  let enc := blockEncode e.fmt e.sat (es.map fun x => x.1)
  let k := (js.findIdx? fun j => j == i).getD 0
  let (act, m) := g.active e env i
  let out :=
    if act then
      let v := blockDecode e.fmt enc.1 ((enc.2.1[k]?).getD 0)
      { NodeOut.of [v.1] with flags := ((es[k]?).map fun x => x.2).getD [] ++ (enc.2.2[k]?).getD [] ++ v.2 }
    else g.inactive e env i
  let out := out.with [m, g.operand e e.a env i |>.quiet]
  { out with events := out.events ++ rows.flatMap (depEvents g.brood e) ++
               ((List.zip js rows).flatMap fun x => (g.operand e e.a x.2 x.1).events),
             touches := out.touches ++ rows.flatMap envTouches, stall := out.stall || rows.any envStall }

/-! ## Movement (07 R191 to R196) -/

/-- An element of another row, moved into the node: its value, and the events and accesses of the source that it depends on
(07 R192). -/
def Stg.fromRow (g : Stg) (e : Entry) (r : Env) (j i : Nat) : NodeOut :=
  let x := g.operand e e.a r j
  let o := moved e x i
  let d := depRow g.brood [e.a] r
  { o with events := o.events ++ envEvents d, touches := o.touches ++ envTouches d, stall := o.stall || envStall d }

/-- The element at which a search stops: from element j on, the first active one, with all events met on the way. -/
def Stg.nextActive (g : Stg) (e : Entry) (row : Nat → Env) : Nat → Nat → List PassEvent → Option Nat × List PassEvent
  | 0, _, ev => (none, ev)
  | fuel + 1, j, ev =>
    let r := row j
    let (act, m) := g.active e r j
    let ev := ev ++ m.events ++ depEvents g.brood e r
    if act then (some j, ev) else g.nextActive e row fuel (j + 1) ev

/-- The carry of a node before element 0. -/
def Entry.firstCarry (e : Entry) : Option Carry :=
  match e.op with
  | .vscan .. => some (.scan (.bits 0) false)
  | .vldb .. => some (.once none false)
  | .vexpd .. => some (.expand 0)
  | .vcmpr .. => some (.compress 0 0)
  | .kmsk .. => some (.first false)
  | _ => none

/-- vslup and vsldn (07 R194). -/
def Stg.slide (g : Stg) (e : Entry) (env : Env) (row : Nat → Env) (i : Nat) (down : Bool) : NodeOut :=
  g.masked e env i fun _ =>
    let n := e.b.scalar.toNat
    if down then
      if i + n < e.len then g.fromRow e (if n = 0 then env else row (i + n)) (i + n) i
      else NodeOut.of (List.replicate (2 ^ e.eg) 0)
    else if n ≤ i then g.fromRow e (if n = 0 then env else row (i - n)) (i - n) i
    else NodeOut.of (List.replicate (2 ^ e.eg) 0)

/-- vperm (07 R195). Of an index element that holds a group, sub-value 0 is the index (DESIGN CHOICE, assumption log 106). -/
def Stg.permuted (g : Stg) (e : Entry) (env : Env) (row : Nat → Env) (i : Nat) : NodeOut :=
  g.masked e env i fun _ =>
    let x := g.operand e e.b env i
    match exactInteger x.fmt (x.sub e i 0) with
    | some j =>
      if 0 ≤ j ∧ j < e.len then
        (g.fromRow e (if j.toNat = i then env else row j.toNat) j.toNat i).with [x.quiet]
      else (NodeOut.of (List.replicate (2 ^ e.eg) 0)).with [x.quiet]
    | none => (NodeOut.of (List.replicate (2 ^ e.eg) 0)).with [x.quiet]

/-- vexpd, with the count of active elements below i (07 R196). -/
def Stg.expanded (g : Stg) (e : Entry) (env : Env) (row : Nat → Env) (i c : Nat) : NodeOut :=
  let (act, m) := g.active e env i
  let o := if act then g.fromRow e (if c = i then env else row c) c i else g.inactive e env i
  { o.with [m] with carry := some (.expand (if act then c + 1 else c)) }

/-- vcmpr: output element i is the next active source element from s on, or the tail (07 R196). -/
def Stg.compressed (g : Stg) (e : Entry) (env : Env) (row : Nat → Env) (i s : Nat) : NodeOut :=
  let (j, ev) := g.nextActive e row (e.len - s) s []
  match j with
  | some j =>
    let o := g.fromRow e (row j) j i
    { o with events := ev ++ o.events, carry := some (.compress (i + 1) (j + 1)) }
  | none =>
    let o := g.inactive e env i
    { o with events := ev ++ o.events, carry := some (.compress (i + 1) e.len) }

/-- An element of a scan or a reduction as a running value: of a floating-point class its exact value, a bit pattern taken
by 03 R76 in the captured format; otherwise a pattern of the format (03 R77, 07 R198, R201). -/
def scanRead (e : Entry) (i : Nat) (f : Fmt) (v : Nat) : Amount × List Flag :=
  match e.fmt.cls with
  | .f | .k =>
    match f.cls with
    | .i => (Amount.ofInt (e.index i) (intOf f v), [])
    | .b =>
      if f.bits = e.fmt.held.bits then (.bits (v % 2 ^ f.bits), [])
      else
        let x := valueRead e.fmt (e.rounding i 0) f v
        (.bits (roundTo Fmt.f32.layout Rounding.nearest x.1).1, x.2)
    | .f | .k => let x := moveInto .f32 (e.rounding i 0) f v; (.bits x.1, x.2)
  | .i | .b => let x := bitsRead e.fmt (e.rounding i 0) f v; (.bits x.1, x.2)

/-- How an addition of an ordered sum is rounded: with the random word of the element it absorbs (03 R92, R100). -/
def Entry.sumRounding (e : Entry) (a : Word) : Rounding :=
  { mode := e.rm, sat := e.sat, w := if e.rm = 5 then (roundingQuad e.srseed e.srsalt a 2).w0 else 0 }

/-- How a running value that is no FP32 value is rounded when it is delivered: as the element at its index (DESIGN CHOICE,
assumption log 90). -/
def Entry.aloneRounding (e : Entry) (a : Word) : Rounding :=
  { mode := e.rm, sat := e.sat, w := if e.rm = 5 then subWord e.srseed e.srsalt a 0 else 0 }

/-- One step of a scan. -/
def scanStep (e : Entry) (op : ScanOp) (a : Word) (run v : Amount) : Amount × List Flag :=
  let int (x : Nat × List Flag) : Amount × List Flag := (.bits x.1, x.2)
  match e.fmt.cls with
  | .f | .k =>
    match op with
    | .add => int (Amount.add (e.sumRounding a) run v)
    | .min => Amount.pick false run v
    | _ => Amount.pick true run v
  | .i | .b =>
    match op with
    | .add => int (intArith .add e.fmt e.sat run.pattern v.pattern)
    | .max => int (intArith .max e.fmt e.sat run.pattern v.pattern)
    | .min => int (intArith .min e.fmt e.sat run.pattern v.pattern)
    | .and => (.bits (bitArith .and e.fmt run.pattern v.pattern), [])
    | .or => (.bits (bitArith .or e.fmt run.pattern v.pattern), [])
    | .xor => (.bits (bitArith .xor e.fmt run.pattern v.pattern), [])

/-- A running value delivered into the node's format (03 R95, R96, 07 R198). -/
def scanDeliver (e : Entry) (i : Nat) (v : Amount) : Nat × List Flag :=
  match v with
  | .whole neg m a =>
    roundWide e.fmt.held.layout (if e.fmt.held = .f32 then e.aloneRounding a else e.rounding i 0) (.fin neg m 0 false)
  | .bits v => if e.fmt.cls = .f then moveInto e.fmt (e.rounding i 0) .f32 v else (v % 2 ^ e.fmt.heldBits, [])

/-- The first active element of a scan: in an integer class delivered into the format, as every later running value is (06 R162,
07 R198). -/
def scanFirst (e : Entry) (v : Amount) : Amount × List Flag :=
  if e.fmt.cls == .i then let x := deliver e.fmt e.sat (computedInt e.fmt v.pattern); (.bits x.1, x.2) else (v, [])

/-- vscan at element i (07 R198). -/
def Stg.scanned (g : Stg) (e : Entry) (op : ScanOp) (env : Env) (i : Nat) (run : Amount) (have_ : Bool) : NodeOut :=
  let (act, m) := g.active e env i
  if act then
    let x := g.operand e e.a env i
    let v := scanRead e i x.fmt (x.sub e i 0)
    let s := if have_ then scanStep e op (e.index i) run v.1 else scanFirst e v.1
    let d := scanDeliver e i s.1
    { ({ NodeOut.of [d.1] with flags := v.2 ++ s.2 ++ d.2 } : NodeOut).with [m, x] with carry := some (.scan s.1 true) }
  else { (g.inactive e env i).with [m] with carry := some (.scan run have_) }

/-- The node of an entry at element i, from the older nodes of the row and from other rows. -/
def Stg.node (g : Stg) (e : Entry) (env : Env) (row : Nat → Env) (i : Nat) (carry : Option Carry) : NodeOut :=
  match e.op with
  | .vld .. | .vlds .. | .vldb .. | .vldc .. =>
    match e.source with
    | some src => g.loadOf e src env i carry
    | none => NodeOut.of [0]
  | .vlpld .. => g.masked e env i fun _ => g.laneLoad e env i
  | .vadd .. => g.masked e env i fun _ => g.binary e env i (arith .add e.fmt)
  | .vsub .. => g.masked e env i fun _ => g.binary e env i (arith .sub e.fmt)
  | .vmul .. => g.masked e env i fun _ => g.binary e env i (arith .mul e.fmt)
  | .vdiv .. => g.masked e env i fun _ => g.binary e env i (arith .div e.fmt)
  | .vmin .. => g.masked e env i fun _ => g.binary e env i (arith .min e.fmt)
  | .vmax .. => g.masked e env i fun _ => g.binary e env i (arith .max e.fmt)
  | .vfma .. => g.masked e env i fun _ => g.fused e env i false
  | .vfms .. => g.masked e env i fun _ => g.fused e env i true
  | .vabs .. => g.masked e env i fun _ => g.single e env i (signOp false e.fmt)
  | .vneg .. => g.masked e env i fun _ => g.single e env i (signOp true e.fmt)
  | .vand .. => g.masked e env i fun _ => g.binary e env i (bitwise .and e)
  | .vor .. => g.masked e env i fun _ => g.binary e env i (bitwise .or e)
  | .vxor .. => g.masked e env i fun _ => g.binary e env i (bitwise .xor e)
  | .vshl .. => g.masked e env i fun _ => g.shift e env i .shl
  | .vshr .. => g.masked e env i fun _ => g.shift e env i .shr
  | .vsra .. => g.masked e env i fun _ => g.shift e env i .sra
  | .vmulh .. => g.masked e env i fun _ => g.binary e env i (bitwise .mulh e)
  | .vcmp _ _ cc _ _ _ => g.compared e env i cc
  | .vsel .. =>
    let (act, m) := g.active e env i
    if act then (moved e (g.operand e e.a env i) i).with [m]
    else
      let (b, xs) := g.opB e env i
      ((perSub e.eg fun k =>
        let y := b k
        let z := moveInto e.fmt (e.rounding i k) y.1 y.2.1
        (z.1, y.2.2 ++ z.2)).with xs).with [m]
  | .vcvt .. => g.masked e env i fun _ => g.single e env i (convert e.fmt)
  | .vscl .. => g.masked e env i fun _ => g.scaled e env i
  | .vblk geo _ _ _ => g.packed e geo env row i
  | .vrngRaw .. => g.masked e env i fun _ => NodeOut.of [rawElement e.fmt (drawQuad e.rngkey (e.a.scalar + e.index i))]
  | .vrngUnif .. => g.masked e env i fun _ => NodeOut.of [unifElement e.fmt (drawQuad e.rngkey (e.a.scalar + e.index i))]
  | .vcbx .. =>
    let x := g.operand e e.a env i
    (NodeOut.of x.vals).with [x]
  | .kmeet .. => g.maskOf e env i fun a b => a * b
  | .kjoin .. => g.maskOf e env i fun a b => a + b - a * b
  | .kdiff .. => g.maskOf e env i fun a b => (a + b) % 2
  | .kless .. => g.maskOf e env i fun a b => a * (1 - b)
  | .kflip .. => g.maskOf e env i fun a _ => 1 - a
  | .kcopy .. => g.maskOf e env i fun a _ => a
  | .kmsk .. =>
    let a := g.maskBit e e.a env i
    let seen := match carry with | some (.first s) => s | _ => false
    { (NodeOut.of [bitOf !seen]).with [a.2] with carry := some (.first (seen || a.1 == 1)) }
  | .kset .. => NodeOut.of [bitOf (decide (i < e.a.scalar.toNat))]
  | .vslup .. => g.slide e env row i false
  | .vsldn .. => g.slide e env row i true
  | .vperm .. => g.permuted e env row i
  | .vcmpr .. => g.compressed e env row i (match carry with | some (.compress _ s) => s | _ => 0)
  | .vexpd .. => g.expanded e env row i (match carry with | some (.expand c) => c | _ => 0)
  | .vscan op _ _ _ =>
    match carry with
    | some (.scan run have_) => g.scanned e op env i run have_
    | _ => g.scanned e op env i (.bits 0) false
  | op =>
    match op.unaryFn with
    | some fn => g.masked e env i fun _ => g.single e env i (unaryOp fn e.fmt)
    | none => NodeOut.of [0]

/-! ## Rows -/

/-- The carry of a node before element i: the saved one where it stands there, folded forward from it, or from the first
element for an element below it (07 R199). -/
def carryUpTo (step : Nat → Option Carry → Option Carry) : Nat → Nat → Option Carry → Option Carry
  | 0, _, c => c
  | n + 1, j, c => carryUpTo step n (j + 1) (step j c)

/-- The saved carry of a node. -/
def carryOf : List (Nat × Carry) → Nat → Option Carry
  | [], _ => none
  | (k, c) :: r, n => if k = n then some c else carryOf r n

/-- The nodes of a stage at element i, from a list of them with the youngest first. -/
def Stg.row (g : Stg) : List (Nat × Entry) → Nat → Env
  | [], _ => []
  | (n, e) :: older, i =>
    let env := g.row older i
    let carry : Option Carry :=
      match e.firstCarry with
      | none => none
      | some (.once got met) => some ((carryOf g.carries n).getD (.once got met))
      | some first =>
        let step := fun j c => (g.node e (g.row older j) (fun j => g.row older j) j c).carry
        if g.at_ ≤ i then carryUpTo step (i - g.at_) g.at_ (some ((carryOf g.carries n).getD first))
        else carryUpTo step i 0 (some first)
    (n, g.node e env (fun j => g.row older j) i carry) :: env

end Sys2Proof.Machine
end

