-- ==== Sys2Proof/Machine/Sinks.lean ====
section
/-!
DEFINITION. What each sink takes from an element and what it writes for it (02 R44, 07 R188 to R190, R200 to R204, 10 R238,
12 R276, R277, R292, 13 R303 to R307), and the partial state that committed elements leave (02 R67, 03 R100, R101).
-/

namespace Sys2Proof.Machine

/-! ## Writes to other places than whole bytes of memory

A write of a nibble, of one bit of a mask cell, or to lane-private SRAM is marked by an address above every physical one. -/

/-- Where the byte b of a nibble write stands: half h of physical byte p. -/
def nibbleSpace (p h : Nat) : Nat := 2 ^ 61 + 2 * p + h

/-- Where a mask bit stands: bit h of physical byte p. -/
def bitSpace (p h : Nat) : Nat := 2 ^ 60 + 8 * p + h

/-- Where a byte of lane-private SRAM stands. -/
def laneSpace (key : Nat) : Nat := 2 ^ 62 + key

/-- A sink at one element. -/
structure SinkOut where
  val : Option (List Nat)
  writes : List ElemWrite
  flags : List Flag
  events : List PassEvent
  touches : List Touch
  stall : Bool
  /-- what the sink itself has read once per pass (07 R186) -/
  carries : List (Nat × Carry)
  deriving DecidableEq, Repr

/-- A sink that takes nothing from an element. -/
def SinkOut.none : SinkOut := { val := Option.none, writes := [], flags := [], events := [], touches := [], stall := false,
                                   carries := [] }

/-- What operands bring to a sink. -/
def SinkOut.with (o : SinkOut) (xs : List Src) : SinkOut :=
  { o with flags := (xs.flatMap fun x => x.flags) ++ o.flags, events := (xs.flatMap fun x => x.events) ++ o.events,
           touches := (xs.flatMap fun x => x.touches) ++ o.touches, stall := o.stall || xs.any fun x => x.stall }

/-- A sink that takes a value under its mask. -/
def Stg.taking (g : Stg) (e : Entry) (env : Env) (i : Nat) (f : Src → List Nat × List Flag) : SinkOut :=
  let (act, m) := g.active e env i
  (if act then
    let x := g.operand e e.a env i
    let v := f x
    ({ SinkOut.none with val := some v.1, flags := v.2 }).with [x]
  else SinkOut.none).with [m]

/-! ## Reductions (07 R200 to R204) -/

/-- The value that a reduction takes: FP32 bits, or an integer of the format (06 R164, 07 R201, R204). -/
def reductionValue (e : Entry) (i : Nat) (x : Src) : List Nat × List Flag :=
  if e.fmt.cls == .i then let v := convert e.fmt (e.rounding i 0) x.fmt (x.sub e i 0); ([v.1], v.2)
  else let v := scanRead e i x.fmt (x.sub e i 0); (v.1.nats, v.2)

/-- Element bits delivered at 64 bits: sign-extended for .i formats (07 R197, R202, R204). -/
def delivered (f : Fmt) (bits v : Nat) : Word := if f.signed then wordOfInt (signedOf bits v) else word v

/-- The element that vext takes, in the format that its source has (07 R197); its sub-values stand side by side. -/
def Src.extracted (x : Src) : Word :=
  delivered x.fmt x.fmt.heldBits ((List.range x.vals.length).foldl (fun s k => s + (x.vals[k]?).getD 0 * 2 ^ (k * x.fmt.heldBits)) 0)

/-! ## Cells -/

/-- The write of element i of a value into a cell (02 R51). -/
def Stg.cellWrite (g : Stg) (e : Entry) (c : CellRef) (i : Nat) (vals : List Nat) : SinkOut :=
  let w := match c.fmt with | none => 1 | some f => f.heldBits
  let bits := match c.fmt with | none => 1 | some f => f.heldBits * 2 ^ c.eg
  let va := (c.addr.toNat + i * bits / 8) % 2 ^ 64
  let n := if bits < 8 then 1 else bits / 8
  let v := (List.range vals.length).foldl (fun s k => s + ((vals[k]?).getD 0) % 2 ^ w * 2 ^ (k * w)) 0
  let a := g.access e i va n .write fun _ => false
  { SinkOut.none with
    events := a.events, touches := a.touches, stall := a.stall,
    writes := match a.x with
      | none => []
      | some x =>
        if bits = 1 then [{ va := va, pa := bitSpace x.pa (i % 8), data := leBytes (v % 2) 1, poison := false, pc := e.pc }]
        else if bits = 4 then [{ va := va, pa := nibbleSpace x.pa (i % 2), data := leBytes (v % 16) 1, poison := false, pc := e.pc }]
        else [{ va := va, pa := x.pa, data := leBytes v n, poison := false, pc := e.pc }] }

/-! ## Stores (07 R188 to R190) -/

/-- The index of an element of an indexed access (07 R187, R189); of an index element that holds a group, sub-value 0 (DESIGN CHOICE,
assumption log 106). -/
def Stg.indexOf (g : Stg) (e : Entry) (env : Env) (i : Nat) : Int × List Flag × Src :=
  let x := g.operand e e.b env i
  let v := indexRead e.sat x.fmt (x.sub e i 0)
  (v.1, v.2, x)

/-- q(i) of a store or a gather, with what reading it brings (07 R180). -/
def Stg.position (g : Stg) (e : Entry) (env : Env) (i : Nat) : Int × List Flag × List Src :=
  match e.op with
  | .vsts .. => (e.str.toInt * i, [], [])
  | .vstx .. | .vldx .. => let v := g.indexOf e env i; (v.1, v.2.1, [v.2.2])
  | _ => (i, [], [])

/-- One element of a store into anything but a block page. -/
def Stg.storeElem (g : Stg) (e : Entry) (d : PageAttr) (plain : Bool) (env : Env) (i : Nat) : SinkOut :=
  let f := decidedFmt e.fmt d
  let eg := if d.fe then 0 else e.eg
  let base := e.val.toNat
  let (q, qf, qs) := g.position e env i
  let (va, size, half) := placeOf f eg base q
  if base % size ≠ 0 then ({ SinkOut.none with events := [eventOf e .align va true] }).with qs
  else
    let a := g.access e i va size .write (formatFault e.fmt e.eg plain d)
    let x := g.operand e e.a env i
    let v := perSub eg fun k => moveInto f (e.rounding i k) x.fmt (x.sub e i k)
    let n := (List.range v.vals.length).foldl (fun s k => s + ((v.vals[k]?).getD 0) * 2 ^ (k * f.bits)) 0
    ({ SinkOut.none with
      flags := qf ++ v.flags, events := a.events, touches := a.touches, stall := a.stall,
      writes := match a.x with
        | none => []
        | some t =>
          if f.bits = 4 then [{ va := va, pa := nibbleSpace t.pa half, data := leBytes (n % 16) 1, poison := false, pc := e.pc }]
          else [{ va := va, pa := t.pa, data := leBytes n size, poison := false, pc := e.pc }] }).with (x :: qs)

/-- The elements of a block of a block page, and the position of element i in its block (03 R82, R86). -/
def memBlock (f : Fmt) (geo base i : Nat) : Nat × Nat :=
  if f = .nx4 then (8 * 2 ^ geo, (2 * base + i) % (8 * 2 ^ geo)) else (32, (base + i) % 32)

/-- The block that holds element i of a store: the elements of the pass in it. -/
def storeBlock (f : Fmt) (geo base len i : Nat) : List Nat :=
  let (n, p) := memBlock f geo base i
  let lo := if p ≤ i then i - p else 0
  let hi := if i + n - p < len then i + n - p else len
  (List.range (hi - lo)).map fun j => lo + j

/-- The bytes of the codes of a block, by position. -/
def codeBytes (f : Fmt) (codes : List Nat) : List Byte :=
  if f = .nx4 then
    leBytes ((List.range codes.length).foldl (fun s k => s + (codes[k]?).getD 0 % 16 * 16 ^ k) 0) (codes.length / 2)
  else codes.map fun c => BitVec.ofNat 8 c

/-- One element of a store into a block page: its checks, its flags, and with the block's last element the whole block and
its side word (03 R80 to R82, 07 R188). -/
def Stg.storeBlockElem (g : Stg) (e : Entry) (d : PageAttr) (env : Env) (row : Nat → Env) (i : Nat) : SinkOut :=
  let f := decidedFmt e.fmt d
  let base := e.val.toNat
  let js := storeBlock f d.geo base e.len i
  let (n, p) := memBlock f d.geo base i
  let rows := js.map fun j => if j = i then env else row j
  let es : List (BlockElem × List Flag) := (List.zip js rows).map fun x => g.blockElem e e.a x.2 x.1
  let slot (q : Nat) : BlockElem := match es[q]? with | some x => x.1 | none => none
  let first := (js[0]?).getD i
  let at0 := if p ≤ i then 0 else p - i
  let full : List BlockElem := (List.range n).map fun q => if at0 ≤ q then slot (q - at0) else none
  let enc := blockEncode f e.sat full
  let (act, m) := g.active e env i
  let none_ := es.all fun x => x.1.isNone
  let (va, _, _) := placeOf f 0 base (i : Nat)
  let a : Got :=
    if act || (none_ && i == first) then
      let a := g.access e i va 1 .write (formatFault e.fmt e.eg true d)
      let sd := g.side e i f d.geo va .write
      { a with events := pickEvent (a.events ++ sd.events), touches := a.touches ++ sd.touches, stall := a.stall || sd.stall }
    else { x := none, events := [], touches := [], stall := false }
  let bb := blockBytes f d.geo
  let start := va / bb * bb
  let side := sideAddr g.tenant d.geo start
  let last := (js.getLast?).getD i == i
  let writes : List ElemWrite :=
    if last then
      match g.s.translate g.s.me start .write, g.s.translate g.s.me side .write with
      | .ok x, .ok y =>
        [{ va := start, pa := x.pa, data := codeBytes f enc.2.1, poison := false, pc := e.pc },
         { va := side, pa := y.pa, data := leBytes enc.1 2, poison := false, pc := e.pc }]
      | _, _ => []
    else []
  let src := g.operand e e.a env i
  ({ SinkOut.none with
    writes := writes, events := a.events, touches := a.touches ++ rows.flatMap envTouches,
    stall := a.stall || rows.any envStall,
    flags := if act then (match es[i - first]? with | some x => x.2 | none => ([] : List Flag)) ++ (enc.2.2[p]?).getD [] else [] }).with
      [m, if act then src.quiet else Src.all .n8 0]

/-- A store sink at element i. -/
def Stg.store (g : Stg) (e : Entry) (env : Env) (row : Nat → Env) (i : Nat) : SinkOut :=
  let plain : Bool := match e.op with | .vst .. => true | _ => false
  match e.source.bind fun s => s.decided with
  | none =>
    let (act, m) := g.active e env i
    if act then
      let (q, _, qs) := g.position e env i
      let (va, _, _) := placeOf e.fmt e.eg e.val.toNat q
      let a := g.undecided e i va .write
      ({ SinkOut.none with events := a.events, stall := a.stall }).with (m :: qs)
    else SinkOut.none.with [m]
  | some d =>
    if d.block && plain && e.eg == 0 then g.storeBlockElem e d env row i
    else
      let (act, m) := g.active e env i
      (if act then g.storeElem e d plain env i else SinkOut.none).with [m]

/-- vldx at element i: the value read, or the inactive element's, written to the cell that the handle names (07 R187). -/
def Stg.gather (g : Stg) (e : Entry) (env : Env) (i : Nat) : SinkOut :=
  let c := (e.c.ref.cell?).getD { addr := 0, len := 0, fmt := some e.fmt, eg := e.eg }
  let (act, m) := g.active e env i
  let (q, qf, qs) := g.position e env i
  match e.source.bind fun s => s.decided with
  | none =>
    if act then
      let (va, _, _) := placeOf e.fmt e.eg e.val.toNat q
      let a := g.undecided e i va .read
      ({ SinkOut.none with events := a.events, stall := a.stall }).with (m :: qs)
    else SinkOut.none.with [m]
  | some d =>
    let held : Entry := { e with fmt := decidedFmt e.fmt d, eg := if d.fe then 0 else e.eg }
    let o : NodeOut := if act then
        let o := (g.loadAt e i e.fmt d false e.val.toNat q).1
        { o with flags := qf ++ o.flags }
      else g.inactive held env i
    let w := g.cellWrite e c i o.vals
    ({ w with flags := o.flags, events := o.events ++ w.events, touches := o.touches ++ w.touches,
              stall := o.stall || w.stall }).with (m :: if act then qs.map Src.quiet else [])

/-! ## Lane-private stores (10 R238) -/

/-- vlpst and vlpst.b at element i. -/
def Stg.laneStore (g : Stg) (e : Entry) (env : Env) (i : Nat) (all : Bool) : SinkOut :=
  let (act, m) := g.active e env i
  if act then
    let w := e.fmt.bits / 8
    let size := w * 2 ^ e.eg
    let off : (Int × List Flag) × List Src :=
      if all then (((i : Nat), []), [])
      else
        let x := g.operand e e.b env i
        (indexRead e.sat x.fmt (x.sub e i 0), [x])
    let (o, lane) := lanePlace e i off.1.1 size e.val
    let x := g.operand e e.a env i
    let v := perSub e.eg fun k => moveInto e.fmt (e.rounding i k) x.fmt (x.sub e i k)
    let n := (List.range v.vals.length).foldl (fun s k => s + ((v.vals[k]?).getD 0) * 2 ^ (k * e.fmt.bits)) 0
    let ev := g.laneEvents e o w size true
    let lanes := if all then List.range 64 else [lane]
    ({ SinkOut.none with
      flags := off.1.2 ++ v.flags, events := ev,
      writes := if ev.isEmpty then lanes.map fun l =>
        { va := o.toNat, pa := laneSpace (laneKey g.s.me l o.toNat), data := leBytes n size, poison := false, pc := e.pc } else [] }).with
      (m :: x :: off.2)
  else SinkOut.none.with [m]

/-! ## Coverage (13 R301 to R307) -/

/-- The slot that element i addresses. -/
def covSlot (e : Entry) (c : Cov) (i : Nat) : Nat := (e.index i - c.gb).toNat

/-- Word n of an accumulator lies in a poisoned pair. -/
def Cov.poisoned (c : Cov) (n : Nat) : Bool := c.poison.contains (n / 2)

/-- FAULTVA of accumulator poison (13 R313). -/
def covFaultVa (j word_ : Nat) : Nat := 0x8000000100000000 + j * 2 ^ 16 + 4 * word_

/-- The FP32 value of a coverage operand, rounded under RNE (13 R303, R307). -/
def coverValue (f : Fmt) (v : Nat) : Nat × List Flag :=
  if f.held = .f32 then
    (v % 2 ^ 32, if (unpack Fmt.f32.layout v).signals then [.inv] else [])
  else convert .f32 Rounding.nearest f v

/-- The weight that cvwt stores (13 R303). -/
def weightOf (v : Nat) : Nat × List Flag :=
  match unpack Fmt.f32.layout v with
  | .nan _ _ | .inf _ => (0, [.inv])
  | .fin neg m _ _ => if m = 0 then (0, []) else if neg then (0, [.inv]) else (v, [])

/-- The gain term of a value against a best value and a weight (13 R304). -/
def gainTerm (x : FV) (b w : Nat) : Nat × List Flag :=
  let best := unpack Fmt.f32.layout b
  let weight := unpack Fmt.f32.layout w
  match x with
  | .nan _ q => (0, if q then [] else [.inv])
  | x =>
    if lessThan best x && lessThan (.zero false) weight then
      match subValues 0 x best with
      | (.inf _, _) => (0x7F800000, [])
      | (d, _) => finish .f32 Rounding.nearest (mulValues weight d)
    else (0, [])

/-- The accumulator that a coverage sink names. -/
def Stg.cov (g : Stg) (j : Nat) : Cov := Sparse.get Cov.reset g.s.myCore.covs j

/-- The weight of a slot: 1.0 in unweighted mode. -/
def Cov.weight (c : Cov) (s : Nat) : Nat := if c.wt then (Sparse.get 0 c.words (8192 + s)).toNat else 0x3F800000

/-- The poison that a read of a slot meets. -/
def Cov.slotPoison (c : Cov) (s : Nat) (weights : Bool) : Option Nat :=
  if c.poisoned s then some s else if weights && c.wt && c.poisoned (8192 + s) then some (8192 + s) else none

/-- A coverage sink at element i. -/
def Stg.cover (g : Stg) (e : Entry) (env : Env) (i j : Nat) (weights : Bool) (f : Cov → Nat → Src → Nat × List Flag) : SinkOut :=
  let c := g.cov j
  let s := covSlot e c i
  let x := g.operand e e.a env i
  let v := f c s x
  let ev : List PassEvent := match c.slotPoison s weights with
    | some w => [eventOf e .poison (covFaultVa j w) false]
    | none => []
  ({ SinkOut.none with val := some [v.1], flags := v.2, events := ev }).with [x]

/-! ## Comb operands (12 R276, R277, R280, R282) -/

/-- The codebook entry format of a step under .vc (12 R280). -/
def combBankFmt (t : Fmt) : Fmt := if t = .f16 then .f16 else .bf16

/-- The access of a K-class operand: the encoded element and its side word. -/
def Stg.encodedAt (g : Stg) (x : Entry) (d : PageAttr) (src : Source) (i : Nat) : NodeOut :=
  let f := decidedFmt x.fmt d
  let q : Int := match src.form with | .vld | .vldc => i | .vlds => src.stride.toInt * i | .vldb => 0
  let (va, size, half) := placeOf f 0 src.base.toNat q
  if src.base.toNat % size ≠ 0 then { NodeOut.of [0] with events := [eventOf x .align va false] }
  else
    let plain : Bool := src.form == .vld || src.form == .vldb
    let a := g.access x i va size .read (formatFault x.fmt x.eg plain d)
    let sd := g.side x i f d.geo va .read
    let ev := pickEvent (a.events ++ sd.events)
    let out := match ev, a.x, sd.x with
      | [], some p, some s =>
        let raw := leNat (g.bytes p 1)
        NodeOut.of [if f = Fmt.nx4 then raw / 16 ^ half % 16 else raw, leNat (g.bytes s 2)]
      | _, _, _ => NodeOut.of [0]
    { out with events := ev, touches := a.touches ++ sd.touches, stall := a.stall || sd.stall }

/-- A K-class operand of a step in a format: the encoded element and its side word; of an inactive element of the load, FP32
bits; a load whose decided format is another meets FORMAT at its element 0 (12 R277). -/
def Stg.encoded (g : Stg) (f : Fmt) (n : Nat) (x : Entry) (env : Env) (i : Nat) : NodeOut :=
  match x.source with
  | none => NodeOut.of [0]
  | some src =>
    match src.decided with
    | none => g.load x src env i
    | some d =>
      let (act, m) := g.active x env i
      if decidedFmt x.fmt d ≠ f then
        let o := g.load x src env i
        { o with events := if i = 0 then pickEvent (o.events ++ [eventOf x .format src.base.toNat false]) else o.events }
      else if !d.fe then g.load x src env i
      else match src.form with
        | .vldb => g.once x env i (carryOf g.carries n) fun _ => g.encodedAt x d src i
        | _ => if act then (g.encodedAt x d src i).with [m] else g.load x src env i

/-- One operand of a step at element i: values in FMT, expanded values, or encoded elements. -/
def Stg.combOperand (g : Stg) (e : Entry) (o : Operand) (env : Env) (i : Nat) : NodeOut :=
  match o.ref with
  | .stream _ => NodeOut.of []
  | r =>
    match o.bank with
    | some b =>
      let x := g.ref e r env i
      let v := g.expand e b (combBankFmt e.fmt) (indexValue e i x.fmt ((x.vals[0]?).getD 0))
      (NodeOut.of v.vals).with [x, v]
    | none =>
      match e.fmt.cls, r with
      | .k, .node n =>
        (match broodEntry g.brood n with
        | some x => g.encoded e.fmt n x env i
        | none => NodeOut.of [0])
      | .i, _ =>
        let x := g.ref e r env i
        (perSub e.eg fun k => patternRead e.fmt (e.rounding i k) x.fmt (x.sub e i k)).with [x]
      | _, _ =>
        let x := g.ref e r env i
        (perSub e.eg fun k => moveInto e.fmt (e.rounding i k) x.fmt (x.sub e i k)).with [x]

/-- A step's operand pass at element i: the values of a, their number first, then those of b. -/
def Stg.combElem (g : Stg) (e : Entry) (env : Env) (i : Nat) : SinkOut :=
  let a := g.combOperand e e.a env i
  let b := g.combOperand e e.b env i
  let kept (o : Operand) (x : NodeOut) : List (Nat × Carry) := match o.ref.node?, x.carry with
    | some n, some c => [(n, c)]
    | _, _ => []
  { val := some (a.vals.length :: a.vals ++ b.vals), writes := [], flags := a.flags ++ b.flags, events := a.events ++ b.events,
    touches := a.touches ++ b.touches, stall := a.stall || b.stall, carries := kept e.a a ++ kept e.b b }

/-! ## Every sink -/

/-- A sink at element i; mwrr takes sub-value 0 of an element that holds a group (DESIGN CHOICE, assumption log 106). -/
def Stg.sink (g : Stg) (e : Entry) (env : Env) (row : Nat → Env) (i : Nat) : SinkOut :=
  match e.op with
  | .vst .. | .vsts .. | .vstx .. => g.store e env row i
  | .vldx .. => g.gather e env i
  | .vforce .. =>
    let x := g.ref e e.a.ref env i
    let c := (e.c.ref.cell?).getD { addr := 0, len := 0, fmt := some e.fmt, eg := e.eg }
    (g.cellWrite e c i x.vals).with [x]
  | .vrsumo .. | .vrsumt .. | .vrmax .. | .vrmin .. | .vrargx .. | .vrbit .. => g.taking e env i (reductionValue e i)
  | .vext .. =>
    if i = e.val.toNat then
      let x := g.ref e e.a.ref env i
      ({ SinkOut.none with val := some [x.extracted.toNat] }).with [x]
    else SinkOut.none
  | .kpop .. | .kfirst .. | .bkany .. | .bknone .. =>
    let x := g.ref e e.a.ref env i
    ({ SinkOut.none with val := if (x.vals[0]?).getD 0 % 2 = 1 then some [1] else none }).with [x]
  | .vlpst .. => g.laneStore e env i false
  | .vlpstB .. => g.laneStore e env i true
  | .comba .. | .combs .. | .combi .. => g.combElem e env i
  | .mwrr .. =>
    let x := g.operand e e.a env i
    let v := if e.fmt.cls = .i then convert .i32 (e.rounding i 0) x.fmt (x.sub e i 0)
      else moveInto .f32 (e.rounding i 0) x.fmt (x.sub e i 0)
    ({ SinkOut.none with val := some [v.1], flags := v.2 }).with [x]
  | .cvprb .. => g.cover e env i e.dst2 true fun c s x =>
      gainTerm (plainValue x.fmt (x.sub e i 0)) (Sparse.get 0 c.words s).toNat (c.weight s)
  | .cvwt .. =>
    let x := g.operand e e.a env i
    let v := coverValue x.fmt (x.sub e i 0)
    let w := weightOf v.1
    ({ SinkOut.none with val := some [w.1], flags := v.2 ++ w.2 }).with [x]
  | .cvcom .. => g.cover e env i e.dst false fun _ _ x => coverValue x.fmt (x.sub e i 0)
  | _ => SinkOut.none

/-! ## Partial states (02 R67, 03 R100, R101) -/

/-- One addition of a tree sum at a level, whose absorbed partner stands at a position (03 R101, R92). -/
def treeAdd (e : Entry) (nearest : Bool) (level pos : Nat) (x y : Amount) : Amount × List (Flag × Word) :=
  let r : Rounding :=
    if nearest then Rounding.nearest
    else { mode := e.rm, sat := e.sat, w := if e.rm = 5 then (roundingQuad e.srseed e.srsalt (word pos) (3 + level)).w0 else 0 }
  let z := Amount.add r x y
  (.bits z.1, z.2.map fun f => (f, word pos))

/-- The partial of a level. -/
def partOf : List (Nat × Amount) → Nat → Option Amount
  | [], _ => none
  | (l, v) :: r, n => if l = n then some v else partOf r n

/-- Enters a completed subtree of a level, whose first position is a - 2^l + 1 for a the position just committed. -/
def treeCarry (e : Entry) (nearest : Bool) (a : Nat) :
    Nat → Nat → Option Amount → List (Nat × Amount) → List (Flag × Word) → List (Nat × Amount) × List (Flag × Word)
  | 0, _, _, parts, fl => (parts, fl)
  | fuel + 1, l, x, parts, fl =>
    if a.testBit l then
      let left := partOf parts l
      let rest := parts.filter fun p => decide (p.1 ≠ l)
      match left, x with
      | some u, some v =>
        let z := treeAdd e nearest l (a + 1 - 2 ^ l) u v
        treeCarry e nearest a fuel (l + 1) (some z.1) rest (fl ++ z.2)
      | some u, none => treeCarry e nearest a fuel (l + 1) (some u) rest fl
      | none, x => treeCarry e nearest a fuel (l + 1) x rest fl
    else
      match x with
      | some v => (parts ++ [(l, v)], fl)
      | none => (parts, fl)

/-- A tree sum with one position more, present or absent. -/
def treeStep (e : Entry) (nearest : Bool) (a : Nat) (x : Option Amount) (parts : List (Nat × Amount)) :
    List (Nat × Amount) × List (Flag × Word) := treeCarry e nearest a 65 0 x parts []

/-- The end of a tree sum whose next position would be a: what stands at each level is the left subtree of what stands
below. -/
def treeEnd (e : Entry) (nearest : Bool) (a : Nat) (parts : List (Nat × Amount)) :
    Nat → Nat → Option Amount → List (Flag × Word) → Option Amount × List (Flag × Word)
  | 0, _, x, fl => (x, fl)
  | fuel + 1, l, x, fl =>
    if a.testBit l then
      match partOf parts l, x with
      | some u, some v =>
        let z := treeAdd e nearest l (a / 2 ^ l * 2 ^ l) u v
        treeEnd e nearest a parts fuel (l + 1) (some z.1) (fl ++ z.2)
      | some u, none => treeEnd e nearest a parts fuel (l + 1) (some u) fl
      | none, x => treeEnd e nearest a parts fuel (l + 1) x fl
    else treeEnd e nearest a parts fuel (l + 1) x fl

/-- The state of a sink before its first element (02 R67). -/
def Entry.firstPart (e : Entry) : Part :=
  let float := e.fmt.cls == .f || e.fmt.cls == .k
  match e.op with
  | .vrsumo .. => if float then .run (.bits 0) false else .exact 0 Option.none
  | .vrsumt .. => if float then .tree [] else .exact 0 Option.none
  | .vrmax .. | .vrmin .. | .vrbit .. | .vext .. => .run (.bits 0) false
  | .vrargx .. => .arg (.bits 0) 0 false
  | .kpop .. | .bkany .. | .bknone .. => .count 0
  | .kfirst .. => .firstAt Option.none
  | .cvprb .. => .tree []
  | .comba .. | .combs .. | .combi .. | .mwrr .. => .operands [] []
  | _ => .none

/-- The greater element for vrargx: +0 above -0, NaNs out (07 R203). -/
def argBetter (e : Entry) (v best : Amount) : Bool :=
  match e.fmt.cls with
  | .f | .k => lessThan best.value v.value || (!lessThan v.value best.value && best.value.negZero && !v.value.negZero)
  | .i | .b => decide (computedInt e.fmt best.pattern < computedInt e.fmt v.pattern)

/-- Whether a reduction in an integer or floating-point class. -/
def Entry.float (e : Entry) : Bool := e.fmt.cls == .f || e.fmt.cls == .k

/-- The running value of a chain with one element more, and the flags that this raises (07 R201, R202, R204). -/
def chainStep (e : Entry) (at_ : Word) (cur n : Amount) (have_ : Bool) : Amount × List Flag :=
  match e.op with
  | .vrsumo .. =>
    if have_ then (let z := Amount.add (e.sumRounding at_) cur n; (.bits z.1, z.2)) else (n, [])
  | .vrmax .. | .vrmin .. =>
    let mx : Bool := match e.op with | .vrmax .. => true | _ => false
    if e.float then (if have_ then Amount.pick mx cur n else n.alone)
    else if have_ then (.bits (intArith (if mx then .max else .min) e.fmt false cur.pattern n.pattern).1, []) else (n, [])
  | .vrbit op _ _ _ =>
    if have_ then (.bits (bitArith (match op with | .and => .and | .or => .or | .xor => .xor) e.fmt cur.pattern n.pattern), [])
    else (n, [])
  | _ => (n, [])

/-- A sink's partial state with element i committed, and the flags that this raises (02 R67, 07 R201 to R204). -/
def Part.commit (e : Entry) (i : Nat) (v : Option (List Nat)) (p : Part) : Part × List (Flag × Word) :=
  let at_ := e.index i
  let here (fs : List Flag) : List (Flag × Word) := fs.map fun f => (f, at_)
  match p, v.bind (Amount.ofNats at_) with
  | .tree ts, x =>
    let r := treeStep e (match e.op with | .cvprb .. => true | _ => false) at_.toNat x ts
    (.tree r.1, r.2)
  | p, Option.none => (p, [])
  | .run cur have_, some n => let z := chainStep e at_ cur n have_; (.run z.1 true, here z.2)
  | .exact s _, some n => (.exact (s + computedInt e.fmt n.pattern) (some at_), [])
  | .arg best idx have_, some n =>
    if e.float && n.value.isNan then (p, if n.value.signals then here [.inv] else [])
    else if have_ then (if argBetter e n best then (.arg n i true, []) else (.arg best idx true, []))
    else (.arg n i true, [])
  | .count c, some _ => (.count (c + 1), [])
  | .firstAt f, some _ => (.firstAt (match f with | some k => some k | Option.none => some i), [])
  | .operands as bs, some _ =>
    let l := v.getD []
    (match e.op with
    | .mwrr .. => (.operands (as ++ [l]) bs, [])
    | _ =>
      let n := (l[0]?).getD 0
      (.operands (as ++ [(l.drop 1).take n]) (bs ++ [l.drop (1 + n)]), []))
  | .none, some _ => (.none, [])

/-- A running value delivered as FP32 bits at 64 bits; one that is no FP32 value is rounded at its own element (07 R200,
R201; DESIGN CHOICE, assumption log 90). -/
def Amount.deliver (e : Entry) (x : Amount) : Word × List (Flag × Word) :=
  let at_ : Word := match x with | .whole _ _ a => a | .bits _ => 0
  let z := x.single (e.aloneRounding at_)
  (word z.1, z.2.map fun f => (f, at_))

/-- The result of a sink whose elements have all committed, and the flags that its end raises (07 R200 to R205). -/
def Part.result (e : Entry) (draw : Nat) (p : Part) : Word × List (Flag × Word) :=
  match p with
  | .run v have_ =>
    (match e.op with
    | .vext .. => (word v.pattern, [])
    | .vrsumo .. => v.deliver e
    | .vrmax .. =>
      if e.float then (if have_ then v.deliver e else (0xFF800000, []))
      else (delivered e.fmt e.fmt.bits (if have_ then v.pattern else patternOf e.fmt.bits (intMin e.fmt.signed e.fmt.bits)), [])
    | .vrmin .. =>
      if e.float then (if have_ then v.deliver e else (0x7F800000, []))
      else (delivered e.fmt e.fmt.bits (if have_ then v.pattern else patternOf e.fmt.bits (intMax e.fmt.signed e.fmt.bits)), [])
    | .vrbit op _ _ _ =>
      if have_ then (delivered e.fmt e.fmt.bits v.pattern, []) else (if op = .and then -1 else 0, [])
    | _ => (word v.pattern, []))
  | .exact s last =>
    if e.sat then
      let z := deliverInt true e.fmt.signed 64 s
      (word z.1, z.2.map fun f => (f, last.getD (Config.freeWord draw)))
    else (wordOfInt s, [])
  | .tree ts =>
    let z := treeEnd e (match e.op with | .cvprb .. => true | _ => false) (e.elbase.toNat + e.len) ts 65 0 Option.none []
    let d := (z.1.getD (.bits 0)).deliver e
    (d.1, z.2 ++ d.2)
  | .arg _ i have_ => (if have_ then word i else -1, [])
  | .count c => (word c, [])
  | .firstAt f => (match f with | some i => word i | Option.none => -1, [])
  | .operands _ _ | .none => (0, [])

end Sys2Proof.Machine
end

