-- ==== Sys2Proof/Machine/Units.lean ====
section
/-!
DEFINITION. The core's units and the effects that wait behind pending sinks: codebook banks (11), accumulator tiles and
the arithmetic of a step (12 R278, R279), coverage configuration (13 R300), bindings (15 R337), and the order in which held
effects perform (02 R68, 05 R149, 11 R255, 12 R281).
-/

namespace Sys2Proof.Machine

/-! ## Held effects -/

/-- A scalar store. -/
def Held.isStore (h : Held) : Bool :=
  match h.instr with
  | .stb .. | .sth .. | .stw .. | .std .. => true
  | _ => false

/-- A forager transfer, which FORAGER_LAUNCH launches (15 R317). -/
def Held.isTransfer (h : Held) : Bool :=
  match h.instr with
  | .bxfer .. => true
  | _ => false

/-- No sink, and no pass, stands before a held effect in program order (02 R59, R68). -/
def Ctx.mayPerform (c : Ctx) (h : Held) : Bool := !(c.items.any fun p => decide (p.no < h.no))

/-- No held effect stands before an item in program order. -/
def Ctx.heldBefore (c : Ctx) (p : Pend) : Bool := c.held.any fun h => decide (h.no < p.no)

/-! ## Banks (11 R247, R261 to R264) -/

/-- A bank of the moving context's core. -/
def State.bank (s : State) (b : Nat) : Bank := Sparse.get Bank.reset s.myCore.banks b

/-- Changes a bank. -/
def State.setBank (s : State) (b : Nat) (f : Bank → Bank) : State :=
  s.setMyCore fun k => { k with banks := Sparse.set Bank.reset k.banks b (f (Sparse.get Bank.reset k.banks b)) }

/-- Entry x loaded from memory: its bytes, poison and VALID bit. -/
def Bank.loadEntry (b : Bank) (x : Nat) (data : List Byte) (poison : Nat) : Bank :=
  { b with bytes := Sparse.setRun 0 b.bytes (16 * x) data,
           poison := (b.poison &&& ~~~(BitVec.ofNat 512 (3 * 2 ^ (2 * x)))) ||| BitVec.ofNat 512 (poison % 4 * 2 ^ (2 * x)),
           valid := b.valid ||| BitVec.ofNat 256 (2 ^ x), dirty := true }

/-- cbwr: one 8-byte word, by its selector (11 R263). -/
def Bank.writeWord (b : Bank) (sel v : Word) : Bank :=
  let n := 2 * (sel.toNat % 256) + sel.toNat / 256 % 2
  { b with bytes := Sparse.setRun 0 b.bytes (8 * n) (leBytes v.toNat 8),
           poison := b.poison &&& ~~~(BitVec.ofNat 512 (2 ^ n)), dirty := true }

/-- cbval: one word of the valid mask (11 R264). -/
def Bank.writeValid (b : Bank) (w : Nat) (m : Word) : Bank :=
  { b with valid := (b.valid &&& ~~~(BitVec.ofNat 256 ((2 ^ 64 - 1) * 2 ^ (64 * (w % 4))))) |||
             BitVec.ofNat 256 (m.toNat * 2 ^ (64 * (w % 4))), dirty := true }

/-- The bank that a held effect writes. -/
def Held.bank? (h : Held) : Option BankReg :=
  match h.instr with
  | .cbld d _ _ | .cbwr d _ _ | .cbval d _ _ => some d
  | _ => none

/-- WP of a bank: a bank write is held (11 R255). -/
def Ctx.bankPending (c : Ctx) (b : BankReg) : Bool := c.held.any fun h => h.bank? == some b

/-- The graph of an item expands through a bank (11 R257). -/
def Pend.expands (p : Pend) (b : BankReg) : Bool :=
  let roots := (if p.implicit then [] else [p.entry]) ++ p.stages.map fun t => t.node
  (reached p.after.brood roots).any fun n => match broodEntry p.after.brood n with
    | some e => e.operands.any fun o => o.bank == some b
    | none => false

/-- RC of a bank: the passes, pending or running, whose graph expands through it (11 R257). -/
def Ctx.bankReaders (c : Ctx) (b : BankReg) : Nat := (c.items.filter fun p => p.expands b).length

/-! ## Accumulator tiles (12 R270, R291 to R294) -/

/-- The key of a tile element. -/
def tileKey (n r c : Nat) : Nat := 4096 * n + 64 * r + c

/-- A tile element's bits. -/
def Core.tile (k : Core) (n r c : Nat) : Nat := (Sparse.get 0 k.tiles (tileKey n r c)).toNat

/-- A run of elements of one tile row, from column 0. -/
def Core.setTileRow (k : Core) (n r : Nat) (vs : List Nat) : Core :=
  { k with tiles := Sparse.setRun 0 k.tiles (tileKey n r 0) (vs.map fun v => BitVec.ofNat 32 v) }

/-- Every element of a tile zero (12 R291). -/
def Core.zeroTile (k : Core) (n : Nat) : Core := { k with tiles := Sparse.clearRun k.tiles (tileKey n 0 0) 4096 }

/-- The virtual address of tile row i (12 R294). -/
def tileRowVa (base stride : Word) (i : Nat) : Word := base + word i * stride

/-- The physical pieces of the 256 bytes of a tile row, which cross at most one page: virtual address, physical address and
size, from the physical addresses of its first and last byte. -/
def rowPieces (va first last : Nat) : List (Nat × Nat × Nat) :=
  let n := 4096 - va % 4096
  if 256 ≤ n then [(va, first, 256)] else [(va, first, n), (va + n, last + n - 255, 256 - n)]

/-- The pieces of each row of an mld or mst: args are the base, the stride, a filler, then both physical addresses of each
row. -/
def tilePieces (args : List Word) (i : Nat) : List (Nat × Nat × Nat) :=
  match args with
  | base :: stride :: _ :: ps =>
    rowPieces (tileRowVa base stride i).toNat (((ps[2 * i]?).getD 0).toNat) (((ps[2 * i + 1]?).getD 0).toNat)
  | _ => []

/-- Splits bytes into 4-byte little-endian words. -/
def wordsFrom : Nat → List Byte → List Nat
  | 0, _ => []
  | n + 1, bs => leNat (bs.take 4) :: wordsFrom n (bs.drop 4)

/-- Bytes that a unit of the core reads as a scalar load reads them; another package's are free values, whose answer the checks at
issue have taken (DESIGN CHOICE, assumption log 9). -/
def State.unitBytes (s : State) (va pa n : Nat) : List Byte :=
  match region pa with
  | .pod => (s.podRead s.me va pa n).getD ((List.range n).map fun j => Config.remoteByte (s.freeCtr * 2 ^ 64 + va + j))
  | _ => s.coreBytes s.me.core pa n

/-- mld performs: all 64 rows of a tile from memory (12 R294). -/
def State.loadTile (s : State) (n : Nat) (pc : Word) (args : List Word) : State :=
  (List.range 64).foldl (fun s i =>
    let ps := tilePieces args i
    let s := ps.foldl (fun s p => s.loaded s.me.core p.2.1 p.2.2 pc) s
    let bytes := ps.flatMap fun p => s.unitBytes p.1 p.2.1 p.2.2
    (if ps.any fun p => region p.2.1 == .pod then s.draw else s).setMyCore fun k => k.setTileRow n i (wordsFrom 64 bytes)) s

/-- A poisoned word that mld would read: its address. -/
def State.tilePoison (s : State) (args : List Word) : Option Word :=
  ((List.range 64).flatMap fun i => (tilePieces args i).flatMap fun p =>
    (List.range (p.2.2 / 4)).filterMap fun j =>
      if s.corePoison s.me.core (p.2.1 + 4 * j) 4 then some (word ((p.1 + 4 * j) / 8 * 8)) else none).head?

/-- mst performs: all 64 rows of a tile to memory (12 R294). -/
def State.storeTile (s : State) (n : Nat) (pc : Word) (args : List Word) : State :=
  (List.range 64).foldl (fun s i =>
    let bytes := (List.range 64).flatMap fun c => leBytes (s.myCore.tile n i c) 4
    ((tilePieces args i).foldl (fun (r : State × List Byte) p =>
      (r.1.performAtCore (r.1.me.atPc pc) (word p.1) p.2.1 (r.2.take p.2.2) false, r.2.drop p.2.2)) (s, bytes)).1) s

/-! ## The arithmetic of a step (12 R278, R279) -/

/-- The exact value of an encoded block element (12 R277). -/
def blockExact (f : Fmt) (code side : Nat) : FV :=
  let scale := side % 256
  let x : Int := (scale : Int) - 127
  if scale = 255 then .nan false true
  else if f = .nx4 then
    if code % 16 = 8 then (unpack Fmt.e4m3.layout (side / 256 % 256)).scale x
    else (unpack e2m1 (code % 16)).scale x
  else (unpack Fmt.e4m3.layout (code % 256)).scale x

/-- The scalar values of one operand element (12 R276, R277, R280). -/
def combValues (t : Fmt) (expanded : Bool) (vals : List Nat) : List FV :=
  if expanded then vals.map fun v => plainValue (combBankFmt t) v
  else if t.cls == .k then
    match vals with
    | [code, side] => [blockExact t code side]
    | _ => vals.map fun v => unpack Fmt.f32.layout v
  else vals.map fun v => plainValue t v

/-- An infinite value's sign. -/
def FV.infSign : FV → Option Bool
  | .inf n => some n
  | _ => none

/-- A zero of either sign. -/
def FV.isZero : FV → Bool
  | .fin _ m _ _ => m == 0
  | _ => false

/-- One element of comba or combs: the old bits and the pairs of values, to new bits and flags (12 R278). -/
def combUpdate (minus : Bool) (old : Nat) (terms : List (FV × FV)) : Nat × List Flag :=
  let x := unpack Fmt.f32.layout old
  let all := x :: terms.flatMap fun t => [t.1, t.2]
  let ps := terms.map fun t => let p := (mulValues t.1 t.2).1; if minus && !p.isNan then p.neg else p
  let es := x :: ps
  let pos := es.any fun v => v.infSign == some false
  let neg := es.any fun v => v.infSign == some true
  let bad := (terms.any fun t => !t.1.isNan && !t.2.isNan && (mulValues t.1 t.2).1.isNan) || (pos && neg)
  match all.find? FV.isNan with
  | some (.nan neg _) => (canonicalNan Fmt.f32.layout neg, if bad || all.any FV.signals then [.inv] else [])
  | _ =>
    if bad then (canonicalNan Fmt.f32.layout false, [.inv])
    else if pos then (infinity Fmt.f32.layout false, [])
    else if neg then (infinity Fmt.f32.layout true, [])
    else
      let z := ps.foldl (fun a p =>
        match a, p with
        | .fin n1 m1 e1 _, .fin n2 m2 e2 _ => addFinite 0 n1 m1 e1 n2 m2 e2
        | a, _ => a) x
      if z.isZero then (if es.all FV.negZero then 2 ^ 31 else 0, [])
      else roundTo Fmt.f32.layout Rounding.nearest z

/-- One element of combi (12 R279). -/
def combiUpdate (sat : Bool) (old : Nat) (terms : List (Int × Int)) : Nat × List Flag :=
  deliverInt sat true 32 (terms.foldl (fun a t => a + t.1 * t.2) (signedOf 32 old))

/-- The k values of a row or column index of an operand. -/
def slotValues {α : Type} (k : Nat) (vs : List α) (r : Nat) : List α := (vs.drop (r * k)).take k

/-- The rank of a step format (12 R275). -/
def combRank (t : Fmt) : Nat :=
  match t with
  | .bf16 | .f16 => 1
  | .e5m2 | .e4m3 | .mx8 | .i8 | .n8 => 2
  | .nx4 => 4
  | _ => 0

/-- Rows of a tile updated one after another; the flags that they raise. -/
def Core.combRows (k : Core) (n m : Nat) (upd : Nat → Nat → Nat → Nat × List Flag) : List Nat → Core × List Flag
  | [] => (k, [])
  | r :: rs =>
    let outs := (List.range m).map fun c => upd r c (k.tile n r c)
    let rest := (k.setTileRow n r (outs.map fun o => o.1)).combRows n m upd rs
    (rest.1, outs.flatMap (fun o => o.2) ++ rest.2)

/-- Rows lo to hi - 1 of a step, from the scalar values of its operands (12 R278, R279). -/
def Core.step (k : Core) (e : Entry) (m : Nat) (lo hi : Nat) (as bs : List (List Nat)) (expanded : Bool) : Core × List Flag :=
  let rank := combRank e.fmt
  let rows := (List.range (hi - lo)).map fun i => lo + i
  match e.op with
  | .combi .. =>
    let av := as.flatten.map fun v => intOf e.fmt v
    let bv := bs.flatten.map fun v => intOf e.fmt v
    k.combRows e.dst m (fun r c old => combiUpdate e.sat old (List.zip (slotValues rank av r) (slotValues rank bv c))) rows
  | op =>
    let minus : Bool := match op with | .combs .. => true | _ => false
    let av := as.flatMap fun v => combValues e.fmt false v
    let bv := bs.flatMap fun v => combValues e.fmt expanded v
    k.combRows e.dst m (fun r c old => combUpdate minus old (List.zip (slotValues rank av r) (slotValues rank bv c))) rows

/-! ## Coverage configuration (13 R300) -/

/-- An accumulator of the moving context's core. -/
def State.cov (s : State) (j : Nat) : Cov := Sparse.get Cov.reset s.myCore.covs j

/-- Changes an accumulator. -/
def State.setCov (s : State) (j : Nat) (f : Cov → Cov) : State :=
  s.setMyCore fun k => { k with covs := Sparse.set Cov.reset k.covs j (f (Sparse.get Cov.reset k.covs j)) }

/-- What cvset does to an accumulator. -/
def Cov.configure (c : Cov) (cfg gb : Word) : Cov :=
  let n := field cfg 0 16
  let wt := bit cfg 16
  let init := field cfg 32 32
  let init := if init = 2 ^ 31 then 0 else init
  let rest := c.words.filter fun e => !(decide (e.1 < n) || (wt && decide (8192 ≤ e.1) && decide (e.1 < 8192 + n)))
  let low : List (Nat × Word32) := if init = 0 then [] else (List.range n).map fun i => (i, BitVec.ofNat 32 init)
  let high : List (Nat × Word32) := if wt then (List.range n).map fun i => (8192 + i, 0x3F800000) else []
  { words := low ++ (rest.filter fun e => decide (e.1 < 8192)) ++ high ++ rest.filter fun e => decide (8192 ≤ e.1),
    n := n, wt := wt, gb := gb,
    poison := c.poison.filter fun p => !(decide (2 * p < n) || (wt && decide (4096 ≤ p) && decide (2 * p < 8192 + n))) }

/-- A word of an accumulator written; a pair written in part keeps its poison (05 R150). -/
def Cov.write (c : Cov) (n v : Nat) : Cov := { c with words := Sparse.set 0 c.words n (BitVec.ofNat 32 v) }

/-- An accumulator as program order has left it: with the held cvset of the context applied (13 R301, R309). -/
def State.covNow (s : State) (j : Nat) : Cov :=
  s.me.held.foldl (fun c h =>
    match h.instr, h.args with
    | .cvset d _ _, [cfg, gb] => if d.toNat = j then c.configure cfg gb else c
    | _, _ => c) (s.cov j)

/-- cvcom at a slot (13 R307). -/
def Cov.commit (c : Cov) (s v : Nat) : Cov :=
  let x := unpack Fmt.f32.layout v
  if !x.isNan && lessThan (unpack Fmt.f32.layout (Sparse.get 0 c.words s).toNat) x then c.write s v else c

/-! ## Bindings (15 R337, R338) -/

/-- An entry entered; one equal to an entry of the context changes nothing. -/
def bindEntry (b : Binding) (bs : List Binding) : List Binding := if bs.contains b then bs else bs ++ [b]

/-- The entries of a context's core as program order has left them. -/
def State.bindsNow (s : State) : List Binding :=
  s.me.held.foldl (fun bs h =>
    match h.instr, h.args with
    | .bind .., [o, b, l] => bindEntry { ctx := s.me.id, obj := o, base := b, len := l } bs
    | .unbind _, [o] => bs.filter fun x => !(x.ctx == s.me.id && x.obj == o)
    | _, _ => bs) s.myCore.binds

/-! ## Performing -/

/-- A held mld that meets poison: the context returns to it, everything after it is discarded, and it stops with POISON (12
R294). -/
def Ctx.stopHeld (h : Held) (va : Word) (c : Ctx) : Ctx :=
  { c with a := { h.before with rep := none }, pend := c.pend.filter fun p => decide (p.no < h.no),
           held := c.held.filter fun x => decide (x.no < h.no), wait := .none, ahead := [], softError := some va }

/-- The comb is free again where what took it is discarded: a context owns it while its MVL is not 0, and until a held msetvl of 0 has
performed (01 R32, 12 R271, R272). -/
def State.settleComb (s : State) : State :=
  if s.myCore.combOwner = some s.me.pos ∧ s.me.a.csr.mvl = 0 ∧ !(s.me.held.any fun h => match h.instr with | .msetvl .. => true | _ => false) then
    s.setMyCore fun k => { k with combOwner := none }
  else s

/-- A held effect performs. -/
def State.perform (s : State) (h : Held) : State :=
  match h.instr, h.args with
  | .stb .., [va, pa, v, n] | .sth .., [va, pa, v, n] | .stw .., [va, pa, v, n] | .std .., [va, pa, v, n]
  | .mrdr .., [va, pa, v, n] | .mrdc .., [va, pa, v, n] | .cvrd .., [va, pa, v, n] | .bbtest .., [va, pa, v, n] =>
    s.performAtCore (s.me.atPc h.pc) va pa.toNat (leBytes v.toNat n.toNat) false
  | .cbld d _ _, a :: n :: _ :: _ :: ps =>
    (List.range n.toNat).foldl (fun s x =>
      let pa := ((ps[x]?).getD 0).toNat
      let s := s.loaded s.me.core pa 16 h.pc
      let poison := bitOf (s.corePoison s.me.core pa 8) + 2 * bitOf (s.corePoison s.me.core (pa + 8) 8)
      let bytes := s.unitBytes (a.toNat + 16 * x) pa 16
      (if region pa = .pod then s.draw else s).setBank d.toNat fun b => b.loadEntry x bytes poison) s
  | .cbst d _ _, a :: n :: _ :: _ :: ps =>
    (List.range (2 * n.toNat)).foldl (fun s w =>
      let pa := ((ps[w / 2]?).getD 0).toNat + w % 2 * 8
      let b := s.bank d.toNat
      s.performAtCore (s.me.atPc h.pc) (a + word (8 * w)) pa (Sparse.getRun 0 b.bytes (8 * w) 8) (b.poison.getLsbD w)) s
  | .cbwr d _ _, [sel, v] => s.setBank d.toNat fun b => b.writeWord sel v
  | .cbval d _ _, [w, m] => s.setBank d.toNat fun b => b.writeValid w.toNat m
  | .msetvl .., _ => s.setMyCore fun k => { k with combOwner := if k.combOwner = some s.me.pos then none else k.combOwner }
  | .mzero d, _ => s.setMyCore fun k => k.zeroTile d.toNat
  | .mst d _ _, args => s.storeTile d.toNat h.pc args
  | .mld d _ _, args =>
    (match s.tilePoison args with
    | some va => { s with me := s.me.stopHeld h va }.settleComb
    | none => s.loadTile d.toNat h.pc args)
  | .cvset d _ _, [cfg, gb] => s.setCov d.toNat fun c => c.configure cfg gb
  | .bbini .., va :: pa :: e :: _ :: _ =>
    s.performAtCore (s.me.atPc h.pc) va pa.toNat (leBytes (e.toNat * 2 ^ 48 + e.toNat * 2 ^ 32) 8 ++ List.replicate 56 0) false
  | .bind .., [o, b, l] => s.setMyCore fun k => { k with binds := bindEntry { ctx := s.me.id, obj := o, base := b, len := l } k.binds }
  | .unbind _, [o] => s.setMyCore fun k => { k with binds := k.binds.filter fun x => !(x.ctx == s.me.id && x.obj == o) }
  | _, _ => s

/-- The oldest held effects perform while nothing stands before them; a late scalar store waits for its turn. -/
def State.drainN : Nat → State → State
  | 0, s => s
  | n + 1, s =>
    match s.me.held with
    | [] => s
    | h :: r =>
      if s.me.mayPerform h && !h.isTransfer && !(s.me.lag && h.isStore) then
        State.drainN n (({ s with me := { s.me with held := r } }).perform h)
      else s

/-- Every held effect that may perform now, in program order. -/
def State.drain (s : State) : State := s.drainN s.me.held.length

/-- An effect of the instruction that issues is held, and performs at once where nothing stands before it. -/
def State.hold (s : State) (i : Instr) (args : List Word) (footprint : List Range) : State :=
  let h : Held := { no := s.me.issueNo, instr := i, pc := s.me.a.ipc, args := args, footprint := footprint, before := s.me.a }
  ({ s with me := { s.me with held := s.me.held ++ [h] } }).drain

/-- The oldest held effect of a context performs at its core, late or not. -/
def State.performOldest (s : State) : State :=
  match s.me.held with
  | [] => s
  | h :: r =>
    if s.me.mayPerform h && !h.isTransfer then (({ s with me := { s.me with held := r } }).perform h).drain else s

end Sys2Proof.Machine
end

