-- ==== Sys2Proof/Machine/ScalarMemory.lean ====
section
/-!
DEFINITION. Scalar loads, stores, atomics and fences (05 R147 to R157), with the acquires and releases of every layer of the
memory model (02 R61, 10 R246, 15 R339 to R344, 21 R397, 22 R422).
-/

namespace Sys2Proof

/-- A scope of quad or wider (05 R156, 15 R343). -/
def Scope.wide (sc : Scope) : Bool := decide (2 ≤ sc.code)

/-- The order of an atomic has an acquire, or a release. -/
def AmoOrder.acquires (o : AmoOrder) : Bool := o == .acq || o == .ar
@[inherit_doc AmoOrder.acquires] def AmoOrder.releases (o : AmoOrder) : Bool := o == .rel || o == .ar

end Sys2Proof

namespace Sys2Proof.Machine

/-! ## Acquire and release -/

/-- The regions that the moving context has bound to an object (15 R339). -/
def State.boundTo (s : State) (o : Word) : List Range :=
  (s.bindsNow.filter fun b => b.ctx == s.me.id && b.obj == o).map fun b => Range.mk b.base.toNat b.len.toNat

/-- The physical lines of a range of virtual addresses; a page that does not translate is skipped. -/
def State.rangeLines (s : State) (r : Range) : List Nat :=
  let pages := (List.range ((r.base % 4096 + r.len + 4095) / 4096)).map fun i => r.base / 4096 + i
  pages.flatMap fun p =>
    let lo := max r.base (4096 * p)
    let hi := min (r.base + r.len) (4096 * p + 4096)
    match s.translate s.me (lo % 2 ^ 64) .read with
    | .ok x => if lo < hi then linesOf x.pa (hi - lo) else []
    | .error _ => []

/-- An acquire: no later load has run ahead of it; at quad or wider the data cache is invalidated, whole or in the bound
regions and the object's line, and fetched rows not yet assigned are discarded (05 R156, 12 R287, 15 R339). -/
def State.acquire (s : State) (sc : Scope) (obj : Option Word) : State :=
  let s := { s with me := { s.me with ahead := [] } }
  if sc.wide && !s.me.nurse then
    let bound := match obj with | some o => s.boundTo o | none => []
    let s := match bound, obj with
      | r :: rs, some o =>
        let ls := ((r :: rs) ++ [Range.mk o.toNat 8]).flatMap s.rangeLines
        s.invalidate s.me.core fun l => ls.contains l
      | _, _ => s.invalidate s.me.core fun _ => true
    { s with me := { s.me with rows := s.me.rows.filter fun r => !s.me.unassigned r } }
  else s

/-- A write on the store path that a release waits for: at quad or wider every write of the context, narrowed by its
bindings of the object; at any scope one whose home lies on another die or in another package (15 R339, R343, 21 R397). -/
def State.releaseWaits (s : State) (sc : Scope) (obj : Option Word) (w : PathWrite) : Bool :=
  w.of s.me &&
    ((match region w.pa with | .pod => true | r => r.die? != some s.me.die) ||
      (sc.wide &&
        (match obj with
        | some o => (match s.boundTo o with
          | [] => true
          | bs => bs.any fun b => b.overlaps { base := w.va.toNat, len := w.data.length })
        | none => true)))

/-- A pod-window write or atomic of a context that has not been answered (22 R422). -/
def State.podPending (s : State) (c : Ctx) : Bool :=
  s.pkg.requests.any fun r => r.ctx == c.id && r.launch == c.launch && (match r.kind with | .read _ => false | _ => true)

/-- Every earlier write is visible to the parties of the scope (05 R156, 15 R343, 21 R397, 22 R422); until then the
instruction waits, at a narrow scope too (DESIGN CHOICE, assumption log 110). -/
def State.afterWrites (s : State) (sc : Scope) (obj : Option Word) (k : State → Res) : Res :=
  if s.me.held.isEmpty && !(s.myCore.path.any fun w => s.releaseWaits sc obj w) && !s.podPending s.me then k s
  else .next s.wait

/-- A release: the load nodes that handles reach are materialised, every earlier sink has completed, and every earlier write
is visible to the parties of the scope (02 R61). -/
def State.release (s : State) (sc : Scope) (obj : Option Word) (k : State → Res) : Res :=
  s.forRelease fun s => s.afterWrites sc obj k

/-! ## The pod window (22 R421, R422) -/

/-- The bytes that a request carries. -/
def PodKind.bytes : PodKind → Nat
  | .read _ => 0
  | .write d => d.length
  | .atomic .. => 16

/-- A request of a context leaves for another package, with the pod tenant of its tenant (22 R420). -/
def State.sendPod (s : State) (c : Ctx) (va : Word) (pa : Nat) (k : PodKind) (i : Instr) : State :=
  let r : PodRequest := { id := s.pkg.nextRequest, ctx := c.id, tenant := c.a.csr.tenant, ptid := s.ptid c.a.csr.tenant, die := c.die,
                          launch := c.launch, va := va, pa := pa, kind := k, instr := i }
  { s with pkg := { s.pkg with requests := s.pkg.requests ++ [r], nextRequest := s.pkg.nextRequest + 1 } }.setDie c.die fun d =>
    d.count 6 k.bytes

/-- The moving context waits for the answer to a request, which completes the instruction. -/
def State.askPod (s : State) (i : Instr) (x : Xlat) (k : PodKind) : Res :=
  let t := s.sendPod s.me (word x.va) x.pa k i
  .next { t with me := { t.me with wait := .remote s.pkg.nextRequest } }

/-- Earlier writes of the context to the same 64-byte line of another package are not yet answered. -/
def State.lineBusy (s : State) (pa : Nat) : Bool :=
  (s.myCore.path.any fun w => w.of s.me && w.pa / 64 == pa / 64) ||
    (s.pkg.requests.any fun r => r.ctx == s.me.id && r.launch == s.me.launch && r.pa / 64 == pa / 64)

/-! ## Loads (05 R147 to R149, R151) -/

/-- A load reads at its home: an acquire at quad or wider (15 R341). -/
def readsHome (acq : Option Scope) : Bool := match acq with | some sc => sc.wide | none => false

/-- Some write of the core on its way to memory overlaps a physical range. -/
def State.pathOverlaps (s : State) (pa n : Nat) : Bool := s.myCore.path.any fun w => spansOverlap w.pa w.data.length pa n

/-- Some held scalar store of the context overlaps a physical range. -/
def State.heldOverlaps (s : State) (pa n : Nat) : Bool :=
  (List.range n).any fun i => (heldByte s.me.held (pa + i)).isSome

/-- Every byte of a physical range comes from held stores. -/
def State.heldCovers (s : State) (pa n : Nat) : Bool :=
  (List.range n).all fun i => (heldByte s.me.held (pa + i)).isSome

/-- A loaded value is delivered, the acquire performed, and the instruction completes. -/
def State.loadDone (s : State) (d : SReg) (v : Word) (acq : Option Scope) (va : Word) : Res :=
  let s := s.setReg d v
  .next (match acq with | some sc => s.acquire sc (some va) | none => s).apart.retire

/-- A scalar load of a size (05 R147). -/
def State.load (s : State) (i : Instr) (size : Nat) (sx : Bool) (acq : Option Scope) (off : Word) (base : BaseReg) (d : SReg) :
    Res :=
  s.reading [sregOfBase base] fun s =>
    let va := s.reg (sregOfBase base) + off
    s.access va size .read fun x s =>
      let r : Range := { base := va.toNat, len := size }
      let home := readsHome acq
      if s.me.sinkStores r || s.me.heldOpen r || (home && (s.heldOverlaps x.pa size || s.pathOverlaps x.pa size)) then
        .next s.wait
      else if !s.heldCovers x.pa size &&
          (if home then s.homePoison x.pa size else s.corePoison s.me.core x.pa size) then
        s.trapAtIssue .poison (word (va.toNat / 8 * 8)) false
      else s.reaching x .read fun s =>
        let t := (s.use s.me x .read).traceHits va.toNat size .read
        if region x.pa = .pod ∧ s.heldCovers x.pa size = false then
          if s.lineBusy x.pa || s.heldOverlaps x.pa size then .next s.wait else t.askPod i x (.read size)
        else
          let v := extend sx size (leNat (if home then s.readHome s.me x.pa size else s.loadBytes x.pa size))
          let t := { t with me := t.me.useAhead x.pa size }
          (if home then t.readsAtHome x.pa size s.me.a.ipc .rsp else t.loaded s.me.core x.pa size s.me.a.ipc).loadDone d v acq va

/-- A byte offset of a scaled offset field (05 R147). -/
def scaledOff {n : Nat} (off : BitVec n) (size : Nat) : Word := off.signExtend 64 * word size

/-- ldb (R147). -/
def execLdb (sx : Bool) (acq : Option Scope) (off : BitVec 6) (base : BaseReg) (d : SReg) (s : State) : Res :=
  s.load (.ldb sx acq off base d) 1 sx acq (scaledOff off 1) base d
/-- ldh (R147). -/
def execLdh (sx : Bool) (acq : Option Scope) (off : BitVec 6) (base : BaseReg) (d : SReg) (s : State) : Res :=
  s.load (.ldh sx acq off base d) 2 sx acq (scaledOff off 2) base d
/-- ldw (R147). -/
def execLdw (sx : Bool) (acq : Option Scope) (off : BitVec 6) (base : BaseReg) (d : SReg) (s : State) : Res :=
  s.load (.ldw sx acq off base d) 4 sx acq (scaledOff off 4) base d
/-- ldd (R147). -/
def execLdd (acq : Option Scope) (off : BitVec 6) (base : BaseReg) (d : SReg) (s : State) : Res :=
  s.load (.ldd acq off base d) 8 false acq (scaledOff off 8) base d

/-! ## Stores (05 R147 to R151, 10 R235) -/

/-- The store enters the held effects, and performs at once where nothing stands before it. -/
def State.putStore (s : State) (i : Instr) (x : Xlat) (size : Nat) (v : Word) : Res :=
  if 32 ≤ (s.me.held.filter Held.isStore).length then .next s.wait
  else
    let s := (s.use s.me x .write).traceHits x.va size .write
    .next (s.hold i [word x.va, word x.pa, v, word size] [{ base := x.va, len := size }]).apart.retire

/-- A scalar store of a size (05 R147). -/
def State.store (s : State) (i : Instr) (size : Nat) (rel : Option Scope) (off : Word) (base : BaseReg) (d : SReg) : Res :=
  s.reading [sregOfBase base, d] fun s =>
    let va := s.reg (sregOfBase base) + off
    s.access va size .write fun x s =>
      match s.reach s.me x.pa with
      | .fails c => s.trapAtIssue c va true
      | .here | .waits _ _ =>
        s.guardWrite [{ base := va.toNat, len := size }] fun s =>
          match rel with
          | some sc => s.release sc (some va) fun s => s.putStore i x size (s.reg d)
          | none => s.putStore i x size (s.reg d)

/-- stb (R147). -/
def execStb (rel : Option Scope) (off : BitVec 7) (base : BaseReg) (d : SReg) (s : State) : Res :=
  s.store (.stb rel off base d) 1 rel (scaledOff off 1) base d
/-- sth (R147). -/
def execSth (rel : Option Scope) (off : BitVec 7) (base : BaseReg) (d : SReg) (s : State) : Res :=
  s.store (.sth rel off base d) 2 rel (scaledOff off 2) base d
/-- stw (R147). -/
def execStw (rel : Option Scope) (off : BitVec 7) (base : BaseReg) (d : SReg) (s : State) : Res :=
  s.store (.stw rel off base d) 4 rel (scaledOff off 4) base d
/-- std (R147). -/
def execStd (rel : Option Scope) (off : BitVec 7) (base : BaseReg) (d : SReg) (s : State) : Res :=
  s.store (.std rel off base d) 8 rel (scaledOff off 8) base d

/-! ## Atomics (05 R153 to R155) -/

/-- An atomic that writes performs at a home that the core has written: the path must be empty of writes to that home. -/
def State.pathToHome (s : State) (pa : Nat) : Bool := s.myCore.path.any fun w => homeOf w.pa == homeOf pa

/-- A write of the moving context that performs at its home at once: an atomic, or an update of a barrier object. Fetched
stream rows of the core that it overlaps are discarded (12 R287). -/
def State.writeHome (s : State) (va : Word) (pa : Nat) (data : List Byte) : State :=
  let s := s.performAs s.me pa data false
  let drop := fun (x : Ctx) => if x.core = s.me.core ∧ x.nurse = false then
      x.discardRows (decide (x.id = s.me.id)) { base := va.toNat, len := data.length } pa else x
  { s with me := drop s.me, others := s.others.map drop }

/-- The register result of an atomic (05 R153). -/
def atomicResult (signed : Bool) (n old : Nat) : Word := if signed then wordOfInt (signedOf (8 * n) old) else word old

/-- The end of an atomic: its register result, its acquire, and the next instruction. -/
def State.atomicDone (s : State) (o : AmoOrder) (sc : Scope) (d : SReg) (v : Word) (va : Word) : Res :=
  let s := s.setReg d v
  .next (if o.acquires then s.acquire sc (some va) else s).apart.retire

/-- An atomic whose new value is a function of the width in bits, the old value, the operand and the old d (05 R153). -/
def State.atomic (s : State) (i : Instr) (o : AmoOrder) (sc : Scope) (wd : Bool) (val base : BaseReg) (d : SReg) (signed cas : Bool)
    (f : Nat → Nat → Nat → Nat → Nat) : Res :=
  s.reading ([sregOfBase val, sregOfBase base] ++ if cas then [d] else []) fun s =>
    let va := s.reg (sregOfBase base)
    let n := if wd then 8 else 4
    let x := (s.reg (sregOfBase val)).toNat % 2 ^ (8 * n)
    let e := (s.reg d).toNat % 2 ^ (8 * n)
    s.access va n .atomic fun t s =>
      s.guardWrite [{ base := va.toNat, len := n }] fun s =>
        let go (s : State) : Res :=
          s.afterSinks fun s =>
            if !s.me.held.isEmpty || s.pathToHome t.pa then .next s.wait
            else if s.homePoison t.pa n then s.trapAtIssue .poison (word (va.toNat / 8 * 8)) true
            else s.reaching t .atomic fun s =>
              let u := (s.use s.me t .atomic).traceHits va.toNat n .atomic
              if region t.pa = .pod then
                if s.lineBusy t.pa then .next s.wait else u.askPod i t (.atomic (word x) (word e))
              else
                let old := leNat (s.readHome s.me t.pa n)
                let u := (u.trip s.me.die ((region t.pa).die?.getD s.me.die) .rsp).writeHome va t.pa (leBytes (f (8 * n) old x e % 2 ^ (8 * n)) n)
                let u := u.invalidate u.me.core fun l => l == t.pa / 64
                { u with me := u.me.useAhead t.pa n }.atomicDone o sc d (atomicResult signed n old) va
        if o.releases then s.release sc (some va) go else go s

/-- The lesser or greater of two values, signed or unsigned. -/
def atomicPick (signed max : Bool) (w old x : Nat) : Nat :=
  let less := if signed then decide (signedOf w old < signedOf w x) else decide (old < x)
  if less != max then old else x

/-- amoadd (R153). -/
def execAmoadd (o : AmoOrder) (sc : Scope) (wd : Bool) (val base : BaseReg) (d : SReg) (s : State) : Res :=
  s.atomic (.amoadd o sc wd val base d) o sc wd val base d false false fun _ old x _ => old + x
/-- amoswp (R153). -/
def execAmoswp (o : AmoOrder) (sc : Scope) (wd : Bool) (val base : BaseReg) (d : SReg) (s : State) : Res :=
  s.atomic (.amoswp o sc wd val base d) o sc wd val base d false false fun _ _ x _ => x
/-- amocas (R153). -/
def execAmocas (o : AmoOrder) (sc : Scope) (wd : Bool) (val base : BaseReg) (d : SReg) (s : State) : Res :=
  s.atomic (.amocas o sc wd val base d) o sc wd val base d false true fun _ old x e => if old = e then x else old
/-- amomin.s (R153). -/
def execAmominS (o : AmoOrder) (sc : Scope) (wd : Bool) (val base : BaseReg) (d : SReg) (s : State) : Res :=
  s.atomic (.amominS o sc wd val base d) o sc wd val base d true false fun w old x _ => atomicPick true false w old x
/-- amomin.z (R153). -/
def execAmominZ (o : AmoOrder) (sc : Scope) (wd : Bool) (val base : BaseReg) (d : SReg) (s : State) : Res :=
  s.atomic (.amominZ o sc wd val base d) o sc wd val base d false false fun w old x _ => atomicPick false false w old x
/-- amomax.s (R153). -/
def execAmomaxS (o : AmoOrder) (sc : Scope) (wd : Bool) (val base : BaseReg) (d : SReg) (s : State) : Res :=
  s.atomic (.amomaxS o sc wd val base d) o sc wd val base d true false fun w old x _ => atomicPick true true w old x
/-- amomax.z (R153). -/
def execAmomaxZ (o : AmoOrder) (sc : Scope) (wd : Bool) (val base : BaseReg) (d : SReg) (s : State) : Res :=
  s.atomic (.amomaxZ o sc wd val base d) o sc wd val base d false false fun w old x _ => atomicPick false true w old x
/-- amoand (R153). -/
def execAmoand (o : AmoOrder) (sc : Scope) (wd : Bool) (val base : BaseReg) (d : SReg) (s : State) : Res :=
  s.atomic (.amoand o sc wd val base d) o sc wd val base d false false fun _ old x _ => old &&& x
/-- amoor (R153). -/
def execAmoor (o : AmoOrder) (sc : Scope) (wd : Bool) (val base : BaseReg) (d : SReg) (s : State) : Res :=
  s.atomic (.amoor o sc wd val base d) o sc wd val base d false false fun _ old x _ => old ||| x
/-- amoxor (R153). -/
def execAmoxor (o : AmoOrder) (sc : Scope) (wd : Bool) (val base : BaseReg) (d : SReg) (s : State) : Res :=
  s.atomic (.amoxor o sc wd val base d) o sc wd val base d false false fun _ old x _ => old ^^^ x

/-! ## Fences (05 R156, R157) -/

/-- fence: release, then acquire, as its order says (R156, R157). A fence that releases and acquires has every earlier store perform
before a later load at every scope, as `fence.sc.core` does (10 R246; DESIGN CHOICE, assumption log 110). -/
def execFence (o : FenceOrder) (sc : Scope) (s : State) : Res :=
  let acq (s : State) : Res := .next (s.acquire sc none).apart.retire
  match o with
  | .acq => acq s
  | .rel => s.release sc none fun s => .next s.apart.retire
  | .ar | .sc => s.release sc none acq

end Sys2Proof.Machine
end

