-- ==== Sys2Proof/Machine/Control.lean ====
section
/-!
DEFINITION. Control flow: branches, jumps, windowed calls, the repeat prefix and the branches on masks (04 R118 to R122, 05
R139 to R146).
-/

namespace Sys2Proof

/-- The register fields of a word that rep may repeat, as their lowest bits and widths; none where it may not (04 R104, R105,
R119, R120). -/
def Instr.repFields : Instr → Option (List (Nat × Nat))
  | .fence .. | .cbselNb | .cbselNm | .cbfence | .bar .. => some []
  | .cvwt .. | .cvcom .. => some [(7, 1), (14, 7)]
  | .cvset .. => some [(7, 1), (14, 7), (21, 7)]
  | .mzero .. => some [(7, 2)]
  | .comba .. | .combs .. | .combi .. | .mwrr .. | .mld .. | .mst .. => some [(7, 2), (14, 7), (21, 7)]
  | .cbselB .. | .cbselM .. => some [(7, 4)]
  | .deadMask .. | .kflip .. | .kcopy .. | .kmsk .. => some [(7, 4), (14, 4)]
  | .kmeet .. | .kjoin .. | .kdiff .. | .kless .. => some [(7, 4), (14, 4), (21, 4)]
  | .kset .. => some [(7, 4), (14, 7)]
  | .cbld .. | .cbst .. | .cbwr .. | .cbval .. | .bbtest .. => some [(7, 4), (14, 7), (21, 7)]
  | .lui .. | .pcadd .. | .vforce .. | .sexit .. => some [(7, 7)]
  | .cvprb .. | .cvrd .. => some [(7, 7), (14, 1), (21, 7)]
  | .cvprbb .. => some [(7, 7), (21, 7)]
  | .mrdr .. | .mrdc .. => some [(7, 7), (14, 2), (21, 7)]
  | .kpop .. | .kfirst .. => some [(7, 7), (14, 4)]
  | .cbrd .. => some [(7, 7), (14, 4), (21, 7)]
  | .ldb .. | .ldh .. | .ldw .. | .ldd .. | .stb .. | .sth .. | .stw .. | .std .. | .vld .. | .vldb ..
  | .vst .. => some [(7, 7), (14, 6)]
  | .amoadd .. | .amoswp .. | .amocas .. | .amominS .. | .amominZ .. | .amomaxS .. | .amomaxZ .. | .amoand ..
  | .amoor .. | .amoxor .. => some [(7, 7), (14, 6), (20, 6)]
  | .vlds .. | .vldx .. | .vsts .. | .vstx .. | .vldc .. => some [(7, 7), (14, 6), (20, 7)]
  | .clz .. | .ctz .. | .popc .. | .bswap .. | .addi .. | .andi .. | .ori .. | .xori .. | .shli .. | .shri ..
  | .srai .. | .bfxZ .. | .bfxS .. | .bfi .. | .fsqrt .. | .fcvtFromF32 .. | .fcvtToF32 .. | .vsqrt ..
  | .vabs .. | .vneg .. | .vrcp .. | .vrsq .. | .vexp2 .. | .vlog2 .. | .vtanh .. | .vsigm .. | .vcvt ..
  | .vblk .. | .vrngRaw .. | .vrngUnif .. | .setvli .. | .deadScalar .. | .deadVector .. | .vcmpr ..
  | .vexpd .. | .vscan .. | .vrsumo .. | .vrsumt .. | .vrmax .. | .vrmin .. | .vrargx .. | .vrbit ..
  | .vpart .. | .msetvl .. | .smode .. | .sprog .. => some [(7, 7), (14, 7)]
  | .vcbx .. => some [(7, 7), (14, 7), (21, 4)]
  | .add .. | .sub .. | .and .. | .or .. | .xor .. | .shl .. | .shr .. | .sra .. | .slt .. | .sltn ..
  | .minS .. | .minZ .. | .maxS .. | .maxZ .. | .mul .. | .mulhS .. | .mulhZ .. | .divS .. | .divZ ..
  | .remS .. | .remZ .. | .fsh .. | .fadd .. | .fsub .. | .fmul .. | .fdiv .. | .fmin .. | .fmax .. | .fma ..
  | .fcmpEq .. | .fcmpLt .. | .fcmpLe .. | .fcmpUn .. | .setvl .. | .vext .. | .vslup .. | .vsldn ..
  | .vperm .. | .vlpld .. | .vlpst .. | .cvsel .. | .bxfer .. | .bbwait .. | .bind .. => some [(7, 7), (14, 7), (21, 7)]
  | .vlpstB .. => some [(7, 7), (21, 7)]
  | .setel .. | .unbind .. => some [(14, 7)]
  | .bbini .. | .bbexp .. | .bbarv .. => some [(14, 7), (21, 7)]
  | .vcmp f _ _ _ _ _ =>
    some (if f = .vi then [(7, 4), (14, 7)] else [(7, 4), (14, 7), (21, 7)])
  | .vadd f _ _ _ _ | .vsub f _ _ _ _ | .vmul f _ _ _ _ | .vdiv f _ _ _ _ | .vmin f _ _ _ _ | .vmax f _ _ _ _
  | .vfma f _ _ _ _ | .vfms f _ _ _ _ | .vand f _ _ _ _ | .vor f _ _ _ _ | .vxor f _ _ _ _ | .vshl f _ _ _ _
  | .vshr f _ _ _ _ | .vsra f _ _ _ _ | .vmulh f _ _ _ _ | .vsel f _ _ _ | .vscl f _ _ _ _ =>
    some (if f = .vi then [(7, 7), (14, 7)] else [(7, 7), (14, 7), (21, 7)])
  | _ => none

/-- Where the span of a field-mask bit begins: bits 7, 8 and 9 choose the fields of bits 13 to 7, 20 to 14 and 27 to 21, to
which x and val of the memory formats belong (04 R119). -/
def spanOf (lo : Nat) : Nat := if lo < 14 then 0 else if lo < 20 then 1 else 2

/-- The chosen register field of a span, if the word has one there. -/
def Instr.chosenField (i : Instr) (span : Nat) : Option (Nat × Nat) :=
  match i.repFields with
  | some fs => fs.find? fun f => spanOf f.1 == span
  | none => none

end Sys2Proof

namespace Sys2Proof.Machine

/-! ## Branches and jumps (05 R139 to R141) -/

/-- The address of the instruction plus four times a signed offset. -/
def State.target {n : Nat} (s : State) (off : BitVec n) : Word := s.me.a.pc + off.signExtend 64 * 4

/-- A branch taken when a relation of a and b holds (05 R139). -/
def State.branch (s : State) (a b : SReg) (off : BitVec 11) (f : Word → Word → Bool) : Res :=
  s.reading [a, b] fun s => .next (if f (s.reg a) (s.reg b) then s.jump (s.target off) else s.retire)

/-- beq (R139). -/
def execBeq (a b : SReg) (off : BitVec 11) (s : State) : Res := s.branch a b off fun x y => x == y
/-- bne (R139). -/
def execBne (a b : SReg) (off : BitVec 11) (s : State) : Res := s.branch a b off fun x y => x != y
/-- blt (R139). -/
def execBlt (a b : SReg) (off : BitVec 11) (s : State) : Res := s.branch a b off fun x y => x.slt y
/-- bge (R139). -/
def execBge (a b : SReg) (off : BitVec 11) (s : State) : Res := s.branch a b off fun x y => !x.slt y
/-- bltn (R139). -/
def execBltn (a b : SReg) (off : BitVec 11) (s : State) : Res := s.branch a b off fun x y => x.ult y
/-- bgen (R139). -/
def execBgen (a b : SReg) (off : BitVec 11) (s : State) : Res := s.branch a b off fun x y => !x.ult y

/-- jal (R140). -/
def execJal (d : SReg) (off : BitVec 18) (s : State) : Res :=
  .next ((s.setReg d (s.me.a.pc + 4)).jump (s.target off))

/-- A target with a low bit set traps ALIGN (04 R103). -/
def State.alignedTarget (s : State) (t : Word) (k : State → Res) : Res :=
  if t.toNat % 4 = 0 then k s else s.trapAtIssue .align t false

/-- jalr (R140). -/
def execJalr (d a : SReg) (imm : BitVec 8) (s : State) : Res :=
  s.reading [a] fun s =>
    let t := s.reg a + imm.signExtend 64 * 4
    s.alignedTarget t fun s => .next ((s.setReg d (s.me.a.pc + 4)).jump t)

/-! ## Windowed calls (05 R142 to R145) -/

/-- WIN with WINB and WDEPTH moved by a number of blocks. -/
def Csrs.moveWindow (c : Csrs) (n : Int) : Csrs :=
  { c with win := setField (setField c.win 0 5 (((c.winb : Int) + n) % 32).toNat) 8 6 ((c.wdepth : Int) + n).toNat }

/-- The window moves up by n blocks, or the instruction traps WIN_OVF. -/
def State.windowUp (s : State) (n : Nat) (k : State → Res) : Res :=
  if s.me.a.csr.wdepth + n + 8 > 32 then s.trap .winOvf else k s

/-- wcall (R142). -/
def execWcall (n : BitVec 3) (off : BitVec 15) (s : State) : Res :=
  s.windowUp n.toNat fun s =>
    let p := 16 * ((s.me.a.csr.winb + n.toNat) % 32)
    let t := s.target off
    .next ((s.setArch fun a => { a.setPhys p (a.pc + 4) with csr := a.csr.moveWindow n.toNat }).jump t)

/-- wret (R143). -/
def execWret (n : BitVec 3) (s : State) : Res :=
  if s.me.a.csr.wdepth < n.toNat then s.trap .winUnf
  else
    let t := Sparse.get 0 s.me.a.regs (16 * s.me.a.csr.winb)
    s.alignedTarget t fun s => .next ((s.setCsr fun c => c.moveWindow (-(n.toNat : Int))).jump t)

/-- winb (R144). -/
def execWinb (n : BitVec 4) (s : State) : Res :=
  if 0 ≤ n.toInt then s.windowUp n.toInt.toNat fun s => .next (s.setCsr fun c => c.moveWindow n.toInt).retire
  else if s.me.a.csr.wdepth < n.toInt.natAbs then s.trap .winUnf
  else .next (s.setCsr fun c => c.moveWindow n.toInt).retire

/-! ## Repeat (04 R119 to R121) -/

/-- The stride of a rep. -/
def repStride (st : BitVec 2) : Nat := 2 ^ st.toNat

/-- The register fields that the field mask chooses: none where a chosen span holds none. -/
def repChosen (i : Instr) (fm : BitVec 3) : Option (List (Nat × Nat)) :=
  (((List.range 3).filter fun k => fm.getLsbD k).map fun k => i.chosenField k).foldr
    (fun f r => match f, r with | some x, some xs => some (x :: xs) | _, _ => none) (some [])

/-- A prefixed word that a rep accepts: it may be repeated, and no chosen field leaves its class (04 R120). -/
def repAccepts (w : Nat) (st : BitVec 2) (cnt : BitVec 6) (fm : BitVec 3) : Bool :=
  match decode w with
  | .error _ => false
  | .ok i =>
    i.repFields.isSome &&
      (match repChosen i fm with
      | none => false
      | some fs => fs.all fun f => decide (fld w f.1 f.2 + cnt.toNat * repStride st < 2 ^ f.2))

/-- The word that repeat j issues (04 R119). -/
def repWord (w : Nat) (st : BitVec 2) (fm : BitVec 3) (j : Nat) : Nat :=
  match decode w with
  | .error _ => w
  | .ok i => match repChosen i fm with
    | none => w
    | some fs => fs.foldl (fun v f => v + j * repStride st * 2 ^ f.1) w

/-- What a fetch finds: a translation and a word, a fault, or a link that it waits on. -/
inductive Fetched where
  | ok (x : Xlat) (w : Nat)
  | fault (c : Cause)
  | waits (src dst : Nat)
  deriving DecidableEq, Repr

/-- A fetch: a page without execute permission faults PERM (04 R102), a poisoned word POISON (05 R150), one that another package does
not answer REMOTE (22 R421), one over a lost link LINK_LOST (21 R391). -/
def State.fetch (s : State) (va : Word) : Fetched :=
  match s.lookup s.me va.toNat .fetch with
  | .fault c => .fault c
  | .waits a b => .waits a b
  | .ok x =>
    if s.homePoison x.pa 4 then .fault .poison
    else match s.reach s.me x.pa with
      | .fails c => .fault c
      | .waits a b => .waits a b
      | .here => if s.fetchFails va.toNat x.pa then .fault .remote else .ok x (s.fetchedWord va.toNat x.pa)

/-- The trap of a failed fetch (04 R102, 01 R33). -/
def State.fetchTrap (s : State) (f : Cause) (va : Word) : Res :=
  s.trapAtIssue f (if f = .poison then word (va.toNat / 8 * 8) else va) false

/-- rep: it readies the next repeat, or goes on past the prefixed word (R119 to R121). -/
def execRep (st : BitVec 2) (cnt : BitVec 6) (fm : BitVec 3) (s : State) : Res :=
  let c := s.me.a.csr
  if c.repAct && decide (cnt.toNat < c.repDone) then
    .next (s.issued.setArch fun a => { a with pc := a.pc + 8, csr := { a.csr with repc := 0 } })
  else
    match s.fetch (s.me.a.pc + 4) with
    | .fault f => s.fetchTrap f (s.me.a.pc + 4)
    | .waits a b => .next (s.waitLink a b (s.me.a.pc + 4) false)
    | .ok _ w =>
      if repAccepts w st cnt fm then
        let done := if c.repAct then c.repDone else 0
        .next (s.setArch fun a => { a with rep := some { count := cnt.toNat + 1, st := st, fm := fm }, csr := { a.csr with repc := word (0x80 + done) } })
      else s.trap .illegal

/-! ## Branches on masks (04 R122, 05 R146) -/

/-- A sink that reads one mask over the length and ELBASE that a mask node captured (05 R146, 06 R179). -/
def Arch.maskSink (a : Arch) (i : Instr) (k : KReg) : Entry :=
  let e := { a.entry i .sink with a := Operand.of (a.kref k) }
  match a.kref k with
  | .node n => (match broodEntry a.brood n with | some x => { e with len := x.len, elbase := x.elbase } | none => e)
  | .cell c => { e with len := c.len }
  | _ => e

/-- A mask sink issues: it does not depend on VTYPE, joins no other sink, and resynchronises. -/
def State.issueMaskSink (s : State) (e : Entry) (k : KReg) : Res :=
  s.checked { illegal := rangeWraps e.elbase e.len, illegalTyped := false, typed := false, vs := [], ks := [k], ss := [],
              len := e.len, bank := none } fun s =>
    s.issueSink e { joins := false, resync := true, store := [], guards := [], aligned := fun _ => true, fills := none }
      fun _ _ a => a

/-- bkany (R146). -/
def execBkany (k : KReg) (off : BitVec 15) (s : State) : Res :=
  s.issueMaskSink { s.me.a.maskSink (.bkany k off) k with val := s.target off } k
/-- bknone (R146). -/
def execBknone (k : KReg) (off : BitVec 15) (s : State) : Res :=
  s.issueMaskSink { s.me.a.maskSink (.bknone k off) k with val := s.target off } k

end Sys2Proof.Machine
end

