-- ==== Sys2Proof/Machine/Streams.lean ====
section
/-!
DEFINITION. Events to a tenant and service requests (19 R367, 22 R418), the use of the translations and lines that an access
touches, the stream unit (12 R283 to R288), and the steps of the comb (12 R276 to R282, R289).
-/

namespace Sys2Proof.Machine

/-! ## Events and service requests -/

/-- The code of an access kind in a request (19 R378). -/
def Access.code : Access → Nat
  | .read => 0 | .write => 1 | .fetch => 2 | .atomic => 3

/-- A service request to the tenant's driver: its token is the answer. The body's layout is the model's (DESIGN CHOICE, assumption log 11). -/
def State.ask (s : State) (die tenant launch index : Nat) (from_ : Requester) (va : Word) (k : Access) (name : List Byte) :
    Word32 × State :=
  let token := (s.die die).nextToken
  let s := s.setDie die fun d =>
    { d with nextToken := token + 1,
             requests := d.requests ++ [{ token := token, tenant := tenant, launch := launch, from_ := from_, va := va }] }
  (token, s.sendEvent die tenant 0x82 0
    (leBytes launch 4 ++ leBytes index 4 ++ leBytes va.toNat 8 ++ leBytes k.code 4 ++ leBytes token.toNat 4 ++ name))

/-! ## What a strip or a row touches -/

/-- The translations that accesses used, and the lines that they filled over a channel. -/
def State.touch (s : State) (ch : Channel) (ts : List Touch) : State :=
  ts.foldl (fun s t =>
    let u := s.use s.me t.x t.kind
    let u : State := match t.home with
      | some n => u.invalidate u.me.core fun l => 64 * l / n == t.x.pa / n
      | none => if t.kind = Access.read then u.loaded u.me.core t.x.pa t.size t.pc ch else u
    { u with me := u.me.useAhead t.x.pa t.size }) s

/-- The debug slots with ACT = 1 that the accesses of an element hit. -/
def State.hitsOf (s : State) (elem : Nat) (ts : List Touch) : List TraceHit :=
  ts.flatMap fun t => (s.traceSlots [] t.x.va t.size t.kind).map fun n =>
    { elem := elem, slot := n, va := t.x.va, kind := t.kind, el := t.el, pc := t.pc, seq := t.seq }

/-- One trace record for each slot that is hit and has not written its record for this pass or row (21 R411). -/
def State.traceTouches (s : State) (traced : List Nat) : List TraceHit → State × List Nat
  | [] => (s, traced)
  | h :: hs =>
    if traced.contains h.slot then s.traceTouches traced hs
    else (s.traceOne h.va h.kind h.el h.pc h.seq).traceTouches (h.slot :: traced) hs

/-- Some access drew a free value. -/
def drewFree (ts : List Touch) : Bool := ts.any fun t => t.x.drew || region t.x.pa == .pod

/-! ## Stream patterns (12 R283, R284) -/

/-- LEN of a stream. -/
def Stream.len (t : Stream) : Nat := field t.shape 48 15

/-- Rows kept fetched. -/
def Stream.depth (t : Stream) : Nat := field t.shape 40 4 + 1

/-- SFMT of a stream. -/
def Stream.sfmt (t : Stream) : Fmt := (Fmt.ofCode (field t.shape 32 5)).getD .f32

/-- ROWS of a stream. -/
def Stream.rows (t : Stream) : Nat := field t.shape 0 32

/-- The address of row q, element 0. -/
def Stream.rowBase (t : Stream) (q : Nat) : Nat := (t.base + word q * t.rowStride).toNat

/-- The decided format of a stream, once decided. -/
def Stream.fmt (t : Stream) : Fmt := match t.decided with | some d => decidedFmt t.sfmt d | none => t.sfmt

/-- The bytes of row q. -/
def Stream.footprint (tn : Tenant) (t : Stream) (q : Nat) : List Range :=
  vectorRanges tn (t.rowBase q) t.stride.toInt t.len t.sfmt 0 t.decided

/-- The entry in whose name a stream's accesses are checked. -/
def State.streamEntry (s : State) : Entry := { s.me.a.entry (.nop 0) .load with seq := -1, fmt := .f32, eg := 0 }

/-- One element of a row as the stream unit reads it: the encoded element, with its side word in a block format. -/
def Stg.rowElem (g : Stg) (t : Stream) (d : PageAttr) (q j : Nat) : NodeOut :=
  let e := g.s.streamEntry
  let f := decidedFmt t.sfmt d
  let base := t.rowBase q
  let (va, size, half) := placeOf f 0 base (t.stride.toInt * j)
  let block : Bool := f == .nx4 || f == .mx8
  let bad : Bool := (block || f.bits == 4) && t.stride != 1 || (block && base % blockBytes f d.geo != 0)
  if base % size ≠ 0 then { NodeOut.of [] with events := [eventOf e .align va false] }
  else
    let a := g.access e j va size .read fun p => bad || formatFault t.sfmt 0 true d p
    let sd : Got := if block then g.side e j f d.geo va .read else { x := none, events := [], touches := [], stall := false }
    let ev := pickEvent (a.events ++ sd.events)
    let vals : List Nat := match ev, a.x with
      | [], some x =>
        let raw := leNat (g.bytes x size)
        let code := if f.bits = 4 then raw / 16 ^ half % 16 else raw
        (match block, sd.x with
        | true, some y => [code, leNat (g.bytes y 2)]
        | _, _ => [code])
      | _, _ => []
    { NodeOut.of vals with events := ev, touches := a.touches ++ sd.touches, stall := a.stall || sd.stall }

/-! ## Rows and their readers (12 R285) -/

/-- The handle that an operand reads as a stream. -/
def Operand.streamReg (o : Operand) : Option VReg := match o.ref with | .stream v => some v | _ => Option.none

/-- The streams that a pending reader takes rows of. -/
def Entry.streamRegs (e : Entry) : List VReg :=
  match e.op with
  | .comba .. | .combs .. | .combi .. => [e.a, e.b].filterMap Operand.streamReg
  | .cvprbb .. => (e.a.streamReg).toList
  | _ => []

/-- The rows that a reader takes of one stream, in order: as many as its operands name it, or the candidates of cvprbb. -/
def Entry.rowsTaken (e : Entry) (v : VReg) : Nat :=
  match e.op with
  | .cvprbb _ _ n _ => if e.a.streamReg = some v then n.toNat + 1 else 0
  | _ => (e.streamRegs.filter fun x => x == v).length

/-- The stream of a handle in a view. -/
def Arch.stream? (a : Arch) (v : VReg) : Option Stream := match a.vhandle v with | .stream t => some t | _ => none

/-- The rows assigned to a pending reader: stream and row. -/
def Pend.assigned (p : Pend) : List (Stream × Nat) :=
  match broodEntry p.after.brood p.entry with
  | none => []
  | some e =>
    if p.implicit then []
    else e.streamRegs.eraseDups.flatMap fun v =>
      match p.after.stream? v with
      | none => []
      | some t => let n := e.rowsTaken v; (List.range n).map fun i => (t, t.consumed - n + i)

/-- The row that operand a or b of a step reads. -/
def Pend.rowOf (p : Pend) (e : Entry) (second : Bool) : Option (Stream × Nat) :=
  let v? := if second then e.b.streamReg else e.a.streamReg
  v?.bind fun v => (p.after.stream? v).map fun t =>
    let n := e.rowsTaken v
    (t, if second then t.consumed - 1 else t.consumed - n)

/-- A row that the context holds or fetches. -/
def Ctx.row? (c : Ctx) (uid q : Nat) : Option StreamRow := c.rows.find? fun r => r.uid == uid && r.row == q

/-- A row that has arrived. -/
def Ctx.arrived (c : Ctx) (t : Stream × Nat) : Bool := match c.row? t.1.uid t.2 with | some r => r.arrived | none => false

/-- The bytes of the rows that a stream has fetched and not assigned. -/
def Ctx.fetchedBytes (c : Ctx) (t : Stream) : Nat :=
  (c.rows.filter fun r => r.uid == t.uid && decide (t.consumed ≤ r.row)).length * ((t.len * t.fmt.bits + 7) / 8)

/-- A stream waits on a service request for a row, which stalls it alone (12 R288). -/
def Ctx.streamStalled (c : Ctx) (uid : Nat) : Bool := c.rows.any fun r => r.uid == uid && r.asked.isSome && !r.arrived

/-- The row that the stream unit fetches next for a handle, with the pending reader that it serves if it has one. -/
def Ctx.rowWanted (c : Ctx) (v : VReg) : Option (Stream × Nat × Option Pend) :=
  let served := c.items.flatMap fun p =>
    if (broodEntry p.after.brood p.entry).any fun e => e.streamRegs.contains v then p.assigned.map fun x => (x.1, x.2, some p) else []
  let mine := served.find? fun x => (p_uid c v x.1) && (c.row? x.1.uid x.2.1).isNone
  match mine with
  | some x => some x
  | none =>
    match c.a.stream? v with
    | none => none
    | some t =>
      let want := (List.range t.depth).map fun i => t.consumed + i
      match want.find? fun q => decide (q < t.rows) && (c.row? t.uid q).isNone with
      | none => none
      | some q =>
        let size := (t.len * t.fmt.bits + 7) / 8
        if q = t.consumed ∨ c.fetchedBytes t + size ≤ 8192 then some (t, q, none) else none
where
  /-- the stream is one that handle v named when a reader issued, or names now -/
  p_uid (c : Ctx) (v : VReg) (t : Stream) : Bool :=
    (c.a.stream? v).any (fun x => x.uid == t.uid) || c.items.any fun p => (p.after.stream? v).any fun x => x.uid == t.uid

/-- A row waits for stores of the context that stand before its reader in program order (12 R287). -/
def Ctx.rowBlocked (c : Ctx) (fp : List Range) (reader : Option Pend) : Bool :=
  let before (n : Nat) : Bool := match reader with | some p => decide (n < p.no) | none => true
  (c.items.any fun p => before p.no && rangesOverlap p.store fp) || c.held.any fun h => before h.no && rangesOverlap h.footprint fp

/-- The stream unit starts to fetch a row of a handle of the moving context (12 R286, R287). -/
def State.fetchRow (s : State) (v : VReg) : State :=
  match s.me.rowWanted v with
  | none => s
  | some (t, q, reader) =>
    if s.me.streamStalled t.uid then s else
    let fp := t.footprint ((s.die s.me.die).tenant s.me.a.csr.tenant) q
    if s.me.rowBlocked fp reader then s
    else { s with me := { s.me with rows := s.me.rows ++
      [{ uid := t.uid, row := q, arrived := false, elems := [], faults := [], footprint := fp, pieces := [], asked := none }] } }

/-- Records the decided format of a stream in every view. -/
def Arch.decideStream (uid : Nat) (d : PageAttr) (a : Arch) : Arch :=
  { a with vh := a.vh.map fun e =>
      (e.1, match e.2 with | .stream t => if t.uid = uid then .stream { t with decided := some d } else .stream t | h => h) }

/-- The stream that a row belongs to. -/
def Ctx.streamOf (c : Ctx) (uid : Nat) : Option Stream :=
  let pick (a : Arch) : Option Stream := a.vh.findSome? fun e => match e.2 with | .stream t => if t.uid = uid then some t else none | _ => none
  match pick c.a with
  | some t => some t
  | none => c.items.findSome? fun p => pick p.after

/-- The row of a handle that is in flight. -/
def Ctx.rowInFlight (c : Ctx) (v : VReg) : Option StreamRow :=
  c.rows.find? fun r => !r.arrived && r.asked.isNone &&
    ((c.a.stream? v).any (fun t => t.uid == r.uid) || c.items.any fun p => (p.after.stream? v).any fun t => t.uid == r.uid)

/-- Changes one row. -/
def Ctx.setRow (c : Ctx) (r : StreamRow) : Ctx :=
  { c with rows := c.rows.map fun x => if x.uid = r.uid ∧ x.row = r.row then r else x }

/-- The format of a stream as a row of it is fetched: the decided one; the one that row 0's page gives, with none decided yet (12 R284); of a
restored one whose geometry no page has given yet, that of the first element of the row whose page gives the format (assumption log 94). -/
def State.rowFormat (s : State) (t : Stream) (q : Nat) : Option PageAttr :=
  match t.decided with
  | none => s.probe (word (t.rowBase 0)) .read
  | some d =>
    if d.geo ≠ 4 then some d
    else
      let at_ (j : Nat) : Word := word (placeOf t.fmt 0 (t.rowBase q) (t.stride.toInt * j)).1
      some (((List.range t.len).findSome? fun j => (s.probe (at_ j) .read).bind fun p => if p.gives t.fmt then some p else none).getD d)

/-- A row is given up, and is fetched again. -/
def State.dropRow (s : State) (r : StreamRow) : State :=
  { s with me := { s.me with rows := s.me.rows.filter fun x => !(x.uid == r.uid && x.row == r.row) } }

/-- Bytes that a row has read stand in a held store before its reader, under another virtual address (03 R88, 12 R287); a pending
sink's store discards the row when it performs. -/
def Ctx.rowHeldBack (c : Ctx) (ts : List Touch) (reader : Option Pend) : Bool :=
  let hs := c.held.filter fun h => match reader with | some p => decide (h.no < p.no) | none => true
  !hs.isEmpty && ts.any fun t => (List.range t.size).any fun i => (heldByte hs (t.x.pa + i)).isSome

/-- A row in flight of a handle of the moving context arrives, or records its faults, or waits on a service request (12
R284, R287, R288). -/
def State.arriveRow (s : State) (v : VReg) : State :=
  match s.me.rowInFlight v with
  | none => s
  | some r =>
    match s.me.streamOf r.uid with
    | none => s.dropRow r
    | some t =>
      let reader := s.me.items.find? fun p => p.assigned.any fun x => x.1.uid == r.uid && x.2 == r.row
      if s.me.rowBlocked r.footprint reader then s.dropRow r else
        let d? := s.rowFormat t r.row
        let s := match d? with
          | some d => if t.decided = some d then s else { s with me := s.me.mapArch (Arch.decideStream t.uid d) }
          | none => s
        let g : Stg := { s := s, brood := [], len := t.len, at_ := 0, carries := [] }
        let outs : List NodeOut := match d? with
          | some d => (List.range t.len).map fun j => g.rowElem t d r.row j
          | none =>
            let e := s.streamEntry
            [{ NodeOut.of [] with events := (g.access e 0 (t.rowBase 0) 1 .read fun _ => false).events }]
        if outs.any fun o => o.stall then s
        else
          let faults : List (Nat × Cause × Word) := (List.range outs.length).flatMap fun j =>
            match outs[j]? with
            | some o => o.events.map fun ev => (j, ev.cause, ev.va)
            | none => []
          let ts : List Touch := outs.flatMap fun o => o.touches
          if s.me.rowHeldBack ts reader then s.dropRow r else
          let r : StreamRow := { r with pieces := ts.map fun x => (x.x.pa, x.size) }
          let s := (s.traceTouches [] (s.hitsOf 0 ts)).1.touch .bulk ts
          let s := if drewFree ts then s.draw else s
          match faults.find? fun f => f.2.1 == .page || f.2.1 == .perm with
          | some f =>
            let (tok, s) := s.ask s.me.die s.me.a.csr.tenant s.me.launch s.me.index (.stream s.me.id r.uid r.row) f.2.2 .read
              (s.name s.me.a.pc (-1))
            { s with me := s.me.setRow { r with elems := outs.map fun o => o.vals, faults := faults, asked := some tok } }
          | none =>
            { s with me := s.me.setRow { r with arrived := true, elems := outs.map fun o => o.vals, faults := faults } }

/-! ## What a reader takes from a row -/

/-- An element of a row in the hands of a reader: values and flags, or the fault that the reader meets there. -/
abbrev RowValue : Type := Except (Cause × Word) (List Nat × List Flag)

/-- The exact value of a row's element (12 R277). -/
def rowExact (f : Fmt) (vals : List Nat) : FV :=
  match vals with
  | [code, side] => blockExact f code side
  | v :: _ => plainValue f v
  | [] => .zero false

/-- A row's element as a node of its format holds it: of a block format its FP32 value, rounded under RNE (03 R77 to R79). -/
def rowHeld (f : Fmt) (vals : List Nat) : Nat × List Flag :=
  match vals with
  | [code, side] => blockDecode f side code
  | v :: _ => (v, [])
  | [] => (0, [])

/-- The fault that a reader meets at element j of a row: the first in the order of 19 R368 of those recorded there and of a
format that the reader does not take, which stands at the first element that it takes (12 R277, R280, R288, 13 R306; of a step that resumes
in its rows: DESIGN CHOICE, assumption log 117). -/
def StreamRow.fault (r : StreamRow) (t : Stream) (format : Bool) (first j : Nat) : Option (Cause × Word) :=
  let own : List (Cause × Word) := (r.faults.filter fun f => f.1 == j).map fun f => f.2
  let all := if format && j == first then own ++ [(.format, word (placeOf t.fmt 0 (t.rowBase r.row) (t.stride.toInt * first)).1)] else own
  all.foldl (fun b f => match b with
    | some g => if f.1.priority < g.1.priority then some f else b
    | none => some f) none

/-- The format of a stream is none that a step takes through an operand (12 R277, R280). -/
def badStepFormat (e : Entry) (o : Operand) (f : Fmt) : Bool :=
  if o.bank.isSome then f.cls != .i else e.fmt.cls == .k && f != e.fmt

/-- Element j of a stream operand of a step that takes its elements from one on (12 R276, R277, R280). -/
def Stg.stepElem (g : Stg) (e : Entry) (o : Operand) (t : Stream) (r : StreamRow) (first j : Nat) : RowValue :=
  match r.fault t (badStepFormat e o t.fmt) first j with
  | some f => .error f
  | none =>
    let vals := (r.elems[j]?).getD []
    let f := t.fmt
    match o.bank with
    | some b =>
      let x := g.expand e b (combBankFmt e.fmt) (intOf f ((vals[0]?).getD 0))
      (match x.events with
      | ev :: _ => .error (ev.cause, ev.va)
      | [] => .ok (x.vals, x.flags))
    | none =>
      match e.fmt.cls with
      | .k => .ok (vals, [])
      | c =>
        let v := rowHeld f vals
        let z := if c == .i then patternRead e.fmt (e.rounding j 0) f v.1 else moveInto e.fmt (e.rounding j 0) f v.1
        .ok ([z.1], v.2 ++ z.2)

/-- The values up to the first fault, their flags, and the fault with its element. -/
def gatherRow (f : Nat → RowValue) : Nat → Nat → List (List Nat) × List Flag × Option (Nat × Cause × Word)
  | 0, _ => ([], [], none)
  | n + 1, j =>
    match f j with
    | .error c => ([], [], some (j, c))
    | .ok (v, fl) =>
      let r := gatherRow f n (j + 1)
      (v :: r.1, fl ++ r.2.1, r.2.2)

/-- The rows of a completed reader are given up. -/
def Ctx.dropRows (c : Ctx) (ts : List (Stream × Nat)) : Ctx :=
  { c with rows := c.rows.filter fun r => !(ts.any fun t => t.1.uid == r.uid && t.2 == r.row) }

/-! ## Traps of a reader (12 R288) -/

/-- The issue of a pending reader, and every later effect, is discarded, and the trap is taken at the reader: the recorded
fault is taken with its row, which the stream fetches again (12 R285, R288; DEDUCED, assumption log 92). -/
def State.readerTrap (s : State) (p : Pend) (row : Option (Stream × Nat)) (f : Arch → Arch) (c : Cause) (va : Word) : Res :=
  let s := { s with me := { s.me with
    a := f p.before, pend := [], run := none, wait := .none, ahead := [], fresh := [], held := s.me.held.filter fun h => decide (h.no < p.no) } }
  let s := { s with me := s.me.dropRows row.toList }.settleComb
  s.apart.takeTrap { cause := c, va := va, write := false, pass := none }

/-- Flags raised outside any pass: FLAGS alone, in every view (12 R277, R278, 13 R306). -/
def Ctx.raiseAll (fs : List Flag) (c : Ctx) : Ctx :=
  if fs.isEmpty then c else c.mapArch fun a => { a with csr := { a.csr with flags := a.csr.flags ||| flagMask fs } }

/-- MPROG of a step stopped part-way (12 R289). -/
def mprogWord (acc rows : Nat) : Word := word (2 ^ 31 + acc * 256 + rows)

/-- MPROG.ACT. -/
def Csrs.mprogAct (c : Csrs) : Bool := bit c.mprog 31

/-- The rows that a resumed step skips (12 R289). -/
def Csrs.mprogRows (c : Csrs) : Nat := if c.mprogAct then field c.mprog 0 8 else 0

/-- Removes a completed sink from every view. -/
def Arch.dropEntry (n : Nat) (a : Arch) : Arch := { a with brood := a.brood.filter fun e => decide (e.1 ≠ n) }

/-- A reader or sink that runs no pass has completed: the oldest pending item is removed with its entry and its rows. -/
def State.finishItem (s : State) (p : Pend) : State :=
  let c := (s.me.dropRows p.assigned).mapArch (Arch.dropEntry p.entry)
  let c := { c with pend := c.pend.filter fun x => decide (x.no ≠ p.no), run := none }
  ({ s with me := c.collect }).drain

/-! ## A step (12 R278 to R282, R289) -/

/-- A step updates its tile: from the committed values of its handle operands and the rows of its streams. -/
def State.commitStep (s : State) (p : Pend) (e : Entry) (part : Part) : Res :=
  let rows := p.assigned
  if !(rows.all fun t => s.me.arrived t) then .next s
  else
    let (ha, hb) := match part with | .operands as bs => (as, bs) | _ => ([], [])
    let m := e.dst2
    let k := combRank e.fmt
    let g : Stg := { s := s, brood := [], len := 0, at_ := 0, carries := [] }
    let skip := p.before.csr.mprogRows
    let side (second : Bool) (o : Operand) (held : List (List Nat)) (count : Nat) :
        List (List Nat) × List Flag × Option (Nat × Cause × Word) :=
      match p.rowOf e second with
      | none => (held, [], none)
      | some (t, q) =>
        match s.me.row? t.uid q with
        | none => (held, [], none)
        | some r =>
          let first := if second then 0 else skip * k
          gatherRow (fun j =>
            match g.stepElem e o t r first j with
            | .error c => if j < first then .ok ([0], []) else .error c
            | v => v) count 0
    let bCount := if e.b.bank.isSome then m * k / 2 ^ e.eg else m * k
    let (bs, bf, berr) := side true e.b hb bCount
    match berr with
    | some (_, c, va) => s.readerTrap p (p.rowOf e true) id c va
    | none =>
      let (as, af, aerr) := side false e.a ha (m * k)
      let hi := match aerr with | some (j, _, _) => j / k | none => m
      let (core, fl) := s.myCore.step e m skip hi as bs e.b.bank.isSome
      let s := s.setMyCore fun _ => core
      match aerr with
      | some (_, c, va) =>
        let s := { s with me := s.me.raiseAll fl }
        s.readerTrap { p with before := { p.before with csr := { p.before.csr with flags := p.before.csr.flags ||| flagMask fl } } }
          (p.rowOf e false) (fun a => { a with csr := { a.csr with mprog := mprogWord e.dst hi } }) c va
      | none => .next (({ s with me := s.me.raiseAll (af ++ bf ++ fl) }).finishItem p)

end Sys2Proof.Machine
end

