-- ==== Sys2Proof/Machine/Pass.lean ====
section
/-!
DEFINITION. Running a pass: what joins it (02 R47, R48), the stage that runs, page-decided formats (03 R434), strips and the
choice among them (02 R53, 10 R228 to R229), commit and stop (02 R64 to R71, 06 R176, 07 R188), and completion (02 R45, 10
R236).
-/

namespace Sys2Proof.Machine

/-- An operation of another agent that has an outcome, after which the same agent moves as before. -/
def State.onCtx (s : State) (id : Nat) (f : State → Res) : Res :=
  match f (s.focus id) with
  | .next t => .next (t.focus s.me.id)
  | .fault e => .fault e
  | .refused r => .refused r

/-! ## Joining (02 R48) -/

/-- The sink of an item. -/
def Pend.sink? (p : Pend) : Option Entry := if p.implicit then none else broodEntry p.after.brood p.entry

/-- The limits of 02 R50 hold for a graph under several sinks. -/
def fitsOnePass (b : List (Nat × Entry)) (es : List Entry) : Bool :=
  let os := es.flatMap Entry.sources
  let g := graphOf b os
  decide (nodeCount b g ≤ 64) && decide (sourceCount b g (os.filterMap fun o => o.ref.cell?) ≤ 8)

/-- A cvset (13 R310). -/
def Held.configures (h : Held) : Bool := match h.instr with | .cvset .. => true | _ => false

/-- A bank write or a cvset is held between a pass and a sink: the sink's pass waits for it, since it performs only once every
earlier sink has completed, and a stop or a freeze between the two would find it neither before nor after (11 R255, R257,
R268, 13 R310; DEDUCED, assumption log 93). -/
def bankBetween (held : List Held) (p q : Pend) : Bool :=
  held.any fun h => decide (p.no < h.no) && decide (h.no < q.no) && (h.bank?.isSome || h.configures)

/-- A pending sink joins a pass, beside the held effects of the context. -/
def joinsPass (held : List Held) (ps : List Pend) (q : Pend) : Bool :=
  match ps, q.sink? with
  | p :: _, some e =>
    (match p.sink? with
    | some f => f.len == e.len && f.elbase == e.elbase
    | none => false) &&
    (ps.all fun x => x.joins) && q.joins && decide (ps.length < 4) && p.epoch == q.epoch &&
    (ps.all fun x => !rangesOverlap q.store x.store && !rangesOverlap q.store x.loads && !rangesOverlap q.loads x.store) &&
    !bankBetween held p q &&
    fitsOnePass q.after.brood ((ps.filterMap fun x => broodEntry q.after.brood x.entry) ++ [e])
  | _, _ => false

/-- The items of a pass taken now, and those left pending. -/
def takeItems (held : List Held) : List Pend → List Pend → List Pend × List Pend
  | ps, [] => (ps, [])
  | ps, q :: r => if joinsPass held ps q then takeItems held (ps ++ [q]) r else (ps, q :: r)

/-! ## The stage that runs -/

/-- A stage as it is run: its nodes with the youngest first, its sinks by slot or the cell that it fills. -/
structure Work where
  brood : List (Nat × Entry)
  nodes : List (Nat × Entry)
  sinks : List (Nat × Entry)
  target : Option Stage
  len : Nat
  /-- ELBASE of FAULTEL (02 R54, R64) -/
  elbase : Word

/-- The view of a run's youngest item. -/
def Run.view (r : Run) : Arch := match r.items.getLast? with | some p => p.after | none => Arch.reset 0

/-- The sinks of a run with their entry numbers, by slot. -/
def Run.slots (r : Run) : List (Nat × Entry) :=
  (r.items.filter fun p => !p.implicit).filterMap fun p => (broodEntry r.view.brood p.entry).map fun e => (p.entry, e)

/-- The nodes that a sink has evaluated: a block operand of a step is read by the step itself (12 R277). -/
def Entry.roots (b : List (Nat × Entry)) (e : Entry) : List Nat :=
  let ns := e.sources.filterMap fun o => o.ref.node?
  match e.op with
  | .comba .. | .combs .. =>
    if e.fmt.cls == .k then
      [e.a, e.b].flatMap fun o => match o.bank, o.ref.node? with
        | Option.none, some n => (match broodEntry b n with | some x => x.nodes | Option.none => [])
        | some _, some n => [n]
        | _, Option.none => []
    else ns
  | _ => ns

/-- The stage of a run; the elements of an implicit materialisation are counted from ELBASE of the node it materialises, in
the stages before it too (02 R54). -/
def Run.work (r : Run) : Work :=
  let a := r.view
  let nodesOf (roots : List Nat) : List (Nat × Entry) :=
    ((a.oldestFirst (reached a.brood roots)).reverse).filterMap fun n => (broodEntry a.brood n).map fun e => (n, e)
  let node := (r.stages.getLast?.bind fun t => broodEntry a.brood t.node).map fun e => e.elbase
  let base := match r.slots with | (_, e) :: _ => e.elbase | [] => node.getD 0
  match r.stages[r.stage]? with
  | some st =>
    { brood := a.brood, nodes := nodesOf [st.node], sinks := [], target := some st, len := st.cell.len,
      elbase := base }
  | none =>
    { brood := a.brood, nodes := nodesOf (r.slots.flatMap fun x => x.2.roots a.brood), sinks := r.slots, target := none,
      len := r.length, elbase := base }

/-- A stage as it is read now. -/
def Work.stg (w : Work) (s : State) (at_ : Nat) (carries : List (Nat × Carry)) : Stg :=
  { s := s, brood := w.brood, len := w.len, at_ := at_, carries := carries }

/-! ## Blocks (06 R176, 07 R188) -/

/-- The start of the unit that holds element x, for one node or sink. -/
def Entry.unitStart (e : Entry) (x : Nat) : Nat :=
  match e.op with
  | .vblk g _ _ _ => x - min x (blockPos e.elbase g.size x)
  | .vst .. =>
    (match e.source.bind fun s => s.decided with
    | some d =>
      if d.block && e.eg == 0 then x - min x (memBlock (decidedFmt e.fmt d) d.geo e.val.toNat x).2 else x
    | none => x)
  | _ => x

/-- The highest element at or below x at which a stop splits no block. -/
def Work.floorN (w : Work) : Nat → Nat → Nat
  | 0, x => x
  | n + 1, x =>
    let y := (w.nodes ++ w.sinks).foldl (fun y e => e.2.unitStart y) x
    if y = x then x else w.floorN n y

/-- A stop at x is lowered to the start of a block; the end of the stage splits none. -/
def Work.floor (w : Work) (x : Nat) : Nat := if w.len ≤ x then w.len else w.floorN 64 x

/-- The elements whose events a stop at x takes together: those of its block. -/
def Work.unitOf (w : Work) (x : Nat) : List Nat :=
  let lo := w.floor x
  let hi := ((List.range 4096).map fun j => x + 1 + j).find? fun y => decide (w.len ≤ y) || w.floor y == y
  (List.range (min (hi.getD (x + 1)) w.len - lo)).map fun j => lo + j

/-! ## One element -/

/-- What an element of a stage gives, with its events, its accesses and whether one of them waits. -/
structure ElemEval where
  out : ElemOut
  events : List PassEvent
  touches : List Touch
  stall : Bool

/-- An element of a stage. -/
def Work.elem (w : Work) (g : Stg) (i : Nat) : ElemEval :=
  let row := fun j => g.row w.nodes j
  let env := row i
  let flagsOf := env.flatMap fun o =>
    match broodEntry w.brood o.1 with
    | some e => o.2.flags.map fun f => (f, e.index i)
    | none => []
  let outs : List (Entry × SinkOut) := match w.target with
    | some st => (match broodEntry w.brood st.node with
      | some e => [(e, g.cellWrite e st.cell i (envGet env st.node).vals)]
      | none => [])
    | none => w.sinks.map fun x => (x.2, g.sink x.2 env row i)
  { out := { vals := if w.target.isSome then [] else outs.map fun o => o.2.val, writes := outs.flatMap fun o => o.2.writes,
             flags := flagsOf ++ outs.flatMap fun o => o.2.flags.map fun f => (f, o.1.index i),
             carries := (env.filterMap fun o => o.2.carry.map fun c => (o.1, c)) ++ outs.flatMap fun o => o.2.carries },
    events := (env.flatMap fun o => o.2.events) ++ outs.flatMap fun o => o.2.events,
    touches := envTouches env ++ outs.flatMap fun o => o.2.touches,
    stall := envStall env || outs.any fun o => o.2.stall }

/-- The blamed event: of the oldest node or sink, then by cause priority (02 R65). -/
def blamed (seq : Word32) : List PassEvent → Option PassEvent
  | [] => none
  | x :: r => some (r.foldl (fun b y =>
      let ab := (seq - b.seq).toNat
      let ay := (seq - y.seq).toNat
      if ab < ay ∨ (ab = ay ∧ y.cause.priority < b.cause.priority) then y else b) x)

/-- CAUSE.SLOT of an event: the sink itself, or the lowest sink that depends on the blamed node (02 R65). -/
def Work.slotOf (w : Work) (ev : PassEvent) : Nat :=
  match w.sinks.findIdx? fun x => x.2.seq == ev.seq with
  | some k => k
  | none => (w.sinks.findIdx? fun x => (reached w.brood x.2.nodes).any fun n =>
      match broodEntry w.brood n with | some e => e.seq == ev.seq | none => false).getD 0

/-- Elements of a strip, up to the first that meets an event. -/
structure StripEval where
  outs : List ElemOut
  event : Option PassEvent
  /-- the accesses of each element -/
  touches : List (List Touch)
  stall : Bool

/-- Evaluates elements from i on. -/
def Work.run (w : Work) (s : State) (seq : Word32) : Nat → Nat → List (Nat × Carry) → StripEval
  | 0, _, _ => { outs := [], event := none, touches := [], stall := false }
  | n + 1, i, carries =>
    let g := w.stg s i carries
    let x := w.elem g i
    if x.stall then { outs := [], event := none, touches := [], stall := true }
    else if x.events.isEmpty then
      let r := w.run s seq n (i + 1) x.out.carries
      { r with outs := x.out :: r.outs, touches := x.touches :: r.touches }
    else
      let evs := (w.unitOf i).flatMap fun j => if j = i then x.events else (w.elem g j).events
      { outs := [], event := (blamed seq evs).map fun e => { e with slot := w.slotOf e }, touches := [], stall := false }

/-! ## Page-decided formats (03 R434) -/

/-- The address of an element of an access, in the captured format or a decided one, and the kind of access: of an indexed access whose
format is still to be decided, in the captured one (DESIGN CHOICE, assumption log 115). -/
def Stg.addressOf (g : Stg) (e : Entry) (row : Env) (i : Nat) : Nat × Access :=
  let at_ (q : Int) : Nat := (placeOf e.fmt e.eg e.val.toNat q).1
  match e.op with
  | .vst .. | .vsts .. | .vstx .. => (at_ (g.position e row i).1, .write)
  | .vldx .. => (at_ (g.position e row i).1, .read)
  | _ => (match e.source with | some s => (placeOf e.fmt e.eg s.base.toNat (s.step * i)).1 | none => 0, .read)

/-- The format that the first run of an access decides: of the page of the element at which the stage stands, element 0; or
as for a raw page where that element is inactive and its page does not translate (03 R434). Only the mask makes an element
inactive here: the chunk bit of vldc is no part of the decision (DESIGN CHOICE, assumption log 97). A stage that a restore
resumes at a higher element has it decide for a sink, whose format no snapshot holds (assumption log 94). -/
def Work.decision (w : Work) (s : State) (e : Entry) (cur : Nat) : Option PageAttr :=
  let g := w.stg s cur []
  let row := g.row w.nodes cur
  let (va, k) := g.addressOf e row cur
  match s.probe (word va) k with
  | some d => some d
  | none => if (g.active e row cur).1 then none else some PageAttr.raw

/-- A restored format whose geometry no page has given yet takes it from the first element, from the one at which the stage
stands on, whose page gives that format (assumption log 94). -/
def Work.settled (w : Work) (s : State) (e : Entry) (cur : Nat) : Option PageAttr :=
  let g := w.stg s cur []
  (List.range (w.len - cur)).findSome? fun i =>
    (s.probe (word (g.addressOf e [] (cur + i)).1) .read).bind fun p => if p.gives e.fmt then some p else none

/-- An entry with its format decided: a load node's values stand in it. -/
def Entry.decide (d : PageAttr) (e : Entry) : Entry :=
  { e with fmt := if e.kind = .load then decidedFmt e.fmt d else e.fmt,
           source := e.source.map fun s => { s with decided := some d } }

/-- The cell that is to hold the values of an entry whose format has been decided. -/
def CellRef.refit (f : Fmt) (eg : Nat) (c : CellRef) : CellRef := { c with fmt := some f, eg := eg }

/-- A reference to a cell at an address changed. -/
def Ref.mapCell (at_ : Word) (f : CellRef → CellRef) : Ref → Ref
  | .cell c => if c.addr = at_ ∧ c.len ≠ 0 then .cell (f c) else .cell c
  | r => r

/-- Every reference of an entry changed. -/
def Entry.mapCell (at_ : Word) (f : CellRef → CellRef) (e : Entry) : Entry :=
  let g (o : Operand) : Operand := { o with ref := o.ref.mapCell at_ f }
  { e with a := g e.a, b := g e.b, c := g e.c, merge := g e.merge, mask := g e.mask }

/-- A view in which the cell at an address holds a decided format, and no more bytes than it needs (02 R51). -/
def Arch.refit (at_ : Word) (len : Nat) (f : Fmt) (eg : Nat) (a : Arch) : Arch :=
  let n := cellBytes len (some f) eg
  let old := Sparse.get 0 a.cells at_.toNat
  let h (x : Handle) : Handle := match x with
    | .cell c => if c.addr = at_ ∧ c.len ≠ 0 then .cell (c.refit f eg) else .cell c
    | x => x
  { a with vh := a.vh.map fun e => (e.1, h e.2), kh := a.kh.map fun e => (e.1, h e.2),
           brood := a.brood.map fun e => (e.1, e.2.mapCell at_ (CellRef.refit f eg)),
           cells := if old = 0 then a.cells else Sparse.set 0 a.cells at_.toNat n,
           csr := if old = 0 then a.csr else { a.csr with celluse := a.csr.celluse - word (old - n) } }

/-- Stages with the cell at an address refitted. -/
def refitStages (at_ : Word) (f : Fmt) (eg : Nat) (st : List Stage) : List Stage :=
  st.map fun t => if t.cell.addr = at_ ∧ t.cell.len ≠ 0 then { t with cell := t.cell.refit f eg } else t

/-- A context with the cell at an address refitted everywhere. -/
def Ctx.refit (at_ : Word) (len : Nat) (f : Fmt) (eg : Nat) (c : Ctx) : Ctx :=
  let c := c.mapArch (Arch.refit at_ len f eg)
  let g (p : Pend) : Pend := { p with stages := refitStages at_ f eg p.stages }
  { c with pend := c.pend.map g, run := c.run.map fun r => { r with items := r.items.map g } }

/-- Records one decision in every view of the moving context. -/
def State.decideEntry (s : State) (n : Nat) (e : Entry) (d : PageAttr) : State :=
  let c := s.me.mapArch (Arch.setEntry n (Entry.decide d))
  let f := decidedFmt e.fmt d
  let eg := if d.fe then 0 else e.eg
  let forced : List CellRef := (s.me.a.forcedCells.filter fun x => x.1 == n).map fun x => x.2
  let cells : List CellRef :=
    (match e.op, e.c.ref with | .vldx .., .cell x => [x] | _, _ => []) ++
      ((c.stages.filter fun t => t.node == n).map fun t => t.cell) ++ forced
  { s with me := cells.foldl (fun c x => if x.len = 0 then c else c.refit x.addr x.len f eg) c }

/-- A load whose restored format has no geometry yet. -/
def Entry.loose (e : Entry) : Bool := match e.source.bind fun s => s.decided with | some d => d.geo == 4 | none => false

/-- The accesses of a stage whose format is not decided, or not wholly. -/
def Work.undecided (w : Work) : List (Nat × Entry) :=
  let extra : List (Nat × Entry) := w.sinks.flatMap fun x => x.2.nodes.filterMap fun n => (broodEntry w.brood n).map fun e => (n, e)
  ((w.nodes ++ w.sinks ++ extra).filter fun x => x.2.undecided || x.2.loose).eraseDups

/-- Decides the formats that the stage of the moving context's run decides now. -/
def State.decideFormats (s : State) (r : Run) : State :=
  let w := r.work
  if w.len = 0 then s
  else
    w.undecided.foldl (fun s x =>
      match if x.2.loose then w.settled s x.2 r.cur else w.decision s x.2 r.cur with
      | some d => s.decideEntry x.1 x.2 d
      | none => s) s

/-! ## Commit (02 R66) -/

/-- One write of a committed element. -/
def State.commitWrite (s : State) (w : ElemWrite) : State :=
  if 2 ^ 62 ≤ w.pa then
    let key := w.pa - 2 ^ 62
    s.setMyCore fun k => { k with lpriv := Sparse.setRun 0 k.lpriv key w.data,
                                  lprivPoison := writePoison k.lprivPoison key w.data.length false }
  else if 2 ^ 61 ≤ w.pa then
    let x := w.pa - 2 ^ 61
    let old := (s.seen s.me.core (x / 2)).toNat
    let v := leNat w.data % 16
    let new := if x % 2 = 0 then old / 16 * 16 + v else v * 16 + old % 16
    s.performAtCore (s.me.atPc w.pc) (word w.va) (x / 2) (leBytes new 1) false
  else if 2 ^ 60 ≤ w.pa then
    let x := w.pa - 2 ^ 60
    let old := (s.seen s.me.core (x / 8)).toNat
    let new := old - old / 2 ^ (x % 8) % 2 * 2 ^ (x % 8) + leNat w.data % 2 * 2 ^ (x % 8)
    s.performAtCore (s.me.atPc w.pc) (word w.va) (x / 8) (leBytes new 1) false
  else s.performAtCore (s.me.atPc w.pc) (word w.va) w.pa w.data w.poison

/-- The effect of a committed element on the accumulator that a coverage sink names (13 R303, R307). -/
def State.commitCov (s : State) (e : Entry) (i : Nat) (v : Option (List Nat)) : State :=
  match e.op, v.bind fun l => l[0]? with
  | .cvwt .., some x => s.setCov e.dst fun c => c.write (8192 + covSlot e c i) x
  | .cvcom .., some x => s.setCov e.dst fun c => c.commit (covSlot e c i) x
  | _, _ => s

/-- The saved partial state of a sink. -/
def partGet (e : Entry) : List (Nat × Part) → Nat → Part
  | [], _ => e.firstPart
  | (k, p) :: r, n => if k = n then p else partGet e r n

/-- A partial state saved. -/
def partSet (n : Nat) (p : Part) : List (Nat × Part) → List (Nat × Part)
  | [] => [(n, p)]
  | (k, q) :: r => if k = n then (n, p) :: r else (k, q) :: partSet n p r

/-- Flags of a pass: FLAGS and the FEIX values, in every view (01 R24, R25). -/
def Ctx.raisePass (fs : List (Flag × Word)) (c : Ctx) : Ctx :=
  if fs.isEmpty then c
  else c.mapArch fun a => { a with csr := fs.foldl (fun r f => r.raiseAt f.1 f.2) a.csr }

/-- Element i commits in every sink of the stage. -/
def State.commitElem (s : State) (w : Work) (parts : List (Nat × Part)) (i : Nat) (o : ElemOut) : State × List (Nat × Part) :=
  let s := o.writes.foldl State.commitWrite s
  let step := fun (x : (State × List (Nat × Part)) × List (Flag × Word)) (y : (Nat × Entry) × Option (List Nat)) =>
    let e := y.1.2
    let p := Part.commit e i y.2 (partGet e x.1.2 y.1.1)
    ((x.1.1.commitCov e i y.2, partSet y.1.1 p.1 x.1.2), x.2 ++ p.2)
  let r := (List.zip w.sinks o.vals).foldl step ((s, parts), [])
  ({ r.1.1 with me := r.1.1.me.raisePass (o.flags ++ r.2) }, r.1.2)

/-- Elements from i on commit. -/
def State.commitElems (s : State) (w : Work) : List (Nat × ElemOut) → List (Nat × Part) → State × List (Nat × Part)
  | [], ps => (s, ps)
  | (i, o) :: r, ps => let x := s.commitElem w ps i o; x.1.commitElems w r x.2

/-- The strips from an element on that have finished without a gap, the last of them perhaps one that met an event. -/
def finishedRun : Nat → List Strip → List Strip
  | _, [] => []
  | at_, t :: r =>
    if t.finished = true ∧ t.lo ≤ at_ then (if t.event.isSome then [t] else t :: finishedRun (t.lo + t.outs.length) r) else []

/-- A strip among the others of its stage, by rising number. -/
def insertStrip (t : Strip) : List Strip → List Strip
  | [] => [t]
  | x :: r => if t.num < x.num then t :: x :: r else x :: insertStrip t r

/-- What the pass has read once stands in its later stages too (07 R186). -/
def onceRead (cs : List (Nat × Carry)) : List (Nat × Carry) := cs.filter fun c => match c.2 with | .once .. => true | _ => false

/-- The carries after a committed element: its own, and what earlier stages have read once. -/
def keepOnce (old new : List (Nat × Carry)) : List (Nat × Carry) := new ++ (onceRead old).filter fun c => !(new.any fun x => x.1 == c.1)

/-- A run whose stages that are complete have ended. -/
def Run.advance : Nat → Run → Run
  | 0, r => r
  | n + 1, r =>
    if r.stage < r.stages.length ∧ r.length ≤ r.cur then
      Run.advance n { r with stage := r.stage + 1, cur := 0, strips := [], carries := onceRead r.carries, mustCommit := none }
    else r

/-! ## Stopping (02 R66, R68) -/

/-- The stages of a run that have not completed. -/
def Run.left (r : Run) : List Stage := r.stages.drop r.stage

/-- STRIP of a stopped pass (01 R27). -/
def stripWord (num : Nat) : Word := word (2 ^ 31 + num % 2 ^ 25)

/-- The registers to which a stopped pass returns its context (02 R68, 04 R121); MPROG is as the step found it (12 R289). -/
def Pend.stopView (p : Pend) : Arch :=
  { p.after with pc := p.pc, rep := none, csr := { p.after.csr with repc := p.repc.getD p.before.csr.repc, mprog := p.before.csr.mprog } }

/-- The running pass stops at an element: the registers return to its youngest item, in which the stages that have not
completed are nodes again (02 R69), later effects are discarded, and the pass is kept with its partial states. STRIP.NUM is
the strip that holds the element (01 R27). -/
def State.stopRun (s : State) (r : Run) (f : Arch → Arch) : State :=
  match r.items.getLast? with
  | none => s
  | some p =>
    let num := r.cur / 128
    let a := r.left.foldl Arch.unstage (f { p.stopView with csr := { p.stopView.csr with strip := stripWord num } })
    let r := { r with strips := [], waits := 0, mustCommit := some r.cur, num := num }
    (({ s with me := { s.me with
        a := a, pend := [], run := none, stopped := some r, wait := .none, ahead := [], fresh := [],
        held := s.me.held.filter fun h => decide (h.no < p.no) } }).setMyCore fun k =>
      { k with forced := k.forced.filter fun i => decide (i ≠ s.me.id) }).settleComb

/-- The strips that have finished commit in order; a stage that is complete ends; an event stops the pass as a trap (02 R64
to R66). -/
def State.commitStrips (s : State) (r : Run) : Res :=
  let w := r.work
  let fin := finishedRun r.cur r.strips
  match fin.getLast? with
  | none => .next { s with me := { s.me with run := some r } }
  | some last =>
    let end_ := last.lo + last.outs.length
    let stop := w.floor end_
    let lim := if last.event.isSome then stop else if w.len ≤ end_ then w.len else stop
    let outs := (fin.flatMap fun t => (List.range t.outs.length).filterMap fun j =>
      (t.outs[j]?).map fun o => (t.lo + j, o)).filter fun x => decide (r.cur ≤ x.1) && decide (x.1 < lim)
    let hits := fin.flatMap fun t => t.hits.filter fun h => decide (r.cur ≤ h.elem) && decide (h.elem < lim)
    let (s, traced) := s.traceTouches r.traced hits
    let s1 := { s with me := { s.me with run := some { r with traced := traced } } }
    let (s2, parts) := s1.commitElems w outs r.parts
    match s2.me.run with
    | none => .next s2
    | some q =>
      let q := { q with
        cur := max r.cur lim, parts := parts,
        carries := match outs.getLast? with | some o => keepOnce q.carries o.2.carries | none => q.carries,
        strips := q.strips.filter fun t => t.event.isSome || decide (lim < t.lo + t.outs.length) || !t.finished }
      match last.event with
      | some ev =>
        let el := w.elbase + word q.cur
        (s2.stopRun q id).takeTrap
          { cause := ev.cause, va := ev.va, write := ev.write, pass := some (el, ev.pc, ev.seq, ev.slot) }
      | none => .next { s2 with me := { s2.me with run := some (q.advance (q.stages.length + 1)) } }

/-! ## Strips (10 R228, R229) -/

/-- Nodes that keep a carry from element to element stand in the stage (07 R199). -/
def Work.carried (w : Work) : Bool :=
  (w.nodes.any fun x => x.2.firstCarry.isSome) || w.sinks.any fun x => x.2.nodes.any fun n =>
    match broodEntry w.brood n with | some e => e.firstCarry.isSome | none => false

/-- The carries with which strip n begins: none while they have not arrived (10 R228, R232). -/
def Run.carriesInto (r : Run) (w : Work) (n lo : Nat) : Option (List (Nat × Carry)) :=
  if !w.carried || lo == r.cur then some r.carries
  else (r.strips.find? fun t => t.num + 1 == n).bind fun t => t.outs.getLast?.map fun o => o.carries

/-- The lowest-numbered strip, from strip n on, that has not been dispatched and is ready, evaluated now: below any strip that
has met an event (10 R228, R229). -/
def State.readyFrom (s : State) (r : Run) (w : Work) : Nat → Nat → Option (StripEval × Nat × Nat)
  | 0, _ => none
  | k + 1, n =>
    let lo := max r.cur (128 * n)
    let hi := min (128 * n + 128) w.len
    if hi ≤ lo then none
    else match r.strips.find? fun t => t.num == n with
      | some t => if t.event.isSome then none else s.readyFrom r w k (n + 1)
      | none =>
        match r.carriesInto w n lo with
        | none => none
        | some carries =>
          let x := w.run s r.view.seq (hi - lo) lo carries
          if !x.stall then some (x, n, lo) else if w.carried then none else s.readyFrom r w k (n + 1)

/-- The candidate strip of the moving context's run with its number and first element; none while none is ready (10 R229). -/
def State.nextStrip (s : State) : Option (State × Run × StripEval × Nat × Nat) :=
  match s.me.run with
  | none => none
  | some r =>
    if r.stripCount ≤ r.cur / 128 then none
    else
      let s := s.decideFormats r
      match s.me.run with
      | none => none
      | some r =>
        (s.readyFrom r r.work (r.stripCount - r.cur / 128) (r.cur / 128)).map fun x => (s, r, x.1, x.2.1, x.2.2)

/-- A strip as it has been evaluated, on a group. -/
def State.stripOf (s : State) (x : StripEval) (num lo group : Nat) (finished : Bool) : Strip :=
  { num := num, group := group, lo := lo, outs := x.outs, event := x.event, finished := finished, rerun := false,
    hits := (List.zip (List.range x.touches.length) x.touches).flatMap fun t => s.hitsOf (lo + t.1) t.2 }

/-- What a strip reads, it has read. -/
def State.readStrip (s : State) (x : StripEval) : State :=
  let s := s.touch .rsp x.touches.flatten
  if drewFree x.touches.flatten then s.draw else s

/-- The strip is dispatched onto a group. -/
def State.placeStrip (s : State) (r : Run) (x : StripEval) (num lo group : Nat) : State :=
  let t := s.stripOf x num lo group false
  let s := s.readStrip x
  { s with me := { s.me with run := some { r with strips := insertStrip t r.strips, waits := 0 } } }

/-- A vpart of the core has closed a group to strips (10 R227). -/
def State.groupClosed (s : State) (core g : Nat) : Bool := s.contexts.any fun c => !c.nurse && c.core == core && c.closed.contains g

/-- The contexts of a core, other than its nurse. -/
def State.coreContexts (s : State) (core : Nat) : List Ctx := s.contexts.filter fun c => !c.nurse && c.core == core

/-- The candidates for a group: contexts whose next strip is ready (10 R229). -/
def State.candidates (s : State) (core g : Nat) : List Ctx :=
  (s.coreContexts core).filter fun c => c.run.isSome && groupUsable (s.core core).pmap c.pos g && (s.focus c.id).nextStrip.isSome

/-- Pass age of a context's run. -/
def Ctx.passAge (c : Ctx) : Nat := match c.run with | some r => (match r.items with | p :: _ => p.age | [] => 0) | none => 0

/-- Contexts in order of pass age. -/
def byAge (cs : List Ctx) : List Ctx :=
  cs.foldl (fun l c => (l.filter fun x => decide (x.passAge ≤ c.passAge)) ++ [c] ++ l.filter fun x => decide (c.passAge < x.passAge)) []

/-- The choice of 10 R229. -/
def chooseStrip (forced : List Nat) (cs : List Ctx) : Option Ctx :=
  match forced.findSome? fun i => cs.find? fun c => c.id == i with
  | some c => some c
  | none => (byAge cs).head?

/-- The wait count of a context's candidate, a strip: of another strip it says nothing (10 R229). -/
def Run.waited (r : Run) (num : Nat) : Nat := if r.waitsOn = num then r.waits else 0

/-- A candidate is passed over (10 R229). -/
def Ctx.passedOver (num : Nat) (c : Ctx) : Ctx := { c with run := c.run.map fun r => { r with waits := r.waited num + 1, waitsOn := num } }

/-- The strip that is a context's candidate. -/
def State.candidateOf (s : State) (id : Nat) : Option Nat := (s.focus id).nextStrip.map fun x => x.2.2.2.1

/-- A place in the forced queue is held for another strip than the candidate of now (10 R229). -/
def State.placeGone (s : State) (id : Nat) : Bool :=
  match (s.ctx id).run, s.candidateOf id with
  | some r, some num => r.waited num < 5
  | _, _ => false

/-- STRIP_DISPATCH: a lane group takes the strip that 10 R229 chooses; what the strip reads, it reads now. -/
def State.dispatchStrip (s : State) (core g : Nat) : State :=
  if (s.busyGroups core).contains g || s.groupClosed core g then s
  else
    let cs := s.candidates core g
    let forced := (s.core core).forced.filter fun i => !s.placeGone i
    match chooseStrip forced cs with
    | none => s
    | some c =>
      let others := cs.filter fun x => decide (x.id ≠ c.id)
      let s1 := s.at c.id fun s =>
        match s.nextStrip with
        | none => s
        | some (s, r, x, num, lo) => s.placeStrip r x num lo g
      let num (x : Ctx) : Nat := (s.candidateOf x.id).getD 0
      let s2 := others.foldl (fun t x => t.modifyCtx x.id (Ctx.passedOver (num x))) s1
      let newly := (byAge (others.filter fun x => match x.run with | some r => r.waited (num x) + 1 == 5 | none => false)).map fun x => x.id
      s2.setCore core fun k => { k with forced := (forced.filter fun i => decide (i ≠ c.id)) ++ newly }

/-- The context whose strip runs on a group. -/
def State.onGroup (s : State) (core g : Nat) : Option Ctx :=
  (s.coreContexts core).find? fun c => match c.run with
    | some r => r.strips.any fun t => t.group == g && !t.finished
    | none => false

/-- STRIP_FINISH: the strip on a group finishes, and commits once every lower strip has (02 R53, R66). -/
def State.finishStrip (s : State) (core g : Nat) : Res :=
  match s.onGroup core g with
  | none => .next s
  | some c => s.onCtx c.id fun s =>
    match s.me.run with
    | none => .next s
    | some r => s.commitStrips { r with strips := r.strips.map fun t => if t.group = g ∧ t.finished = false then { t with finished := true } else t }

/-! ## Taking a pass (02 R47) -/

/-- The lane groups that the context may use, that are free and that no vpart has closed. -/
def State.freeGroups (s : State) : List Nat :=
  (List.range 8).filter fun g =>
    groupUsable s.myCore.pmap s.me.pos g && !(s.busyGroups s.me.core).contains g && !s.groupClosed s.me.core g

/-- A run that has just been taken. -/
def Run.first (items : List Pend) : Run :=
  let r : Run := { items := items, stage := 0, cur := 0, strips := [], carries := [], parts := [], waits := 0, waitsOn := 0, mustCommit := none, done_ := 0,
                   num := 0, traced := [] }
  Run.advance (r.stages.length + 1) r

/-- The oldest pending item of the moving context may start: it runs a pass, no held effect stands before it, and a group is
free. -/
def State.mayTake (s : State) : Bool :=
  match s.me.pend with
  | [] => false
  | p :: _ => s.me.run.isNone && !(match p.sink? with | some e => e.passless | none => false) && !s.me.heldBefore p && !s.freeGroups.isEmpty

/-- PASS_TAKE: the sequencer takes the oldest pending pass with the sinks that join it; every FEIX is reset (01 R25). -/
def State.takePass (s : State) : State :=
  match s.me.pend with
  | [] => s
  | p :: ps =>
    if s.mayTake then
      let (items, rest) := takeItems s.me.held [p] ps
      let c := { s.me with run := some (Run.first items), pend := rest }
      { s with me := c.mapArch fun a => { a with csr := a.csr.clearFeix } }
    else s

/-! ## Completion (02 R45, 10 R236) -/

/-- The result of a completed sink in one view. -/
def Arch.sinkResult (n : Nat) (e : Entry) (v : Word) (a : Arch) : Arch :=
  let a := match e.op with
    | .vrsumo .. | .vrsumt .. | .vrmax .. | .vrmin .. | .vrargx .. | .vrbit .. | .vext .. | .kpop .. | .kfirst .. | .cvprb .. =>
      a.setReg (BitVec.ofNat 7 e.dst) v
    | .bkany .. => if v ≠ 0 then { a with pc := e.val } else a
    | .bknone .. => if v = 0 then { a with pc := e.val } else a
    | .vforce .. => (match e.a.ref, e.c.ref with | .node x, .cell c => a.replace x c | _, _ => a)
    | .vldx .. => (match e.c.ref with | .cell c => a.setV (BitVec.ofNat 7 e.dst) (.cell c) | _ => a)
    | _ => a
  a.dropEntry n

/-- The sinks of a pass deliver their results, in order. -/
def State.deliver (s : State) : List (Nat × Entry) → List (Nat × Part) → State
  | [], _ => s
  | (n, e) :: r, ps =>
    let part := partGet e ps n
    let (v, fl) := part.result e s.freeCtr
    let s := match e.op, part with
      | .mwrr .., .operands as _ => s.setMyCore fun k => k.setTileRow e.dst e.val.toNat as.flatten
      | _, _ => s
    let c := (s.me.raisePass fl).mapArch (Arch.sinkResult n e v)
    State.deliver { s with me := c } r ps

/-- The final stage of a run has committed every element. -/
def Run.done (r : Run) : Bool := decide (r.stages.length ≤ r.stage) && decide (r.length ≤ r.cur) && r.strips.isEmpty

/-- A run whose sink is a step of the comb. -/
def Run.isStep (r : Run) : Bool :=
  r.slots.any fun x => match x.2.op with | .comba .. | .combs .. | .combi .. => true | _ => false

/-- The views of a context once a pass has completed: STRIP reads 0 unless another pass stands stopped (01 R27). -/
def Ctx.passOver (c : Ctx) : Ctx :=
  if c.stopped.isSome || c.resume.isSome then c else c.mapArch fun a => { a with csr := { a.csr with strip := 0 } }

/-- The pass of the moving context completes: results, STRIP, freed entries and cells, and the effects that it held. -/
def State.completeRun (s : State) (r : Run) : State :=
  let s := s.deliver r.slots r.parts
  ({ s with me := ({ s.me with run := none }).passOver.collect }).drain

/-- The gains of cvprbb, once its rows have arrived: written to its cell, their flags in FLAGS alone (13 R306). -/
def State.completeBatch (s : State) (p : Pend) (e : Entry) : Res :=
  let rows := p.assigned
  if !(rows.all fun t => s.me.arrived t) then .next s
  else
    let cov := s.cov e.dst2
    let g : Stg := { s := s, brood := [], len := 0, at_ := 0, carries := [] }
    let cell := (e.c.ref.cell?).getD { addr := 0, len := 0, fmt := some .f32, eg := 0 }
    let elem (t : Stream) (r : StreamRow) (j : Nat) : RowValue :=
      match r.fault t (t.fmt.cls == .b || t.fmt == .ix4 || t.fmt == .ix8) 0 j with
      | some f => .error f
      | none =>
        let w := covSlot e cov j
        match cov.slotPoison w true with
        | some n => .error (.poison, word (covFaultVa e.dst2 n))
        | none =>
          let z := gainTerm (rowExact t.fmt ((r.elems[j]?).getD [])) (Sparse.get 0 cov.words w).toNat (cov.weight w)
          .ok ([z.1], z.2)
    let one (t : Stream × Nat) : Nat × List Flag × Option (Cause × Word) :=
      match s.me.row? t.1.uid t.2 with
      | none => (0, [], none)
      | some r =>
        let x := gatherRow (elem t.1 r) e.len 0
        match x.2.2 with
        | some f => (0, [], some f.2)
        | none =>
          let tree := (List.range e.len).foldl (fun (a : List (Nat × Amount) × List (Flag × Word)) j =>
            let z := treeStep e true (e.index j).toNat ((x.1[j]?).bind (Amount.ofNats 0)) a.1
            (z.1, a.2 ++ z.2)) ([], [])
          let z := treeEnd e true (e.elbase.toNat + e.len) tree.1 65 0 none []
          ((z.1.getD (.bits 0)).pattern, x.2.1 ++ (tree.2 ++ z.2).map fun f => f.1, none)
    let outs := rows.map one
    match (List.zip rows outs).findSome? fun o => o.2.2.2.map fun f => (o.1, f) with
    | some (row, c, va) => s.readerTrap p (some row) id c va
    | none =>
      let ws := (List.range outs.length).map fun r => g.cellWrite e cell r [((outs[r]?).map fun o => o.1).getD 0]
      match (ws.flatMap fun w => w.events).head? with
      | some ev => s.readerTrap p none id ev.cause ev.va
      | none =>
        if ws.any fun w => w.stall then .next s
        else
          let s := (s.traceTouches [] (s.hitsOf 0 (ws.flatMap fun w => w.touches))).1.touch .rsp (ws.flatMap fun w => w.touches)
          let s := (ws.flatMap fun w => w.writes).foldl State.commitWrite s
          .next (({ s with me := s.me.raiseAll (outs.flatMap fun (o : Nat × List Flag × Option (Cause × Word)) => o.2.1) }).finishItem p)

/-- SINK_COMPLETE: a pass all of whose elements have committed, or a batch probe whose rows have arrived. -/
def State.completeSink (s : State) : Res :=
  match s.me.run with
  | some r => if r.done && !r.isStep then .next (s.completeRun r) else .next s
  | none =>
    match s.me.pend with
    | [] => .next s
    | p :: _ =>
      match p.sink? with
      | none => .next s
      | some e =>
        match e.op with
        | .cvprbb .. => if s.me.heldBefore p then .next s else s.completeBatch p e
        | _ => .next s

/-- COMB_STEP_COMMIT: a step whose operands are complete updates its tile (12 R281, R282). -/
def State.commitComb (s : State) : Res :=
  match s.me.run with
  | some r =>
    if r.done && r.isStep then
      match r.items, r.slots with
      | p :: _, (n, e) :: _ =>
        if p.assigned.all fun t => s.me.arrived t then
          let s := { s with me := s.me.passOver }
          let p := match s.me.run with | some q => q.items.head?.getD p | none => p
          s.commitStep p e (partGet e r.parts n)
        else .next s
      | _, _ => .next s
    else .next s
  | none =>
    match s.me.pend with
    | [] => .next s
    | p :: _ =>
      match p.sink? with
      | none => .next s
      | some e =>
        match e.op with
        | .comba .. | .combs .. | .combi .. =>
          if e.passless && !s.me.heldBefore p then s.commitStep p e .none else .next s
        | _ => .next s

/-! ## Soft errors of a strip (10 R242) -/

/-- A parity error met by the strip on a group: it runs again from its start, on the operands that have arrived and so to the
same values, or stops the pass on a second error. -/
def State.stripError (s : State) (core g : Nat) : State :=
  match s.onGroup core g with
  | none => s
  | some c => s.at c.id fun s =>
    match s.me.run with
    | none => s
    | some r =>
      match r.strips.findIdx? fun t => t.group == g && !t.finished with
      | none => s
      | some k =>
        match r.strips[k]? with
        | none => s
        | some t =>
          let w := r.work
          if t.rerun then
            let (seq, pc) := match w.sinks, w.target with
              | (_, e) :: _, _ => (e.seq, e.pc)
              | [], some st => (match broodEntry w.brood st.node with | some e => (e.seq, e.pc) | none => (0, 0))
              | [], none => (0, 0)
            let ev : PassEvent := { cause := .poison, va := 0, write := false, seq := seq, pc := pc, slot := 0 }
            { s with me := { s.me with run := some { r with
                strips := r.strips.take k ++ [{ t with outs := [], event := some ev }] } } }
          else
            { s with me := { s.me with run := some { r with
                strips := r.strips.map fun u => if u.num = t.num then { u with rerun := true } else u } } }

/-! ## What a waiting context waits for -/

/-- The happening that the rows of a pending reader wait for. -/
def State.rowHappening (s : State) (p : Pend) (e : Entry) (done : Instr) : Instr :=
  let id := BitVec.ofNat 12 s.me.id
  match e.streamRegs.eraseDups.findSome? fun v =>
      match p.after.stream? v with
      | none => none
      | some t =>
        match (p.assigned.filter fun x => x.1.uid == t.uid).find? fun x => !s.me.arrived x with
        | none => none
        | some x => some (match s.me.row? x.1.uid x.2 with
          | some _ => Instr.streamRowArrive id v
          | none => Instr.streamRowFetch id v) with
  | some i => i
  | none => done

/-- The first happening that the pending work of the moving context waits for. -/
def State.nextHappening (s : State) : Option Turn :=
  let id := BitVec.ofNat 12 s.me.id
  let k := BitVec.ofNat 10 s.me.core
  let busy := (List.range 8).filter fun g => groupUsable s.myCore.pmap s.me.pos g && (s.busyGroups s.me.core).contains g
  let finish (g : Nat) : Turn := .happen (.stripFinish k (BitVec.ofNat 3 g))
  match s.me.run with
  | some r =>
    if r.done then
      if r.isStep then
        match r.items, r.slots with
        | p :: _, (_, e) :: _ => some (.happen (s.rowHappening p e (.combStepCommit id)))
        | _, _ => none
      else some (.happen (.sinkComplete id))
    else
      match r.strips.find? fun t => !t.finished with
      | some t =>
        (match s.freeGroups with
        | g :: _ => if s.nextStrip.isSome then some (.happen (.stripDispatch k (BitVec.ofNat 3 g))) else some (finish t.group)
        | [] => some (finish t.group))
      | none =>
        (match s.freeGroups, busy with
        | g :: _, _ =>
          if s.nextStrip.isNone && !s.myCore.path.isEmpty then some (.happen (.performAtHome k 0))
          else some (.happen (.stripDispatch k (BitVec.ofNat 3 g)))
        | [], b :: _ => some (finish b)
        | [], [] => none)
  | none =>
    let heldFirst : Bool := match s.me.held, s.me.pend with
      | [], _ => false
      | _ :: _, [] => true
      | h :: _, p :: _ => decide (h.no < p.no)
    if heldFirst then
      match s.me.held with
      | h :: _ => if h.isTransfer then some (.happen (.foragerLaunch id)) else some (.performHeld s.me.id)
      | [] => none
    else
      match s.me.pend with
      | p :: _ =>
        (match p.sink? with
        | some e =>
          if e.passless then
            (match e.op with
            | .cvprbb .. => some (.happen (s.rowHappening p e (.sinkComplete id)))
            | _ => some (.happen (s.rowHappening p e (.combStepCommit id))))
          else if s.freeGroups.isEmpty then busy.head?.map finish else some (.happen (.passTake id))
        | none => if s.freeGroups.isEmpty then busy.head?.map finish else some (.happen (.passTake id)))
      | [] => if s.myCore.path.isEmpty then none else some (.happen (.performAtHome k 0))

end Sys2Proof.Machine
end

