-- ==== Sys2Proof/Machine/System.lean ====
section
/-!
DEFINITION. System instructions: CSR access (01 R36, 19 R375), traps and the return from them (19 R371, R372), waits (19
R373), TLB and cache maintenance (19 R366, R374), and the end of a context (19 R360).
-/

namespace Sys2Proof.Machine

/-! ## The CSR map (01 R36) -/

/-- The rights of a CSR (01 R36). -/
inductive Rights where
  | u | ur | s | ro
  deriving DecidableEq, Repr

/-- The CSR of a number (01 R36). -/
def Csr.ofNumber : Nat → Option Csr
  | 0x000 => some .vl | 0x001 => some .vtype | 0x002 => some .vmode | 0x003 => some .elbase | 0x004 => some .strip
  | 0x008 => some .flags | 0x010 => some (.feix .inv) | 0x011 => some (.feix .dz) | 0x012 => some (.feix .ovf)
  | 0x013 => some (.feix .unf) | 0x014 => some (.feix .inx) | 0x015 => some (.feix .sat) | 0x016 => some (.feix .cbi)
  | 0x020 => some .srseed | 0x021 => some .srsalt | 0x022 => some .rngkey | 0x028 => some .repc | 0x029 => some .deadm
  | 0x030 => some .cellbase | 0x031 => some .celllim | 0x032 => some .celluse | 0x033 => some .cellcnt
  | 0x038 => some .cbsel | 0x040 => some .mvl | 0x041 => some .mprog | 0x048 => some .win | 0x050 => some .ctxid
  | 0x100 => some .status | 0x101 => some .epc | 0x102 => some .cause | 0x103 => some .faultva | 0x104 => some .faultel
  | 0x105 => some .blamepc | 0x106 => some .blameseq
  | _ => none

/-- The rights of a CSR (01 R36). -/
def Csr.rights : Csr → Rights
  | .vmode | .flags | .srseed | .srsalt | .rngkey | .deadm | .cbsel => .u
  | .ctxid => .ro
  | .status | .epc | .cause | .faultva | .faultel | .blamepc | .blameseq => .s
  | .vl | .vtype | .elbase | .strip | .feix _ | .repc | .cellbase | .celllim | .celluse | .cellcnt | .mvl | .mprog | .win => .ur

/-- The value of a CSR. -/
def Csrs.get (c : Csrs) : Csr → Word
  | .vl => c.vl | .vtype => c.vtype | .vmode => c.vmode | .elbase => c.elbase | .strip => c.strip | .flags => c.flags
  | .feix f => c.feix f | .srseed => c.srseed | .srsalt => c.srsalt | .rngkey => c.rngkey | .repc => c.repc
  | .deadm => c.deadm | .cellbase => c.cellbase | .celllim => c.celllim | .celluse => c.celluse | .cellcnt => c.cellcnt
  | .cbsel => c.cbsel | .mvl => c.mvl | .mprog => c.mprog | .win => c.win | .ctxid => c.ctxid | .status => c.status
  | .epc => c.epc | .cause => c.cause | .faultva => c.faultva | .faultel => c.faultel | .blamepc => c.blamepc
  | .blameseq => c.blameseq

/-- The bits of a CSR that are not reserved. -/
def Csr.mask : Csr → Word
  | .vl | .srsalt => 0xFFFFFFFF
  | .vtype => 0x8000FB1F
  | .vmode => 0xFF
  | .strip => 0x81FFFFFF
  | .flags => 0x7F
  | .repc => 0xFF
  | .deadm => 1
  | .cellbase | .celllim => ~~~0xFFF
  | .cbsel => 0x1F1F
  | .mvl => 0x7F
  | .mprog => 0x800003FF
  | .win => 0x3F1F
  | .status => 3
  | .cause => 0x1FFF
  | .ctxid => 0
  | _ => -1

/-- A combination of FMT and EG that is supported (04 R116). -/
def supportedFormat (fmt eg : Nat) : Bool :=
  decide (fmt ≤ 18) && (eg == 0 || (fmt == 0 && decide (eg ≤ 2)) || fmt == 1 || fmt == 2)

/-- VTYPE of a request: ILL alone when it is not supported (01 R20). -/
def vtypeOf (v : Word) : Word :=
  let v := v &&& Csr.vtype.mask
  if bit v 31 || !supportedFormat (field v 0 5) (field v 8 2) then (1 : Word) <<< 31 else v

/-- VTYPE written; while ILL is set, VL reads 0 (01 R20). -/
def Csrs.setVtype (c : Csrs) (v : Word) : Csrs :=
  let t := vtypeOf v
  { c with vtype := t, vl := if bit t 31 then 0 else c.vl }

/-- VMODE written: a reserved code leaves its field as it was (01 R22). -/
def Csrs.setVmode (c : Csrs) (v : Word) : Csrs :=
  let v := v &&& Csr.vmode.mask
  let v := if 5 ≤ field v 5 3 then setField v 5 3 c.frm else v
  let v := if 6 ≤ field v 0 3 then setField v 0 3 c.rm else v
  { c with vmode := v }

/-- WIN written: WDEPTH above 24 is stored as 24 (01 R14). -/
def Csrs.setWin (c : Csrs) (v : Word) : Csrs :=
  let v := v &&& Csr.win.mask
  { c with win := if 24 < field v 8 6 then setField v 8 6 24 else v }

/-- A CSR write: reserved bits are ignored, read-only fields keep their values (00 R7, 01 R34, R35). -/
def Csrs.put (c : Csrs) (n : Csr) (v : Word) : Csrs :=
  let m := v &&& n.mask
  match n with
  | .vl => { c with vl := if c.ill then 0 else m }
  | .vtype => c.setVtype v
  | .vmode => c.setVmode v
  | .elbase => { c with elbase := m } | .strip => { c with strip := m } | .flags => { c with flags := m }
  | .feix f => c.setFeix f m | .srseed => { c with srseed := m } | .srsalt => { c with srsalt := m }
  | .rngkey => { c with rngkey := m } | .repc => { c with repc := m } | .deadm => { c with deadm := m }
  | .cellbase => { c with cellbase := m } | .celllim => { c with celllim := m } | .celluse => { c with celluse := m }
  | .cellcnt => { c with cellcnt := m } | .cbsel => { c with cbsel := m } | .mvl => { c with mvl := m }
  | .mprog => { c with mprog := m } | .win => c.setWin v | .ctxid => c
  | .status => { c with status := (c.status &&& ~~~3) ||| m }
  | .epc => { c with epc := m } | .cause => { c with cause := m } | .faultva => { c with faultva := m }
  | .faultel => { c with faultel := m } | .blamepc => { c with blamepc := m } | .blameseq => { c with blameseq := m }

/-- The CSRs whose read waits for earlier passes (01 R26). -/
def Csr.readWaits : Csr → Bool
  | .flags | .feix _ | .strip | .celluse | .cellcnt => true
  | _ => false

/-- The CSRs whose write waits for earlier passes (01 R26). -/
def Csr.writeWaits : Csr → Bool
  | .flags | .feix _ => true
  | _ => false

/-- The rights deny an access (01 R36). -/
def Rights.deny (r : Rights) (sup writes : Bool) : Bool :=
  match r with
  | .u => false
  | .ur => writes && !sup
  | .s => !sup
  | .ro => writes

/-- A stopped pass that the supervisor has let go by clearing STRIP.PEND is given up with its sinks and the cells of its
stages (DEDUCED, assumption log 12). -/
def State.dropStopped (s : State) : State :=
  if s.me.a.csr.stripPend || (s.me.stopped.isNone && s.me.resume.isNone) then s
  else
    let ns := match s.me.stopped with | some r => (r.items.filter fun (p : Pend) => !p.implicit).map fun (p : Pend) => p.entry | none => []
    let a := ns.foldl (fun a n => a.dropEntry n) s.me.a
    let a := if s.me.resume.isSome then a.countCells else a
    ({ s with me := { s.me with a := a, stopped := none, resume := none } }).collect

/-- A CSR instruction (19 R375): the write's value from the old value and s[a], none where nothing is written. -/
def State.csrAccess (s : State) (d a : SReg) (n : BitVec 11) (f : Option (Word → Word → Word)) : Res :=
  match Csr.ofNumber n.toNat with
  | none => s.trap .illegal
  | some r =>
    if r.rights.deny (s.me.nurse || s.me.a.csr.sup) f.isSome then s.trap .priv
    else s.reading [a] fun s =>
      if s.me.busy && (r.readWaits || (f.isSome && r.writeWaits)) then .next s.wait
      else
        let old := s.me.a.csr.get r
        let s := match f with
          | some g => (s.setCsr fun c => c.put r (g old (s.reg a))).dropStopped
          | none => s
        .next (s.setReg d old).apart.retire

/-- csrr (R375). -/
def execCsrr (d : SReg) (n : BitVec 11) (s : State) : Res := s.csrAccess d 0 n none
/-- csrw (R375). -/
def execCsrw (d a : SReg) (n : BitVec 11) (s : State) : Res := s.csrAccess d a n (some fun _ v => v)
/-- csrset; with a = s0 it writes nothing (R375). -/
def execCsrset (d a : SReg) (n : BitVec 11) (s : State) : Res :=
  s.csrAccess d a n (if a = 0 then none else some fun old v => old ||| v)
/-- csrclr; with a = s0 it writes nothing (R375). -/
def execCsrclr (d a : SReg) (n : BitVec 11) (s : State) : Res :=
  s.csrAccess d a n (if a = 0 then none else some fun old v => old &&& ~~~v)

/-! ## Traps and the return (19 R371, R372) -/

/-- trap (R371). -/
def execTrap (a : SReg) (s : State) : Res := s.reading [a] fun s => s.trapAtIssue .brk (s.reg a) false
/-- brk (R371). -/
def execBrk (s : State) : Res := s.trapAtIssue .brk s.me.a.pc false
/-- UNDEFINED_WORD: a word that no instruction describes (04 R114). -/
def execUndefinedWord (s : State) : Res := s.trap .illegal

/-- FETCH_FAULT: the fetch at PC, or of the word that a rep prefixes, fails (04 R102, R120). -/
def execFetchFault (s : State) : Res :=
  match s.fetch s.me.a.ipc with
  | .fault f => s.fetchTrap f s.me.a.ipc
  | .waits a b => .next (s.waitLink a b s.me.a.ipc false)
  | .ok _ _ => .next s

/-- The word at an address is a rep whose repeats are in progress (19 R372). -/
def State.repeatAt (s : State) (t : Word) : Bool :=
  s.me.a.csr.repAct &&
    (match s.peek t with
    | some w => (match decode w with | .ok (.rep ..) => true | _ => false)
    | none => false)

/-- A view in which the sinks of a stopped pass have not issued: where a later freeze returns to (02 R71). -/
def Run.unissued (r : Run) (a : Arch) : Arch :=
  r.items.foldl (fun a p =>
    match p.sink? with
    | none => a
    | some e =>
      let vh := a.vh.map fun x => (x.1, match x.2 with
        | .stream t => .stream { t with consumed := t.consumed - e.rowsTaken (BitVec.ofNat 7 x.1) }
        | h => h)
      { a.dropEntry p.entry with vh := vh }) a

/-- The pass that eret re-forces: it resumes at FAULTEL under the saved partial states, its stages that have not completed are
planned again, and the context's registers are those that eret leaves (02 R69, R70, 19 R372). -/
def Run.resume (r : Run) (t : Word) (a : Arch) (repc : Option Word) : Run :=
  let w := r.work
  let cur := a.csr.resumeAt r.num (w.elbase + word r.cur) w.elbase w.len
  let after := r.left.foldl (fun a st => a.replace st.node st.cell) { a with csr := { a.csr with mprog := 0 } }
  let before := r.unissued { a with pc := t, csr := { a.csr with strip := 0 } }
  { r with
    items := r.items.map fun p => { p with pc := t, repc := repc, resync := true, before := before, after := after },
    cur := cur, strips := [], waits := 0, mustCommit := some cur }

/-- The stopped pass is forced again before anything issues, and control goes where 19 R372 says; with none it goes to t. A
materialisation that a snapshot held as stopped is forced again for the instruction at t, which required it: at the element that a trap of
that instruction, met before, has left standing (FAULTEL all ones). -/
def State.reforce (s : State) (t : Word) : State :=
  let c := s.me.a.csr
  match c.stripPend, s.me.stopped, s.me.resume with
  | true, some r, _ =>
    let rep := s.repeatAt t
    let sink := r.items.any fun p => !p.implicit
    let s := s.jump (if rep then t else if sink then t + 4 else t)
    let a := if sink then { s.me.a with csr := { s.me.a.csr with mprog := 0 } } else s.me.a
    ({ s with me := { s.me with
      a := r.left.foldl (fun a (st : Stage) => a.replace st.node st.cell) a, stopped := none,
      run := some (r.resume t s.me.a (if rep then some c.repc else none)) } }).wait
  | true, none, some x =>
    let s := s.jump t
    let trapped := decide (c.faultel = -1)
    { s with me := { s.me with resume := some { x with
        due := some t, strip := if trapped then x.strip else c.strip, el := if trapped then x.el else c.faultel } } }
  | _, _, _ => s.jump t

/-- eret (R372). -/
def execEret (s : State) : Res :=
  s.supervisor fun s =>
    let c := s.me.a.csr
    let t := c.epc
    s.alignedTarget t fun s =>
      let status := setField (setField c.status 0 1 (field c.status 1 1)) 1 1 0
      let s := s.setCsr fun c => { c with status := status }
      let answered : Bool := match s.me.service with | some v => v.answer.isSome | none => false
      let s := if answered then { s with me := { s.me with service := none } } else s
      .next (s.reforce t)

/-! ## Waits (19 R373) -/

/-- wfe: it completes at once when the event bit is set, and otherwise waits (R373). -/
def execWfe (a : SReg) (s : State) : Res :=
  s.reading [a] fun s =>
    if s.me.event then .next ({ s with me := { s.me with event := false } }).retire
    else
      let line := if a = 0 then none
        else match s.translate s.me (s.reg a).toNat .read with | .ok x => some (x.pa / 64) | .error _ => none
      .next { s with me := { s.me with wait := .wfe line false } }

/-- A wfe completes: the event bit is cleared (19 R373). -/
def State.wfeDone (s : State) : State := ({ s with me := { s.me with event := false, wait := .none } }).retire

/-- The wfe of the moving context completes once it is woken. -/
def State.wfeWake (s : State) : Res :=
  match s.me.wait with
  | .wfe _ woken => if s.me.event || woken then .next s.wfeDone else .next s
  | _ => .next s

/-- Its wfe completes when its time is over. -/
def State.wfeTimeout (s : State) : Res := match s.me.wait with | .wfe _ _ => .next s.wfeDone | _ => .next s

/-- Its yield completes. -/
def State.yieldDone (s : State) : Res :=
  match s.me.wait with
  | .yield _ => .next ({ s with me := { s.me with wait := .none } }).retire
  | _ => .next s

/-- WFE_WAKE: the event bit is set, or a write to the line has performed (R373). -/
def execWfeWake (c : CtxId) (s : State) : Res := s.onCtx c.toNat State.wfeWake

/-- WFE_TIMEOUT: 65,536 cycles have passed (R373). -/
def execWfeTimeout (c : CtxId) (s : State) : Res := s.onCtx c.toNat State.wfeTimeout

/-- yield: it waits for another context of the core, or 64 cycles (R373). -/
def execYield (s : State) : Res := .next { s with me := { s.me with wait := .yield false } }

/-- YIELD_COMPLETE: another context of the core has issued, or 64 cycles have passed (R373). -/
def execYieldComplete (c : CtxId) (s : State) : Res := s.onCtx c.toNat State.yieldDone

/-! ## TLBs and the data cache (19 R365, R366, R374) -/

/-- The entries that a tlbinv removes. -/
def TlbEntry.dropped (e : TlbEntry) (tenant : Nat) (all : Bool) (va : Nat) : Bool :=
  e.tenant == tenant && (all || e.va / 2 ^ e.bits == va / 2 ^ e.bits)

/-- A virtual address that is translated through an entry of a list. -/
def throughEntry (es : List TlbEntry) (va : Nat) : Bool := es.any fun e => e.va / 2 ^ e.bits == va / 2 ^ e.bits

/-- A range of virtual addresses that meets a page of a list. -/
def rangeThrough (es : List TlbEntry) (r : Range) : Bool :=
  es.any fun e => r.overlaps { base := e.va / 2 ^ e.bits * 2 ^ e.bits, len := 2 ^ e.bits }

/-- Every TLB entry of a die, with those of its cores. -/
def State.dieTlbs (s : State) (die : Nat) : List TlbEntry :=
  (s.die die).tlb ++ (List.range 144).flatMap fun k => (s.core (144 * die + k)).tlb

/-- The ranges that a held effect reads: entries of a bank, rows of a tile (11 R261, 12 R294). -/
def Held.reads (h : Held) : List Range :=
  match h.instr, h.args with
  | .cbld .., a :: n :: _ => [{ base := a.toNat, len := 16 * n.toNat }]
  | .mld .., base :: stride :: _ => (List.range 64).map fun i => { base := (tileRowVa base stride i).toNat, len := 256 }
  | _, _ => []

/-- An access of a context that has translated through an entry of a list and has not performed. -/
def Ctx.usesEntries (c : Ctx) (es : List TlbEntry) : Bool :=
  (c.held.any fun h => (h.footprint ++ h.reads).any (rangeThrough es)) ||
    (match c.run with
    | some r => r.strips.any fun t => t.outs.any fun o => o.writes.any fun w => throughEntry es w.va
    | none => false)

/-- What a tlbinv waits for: an access that translated through an entry it removes has not performed (19 R366). -/
def State.tlbBlocker (s : State) (die tenant : Nat) (es : List TlbEntry) : Option Turn :=
  let cs := s.contexts.filter fun c => c.die == die && !c.nurse && (c.a.csr.tenant == tenant || tenant == 16)
  match cs.find? fun c => c.usesEntries es with
  | some c => some (.advance c.id)
  | none =>
    match s.cores.find? fun k => k.1 / 144 == die && k.2.path.any fun w => (w.tenant == tenant || tenant == 16) && throughEntry es w.va.toNat with
    | some k => some (.happen (.performAtHome (BitVec.ofNat 10 k.1) 0))
    | none =>
      match s.transfers.find? fun t => t.quad / 36 == die && (t.tenant == tenant || tenant == 16) &&
          (rangeThrough es { base := t.dst.toNat, len := t.n } || rangeThrough es { base := t.obj.toNat, len := 64 }) with
      | some t => some (.happen (.foragerChunkLand t.id (BitVec.ofNat 8 (((List.range 256).find? fun k => !t.landed.contains k).getD 0))))
      | none => (s.pkg.requests.find? fun r => r.die == die && (r.tenant == tenant || tenant == 16) && throughEntry es r.va.toNat).map fun _ => .time 1

/-- Every TLB of a die drops the entries that meet a test (19 R366). -/
def State.dropTlbs (s : State) (die : Nat) (drop : TlbEntry → Bool) : State :=
  let s := s.setDie die fun d => { d with tlb := d.tlb.filter fun e => !drop e }
  (s.cores.filter fun c => c.1 / 144 == die).foldl (fun s c =>
    s.setCore c.1 fun k => { k with tlb := k.tlb.filter fun e => !drop e }) s

/-- tlbinv (R366). -/
def execTlbinv (a b : SReg) (s : State) : Res :=
  s.supervisor fun s => s.reading [a, b] fun s =>
    let w := s.reg b
    let tenant := if s.me.nurse then (if bit w 8 then 16 else field w 0 4) else s.me.a.csr.tenant
    let drop := fun (e : TlbEntry) => e.dropped tenant (bit w 4) (s.reg a).toNat
    let die := s.me.die
    match s.tlbBlocker die tenant ((s.dieTlbs die).filter drop) with
    | some t => .next { s with turns := t :: s.turns }
    | none =>
      .next (s.dropTlbs die drop).retire

/-- PAGE_WALK: a walk for an access of a context completes: A and D bits are set, and the TLBs hold the entry (R365). -/
def execPageWalk (c : CtxId) (va : Word) (write : Bool) (s : State) : Res :=
  let x := s.ctx c.toNat
  if x.state = .vacant then .next s
  else
    let k := if write then Access.write else .read
    match s.lookup x va.toNat k with
    | .ok t => .next (s.use x t k)
    | .fault _ | .waits _ _ => .next s

/-- dcwb: every earlier sink has completed, and every earlier write has performed at its home (R374). -/
def execDcwb (s : State) : Res :=
  s.afterSinks fun s =>
    if s.me.held.isEmpty && !(s.myCore.path.any fun w => w.of s.me) && !s.podPending s.me then .next s.retire
    else .next s.wait

/-- dcinv: the lines of a range, or all of them (R374). -/
def execDcinv (a b : SReg) (s : State) : Res :=
  s.reading [a, b] fun s =>
    let n := (s.reg b).toNat
    let s := if n = 0 then s.invalidate s.me.core fun _ => true
      else
        let ls := s.rangeLines { base := (s.reg a).toNat, len := n }
        s.invalidate s.me.core fun l => ls.contains l
    .next s.retire

/-! ## The end of a context (19 R360, R361) -/

/-- A context halts: handles and streams are EMPTY, the brood table is free, and what it held of its core is released. -/
def State.haltContext (s : State) : State :=
  let s := s.setMyCore fun k => k.release s.me.id
  let a := { s.me.a with vh := [], kh := [], brood := [], csr := { s.me.a.csr with mvl := 0 } }
  { s with me := { s.me with a := a.collect [], state := .halted, pend := [], run := none, stopped := none, resume := none, held := [], rows := [], ahead := [],
                             closed := [] } }

/-- A launch all of whose contexts have halted ends (19 R361); one of which a context was frozen alone has moved on with it. -/
def State.launchOver (s : State) (d seq : Nat) : State :=
  match (s.die d).launch? seq with
  | none => s
  | some l =>
    if l.state = .placed ∧ (l.ctxs.all fun id => (s.ctx id).state == .halted) = true then
      s.setDie d fun x => x.setLaunch seq fun l => { l with state := if l.ctxs.length = l.members.length then .ended else .moved }
    else s

/-- halt (R360). -/
def execHalt (s : State) : Res :=
  if s.me.nurse then .next ({ s with me := { s.me with state := .halted } }).issued
  else s.afterSinks fun s => s.afterWrites .die none fun s => .next (s.issued.haltContext.launchOver s.me.die s.me.launch)

end Sys2Proof.Machine
end

