-- ==== Sys2Proof/Machine/Vector.lean ====
section
/-!
DEFINITION. Vector configuration, element-wise instructions and mask instructions (06): what each asks of the checks of 02
R41, and the entry that it makes. What a node is at an element stands in Eval.lean.
-/

namespace Sys2Proof.Machine

/-! ## Configuration (06 R158 to R161) -/

/-- The checks of a configuration instruction: no nurse has a vector unit (19 R352). It is neither node nor sink (02 R39), and
the supervisor may issue it while a stopped pass stands. -/
def State.configures (s : State) (k : State → Res) : Res := s.vectorUnit k

/-- VL and VTYPE set by a request in the layout of VTYPE, ill-formed or not; d := VL (06 R158). -/
def State.setLength (s : State) (d a : SReg) (q : Word) (bad : Bool) : Res :=
  let t := if bad then (1 : Word) <<< 31 else vtypeOf q
  let vl := if bit t 31 then 0 else min (s.reg a).toNat 0xFFFFFFFF
  .next ((s.setCsr fun c => { c with vtype := t, vl := word vl }).setReg d (word vl)).retire

/-- The request of setvli as VTYPE lays it out (04 R115). -/
def immediateRequest (q : BitVec 11) : Word :=
  let n := q.toNat
  word (n % 32 + n / 32 % 4 * 2 ^ 8 + n / 128 % 2 * 2 ^ 11 + n / 256 % 8 * 2 ^ 12)

/-- setvli (R158). -/
def execSetvli (d a : SReg) (req : BitVec 11) (s : State) : Res :=
  s.configures fun s => s.reading [a] fun s => s.setLength d a (immediateRequest req) false
/-- setvl (R158). -/
def execSetvl (d a b : SReg) (s : State) : Res :=
  s.configures fun s => s.reading [a, b] fun s =>
    let q := s.reg b
    s.setLength d a (q &&& 0xFFFF) (decide (q &&& ~~~0xFB1F ≠ 0))
/-- setel (R159). -/
def execSetel (a : SReg) (s : State) : Res :=
  s.configures fun s => s.reading [a] fun s => .next (s.setCsr fun c => { c with elbase := s.reg a }).retire

/-- Rows that no handle's stream and no pending reader needs are given up (12 R290). -/
def Ctx.pruneRows (c : Ctx) : Ctx :=
  { c with rows := c.rows.filter fun r =>
      (c.a.vh.any fun e => match e.2 with | .stream t => t.uid == r.uid | _ => false) ||
        c.items.any fun p => p.assigned.any fun t => t.1.uid == r.uid && t.2 == r.row }

/-- The numbers from one to another. -/
def between (lo hi : Nat) : List Nat := (List.range (hi + 1 - lo)).map fun i => lo + i

/-- Registers marked dead: what they held is released (06 R161). -/
def State.markDead (s : State) (f : Arch → Arch) : Res :=
  let s := (s.setArch f).collect
  .next ({ s with me := s.me.pruneRows }).retire

/-- dead of scalar registers; s0 is skipped (R161). -/
def execDeadScalar (d a : SReg) (s : State) : Res :=
  s.configures fun s => s.markDead fun r =>
    { r with dead := (between d.toNat a.toNat).foldl (fun w n =>
        if n = 0 then w else w ||| (1 : BitVec 512) <<< r.phys (BitVec.ofNat 7 n)) r.dead }
/-- dead of vector handles (R161). -/
def execDeadVector (d a : VReg) (s : State) : Res :=
  s.configures fun s => s.markDead fun r =>
    (between d.toNat a.toNat).foldl (fun r n => r.setV (BitVec.ofNat 7 n) .empty) r
/-- dead of masks; k0 is skipped (R161). -/
def execDeadMask (d a : KReg) (s : State) : Res :=
  s.configures fun s => s.markDead fun r =>
    (between d.toNat a.toNat).foldl (fun r n => r.setK (BitVec.ofNat 4 n) .empty) r

/-- A sequence number taken by an instruction that creates nothing. -/
def Arch.takeSeq (a : Arch) : Arch := { a with seq := a.seq + 1 }

/-- vforce (R160). -/
def execVforce (d : VReg) (s : State) : Res :=
  let a := s.me.a
  let form (e : Entry) : SinkForm :=
    { joins := true, resync := false, store := [], guards := [], aligned := fun _ => true, fills := some e }
  let ask (wraps : Bool) (len : Nat) : VectorChecks :=
    { illegal := wraps, illegalTyped := false, typed := false, vs := [d], ks := [], ss := [], len := len, bank := none }
  match a.vhandle d with
  | .node n =>
    (match broodEntry a.brood n with
    | none => .next s.retire
    | some x =>
      if a.forcing n then s.checked (ask false x.len) fun s => .next (s.setArch Arch.takeSeq).retire
      else
      let e : Entry := { a.entry (.vforce d) .sink with
        len := x.len, elbase := x.elbase, fmt := x.fmt, eg := x.eg, a := Operand.of (.node n) }
      s.checked (ask (rangeWraps x.elbase x.len) x.len) fun s => s.issueSink e (form x) fun _ _ a => a)
  | .cell c => s.checked (ask false c.len) fun s => .next (s.setArch Arch.takeSeq).retire
  | .empty | .stream _ => s.checked (ask false 0) fun s => .next s.retire

/-! ## The shape of an element-wise instruction (06 R163 to R166) -/

/-- Slot B of CBSEL, when it is bound (01 R31). -/
def Csrs.slotB (c : Csrs) : Option BankReg := if bit c.cbsel 4 then some (BitVec.ofNat 4 (field c.cbsel 0 4)) else none

/-- Slot M of CBSEL, when it is bound (01 R31). -/
def Csrs.slotM (c : Csrs) : Option BankReg := if bit c.cbsel 12 then some (BitVec.ofNat 4 (field c.cbsel 8 4)) else none

/-- The formats that `.vc` accepts (06 R163). -/
def codebookFmt (f : Fmt) : Bool := f == .f32 || f == .bf16 || f == .f16

/-- An element-wise instruction: its operands, its mask and what FMT it accepts. -/
structure Shape where
  op : Instr
  variant : Variant
  m : Bool
  a : BitVec 7
  b : BitVec 7
  /-- operand b is read: a unary instruction has none -/
  binary : Bool
  /-- the FMT and whether EG is 0, as 06 R163 accepts them -/
  accepts : Fmt → Bool → Bool

/-- The vector handles that a shape reads as a and b. -/
def Shape.handles (x : Shape) : List VReg :=
  (if x.variant == .sv then [] else [x.a]) ++
    (if x.binary && (x.variant == .vv || x.variant == .vc || x.variant == .sv) then [x.b] else [])

/-- The scalar registers that a shape reads. -/
def Shape.scalars (x : Shape) : List SReg :=
  (if x.variant == .sv then [x.a] else []) ++ (if x.binary && x.variant == .vs then [x.b] else [])

/-- The grounds of ILLEGAL that read VTYPE. -/
def Shape.refused (x : Shape) (c : Csrs) : Bool :=
  !x.accepts c.fmt (c.eg == 0) || (x.variant == .vc && !codebookFmt c.fmt)

/-- A handle whose format an index operand may have; one not yet decided may (11 R251). -/
def Arch.indexHandle (a : Arch) (v : VReg) : Bool :=
  match a.vref v with
  | .node n => (match broodEntry a.brood n with | some x => x.undecided || indexFmt x.fmt | none => true)
  | .cell c => (match c.fmt with | some f => indexFmt f | none => true)
  | _ => true

/-- The checks of an element-wise instruction whose destination is no stream; more handles and masks may be sources. -/
def State.shapeChecks (s : State) (x : Shape) (illegal : Bool) (vs : List VReg) (ks : List KReg) : VectorChecks :=
  let c := s.me.a.csr
  { illegal := illegal || (x.variant == .vc && (c.slotB.isNone || !s.me.a.indexHandle x.b)), illegalTyped := x.refused c, typed := true,
    vs := x.handles ++ vs, ks := s.me.a.maskSources x.m ++ ks, ss := x.scalars, len := c.vl.toNat,
    bank := if x.variant == .vc then c.slotB else none }

/-- Operand a of a shape, as captured. -/
def State.operandA (s : State) (x : Shape) : Operand :=
  Operand.of (if x.variant == .sv then .scalar (s.reg x.a) else s.me.a.vref x.a)

/-- Operand b of a shape, as captured. -/
def State.operandB (s : State) (x : Shape) : Operand :=
  if !x.binary then Operand.none
  else match x.variant with
    | .vv | .sv => Operand.of (s.me.a.vref x.b)
    | .vs => Operand.of (.scalar (s.reg x.b))
    | .vc => { ref := s.me.a.vref x.b, bank := s.me.a.csr.slotB }
    | .vi => Operand.none

/-- The node of a shape. -/
def State.shapeEntry (s : State) (x : Shape) : Entry :=
  { s.me.a.entry x.op .node with a := s.operandA x, b := s.operandB x, mask := s.me.a.maskOperand x.m }

/-- An element-wise instruction with a vector destination (06 R166). -/
def State.elementwise (s : State) (x : Shape) (d : VReg) (f : Entry → Entry) : Res :=
  let a := s.me.a
  s.checked (s.shapeChecks x (a.streaming d) (if a.merges x.m && !a.csr.ill then [d] else []) []) fun s =>
    s.makeNode (f { s.shapeEntry x with merge := s.me.a.mergeOperand x.m d }) fun n a => a.setV d (.node n)

/-- Classes F, K and I, whatever EG. -/
def acceptsFKI (f : Fmt) (_ : Bool) : Bool := f.cls != .b
/-- Classes F and K, whatever EG. -/
def acceptsFK (f : Fmt) (_ : Bool) : Bool := f.cls == .f || f.cls == .k
/-- Classes F, I and B, whatever EG. -/
def acceptsFIB (f : Fmt) (_ : Bool) : Bool := f.cls != .k
/-- Classes I and B. -/
def acceptsIB (f : Fmt) (_ : Bool) : Bool := f.cls == .i || f.cls == .b
/-- Class I. -/
def acceptsI (f : Fmt) (_ : Bool) : Bool := f.cls == .i
/-- Any FMT with EG = 0. -/
def acceptsFlat (_ : Fmt) (flat : Bool) : Bool := flat

/-- A shape with two operands. -/
def binaryShape (op : Instr) (v : Variant) (m : Bool) (a b : BitVec 7) (accepts : Fmt → Bool → Bool) : Shape :=
  { op := op, variant := v, m := m, a := a, b := b, binary := true, accepts := accepts }

/-- A shape with one operand. -/
def unaryShape (op : Instr) (m : Bool) (a : BitVec 7) (accepts : Fmt → Bool → Bool) : Shape :=
  { op := op, variant := .vv, m := m, a := a, b := 0, binary := false, accepts := accepts }

/-! ## Arithmetic (06 R167 to R170) -/

/-- vadd (R167). -/
def execVadd (f : Variant) (m : Bool) (d a b : VReg) (s : State) : Res :=
  s.elementwise (binaryShape (.vadd f m d a b) f m a b acceptsFKI) d id
/-- vsub (R167). -/
def execVsub (f : Variant) (m : Bool) (d a b : VReg) (s : State) : Res :=
  s.elementwise (binaryShape (.vsub f m d a b) f m a b acceptsFKI) d id
/-- vmul (R167). -/
def execVmul (f : Variant) (m : Bool) (d a b : VReg) (s : State) : Res :=
  s.elementwise (binaryShape (.vmul f m d a b) f m a b acceptsFKI) d id
/-- vdiv (R167). -/
def execVdiv (f : Variant) (m : Bool) (d a b : VReg) (s : State) : Res :=
  s.elementwise (binaryShape (.vdiv f m d a b) f m a b acceptsFKI) d id
/-- vmin (R167). -/
def execVmin (f : Variant) (m : Bool) (d a b : VReg) (s : State) : Res :=
  s.elementwise (binaryShape (.vmin f m d a b) f m a b acceptsFKI) d id
/-- vmax (R167). -/
def execVmax (f : Variant) (m : Bool) (d a b : VReg) (s : State) : Res :=
  s.elementwise (binaryShape (.vmax f m d a b) f m a b acceptsFKI) d id

/-- vfma and vfms: the old vD is the addend, always a source, and the merge operand (06 R168). -/
def State.fusedNode (s : State) (x : Shape) (d : VReg) : Res :=
  s.checked (s.shapeChecks x (s.me.a.streaming d) [d] []) fun s =>
    let c := Operand.of (s.me.a.vref d)
    s.makeNode { s.shapeEntry x with c := c, merge := s.me.a.mergeOperand x.m d } fun n a => a.setV d (.node n)

/-- vfma (R168). -/
def execVfma (f : Variant) (m : Bool) (d a b : VReg) (s : State) : Res :=
  s.fusedNode (binaryShape (.vfma f m d a b) f m a b acceptsFKI) d
/-- vfms (R168). -/
def execVfms (f : Variant) (m : Bool) (d a b : VReg) (s : State) : Res :=
  s.fusedNode (binaryShape (.vfms f m d a b) f m a b acceptsFKI) d

/-- vsqrt (R169). -/
def execVsqrt (m : Bool) (d a : VReg) (s : State) : Res := s.elementwise (unaryShape (.vsqrt m d a) m a acceptsFK) d id
/-- vabs (R169). -/
def execVabs (m : Bool) (d a : VReg) (s : State) : Res := s.elementwise (unaryShape (.vabs m d a) m a acceptsFKI) d id
/-- vneg (R169). -/
def execVneg (m : Bool) (d a : VReg) (s : State) : Res := s.elementwise (unaryShape (.vneg m d a) m a acceptsFKI) d id
/-- vrcp (R169). -/
def execVrcp (m : Bool) (d a : VReg) (s : State) : Res := s.elementwise (unaryShape (.vrcp m d a) m a acceptsFK) d id
/-- vrsq (R169). -/
def execVrsq (m : Bool) (d a : VReg) (s : State) : Res := s.elementwise (unaryShape (.vrsq m d a) m a acceptsFK) d id
/-- vexp2 (R169). -/
def execVexp2 (m : Bool) (d a : VReg) (s : State) : Res := s.elementwise (unaryShape (.vexp2 m d a) m a acceptsFK) d id
/-- vlog2 (R169). -/
def execVlog2 (m : Bool) (d a : VReg) (s : State) : Res := s.elementwise (unaryShape (.vlog2 m d a) m a acceptsFK) d id
/-- vtanh (R169). -/
def execVtanh (m : Bool) (d a : VReg) (s : State) : Res := s.elementwise (unaryShape (.vtanh m d a) m a acceptsFK) d id
/-- vsigm (R169). -/
def execVsigm (m : Bool) (d a : VReg) (s : State) : Res := s.elementwise (unaryShape (.vsigm m d a) m a acceptsFK) d id

/-- vand (R170). -/
def execVand (f : Variant) (m : Bool) (d a b : VReg) (s : State) : Res :=
  s.elementwise (binaryShape (.vand f m d a b) f m a b acceptsFIB) d id
/-- vor (R170). -/
def execVor (f : Variant) (m : Bool) (d a b : VReg) (s : State) : Res :=
  s.elementwise (binaryShape (.vor f m d a b) f m a b acceptsFIB) d id
/-- vxor (R170). -/
def execVxor (f : Variant) (m : Bool) (d a b : VReg) (s : State) : Res :=
  s.elementwise (binaryShape (.vxor f m d a b) f m a b acceptsFIB) d id
/-- vshl (R170). -/
def execVshl (f : Variant) (m : Bool) (d a b : VReg) (s : State) : Res :=
  s.elementwise (binaryShape (.vshl f m d a b) f m a b acceptsIB) d id
/-- vshr (R170). -/
def execVshr (f : Variant) (m : Bool) (d a b : VReg) (s : State) : Res :=
  s.elementwise (binaryShape (.vshr f m d a b) f m a b acceptsIB) d id
/-- vsra (R170). -/
def execVsra (f : Variant) (m : Bool) (d a b : VReg) (s : State) : Res :=
  s.elementwise (binaryShape (.vsra f m d a b) f m a b acceptsIB) d id
/-- vmulh (R170). -/
def execVmulh (f : Variant) (m : Bool) (d a b : VReg) (s : State) : Res :=
  s.elementwise (binaryShape (.vmulh f m d a b) f m a b acceptsI) d id

/-! ## Compare and select (06 R171, R172) -/

/-- The FMT that a condition accepts: in class B only .eq and .ne, and EG = 0 (06 R163, R171). -/
def acceptsCond (cc : Cond) (f : Fmt) (flat : Bool) : Bool := flat && (f.cls != .b || cc == .eq || cc == .ne)

/-- vcmp: a mask node; the old kD is the merge operand (R171). -/
def execVcmp (f : Variant) (m : Bool) (cc : Cond) (kd : KReg) (a b : VReg) (s : State) : Res :=
  let x := binaryShape (.vcmp f m cc kd a b) f m a b (acceptsCond cc)
  s.checked (s.shapeChecks x (kd == 0) [] (if s.me.a.merges m && !s.me.a.csr.ill then [kd] else [])) fun s =>
    let merge := if s.me.a.merges m then Operand.of (s.me.a.kref kd) else Operand.none
    s.makeNode { s.shapeEntry x with merge := merge } fun n a => a.setK kd (.node n)

/-- vsel: always masked, and the old vD is not read (R172). -/
def execVsel (f : Variant) (d a b : VReg) (s : State) : Res :=
  let x := binaryShape (.vsel f d a b) f true a b fun _ _ => true
  s.checked (s.shapeChecks x (s.me.a.streaming d) [] []) fun s =>
    s.makeNode (s.shapeEntry x) fun n a => a.setV d (.node n)

/-! ## Conversion, scaling, blocks, random numbers (06 R173 to R177) -/

/-- vcvt: the node's format is T (R173). -/
def execVcvt (t : Fmt) (m : Bool) (d a : VReg) (s : State) : Res :=
  s.elementwise (unaryShape (.vcvt t m d a) m a acceptsFlat) d fun e => { e with fmt := t }
/-- vscl (R174). -/
def execVscl (f : Variant) (m : Bool) (d a b : VReg) (s : State) : Res :=
  s.elementwise (binaryShape (.vscl f m d a b) f m a b acceptsFK) d id
/-- vblk: .nx4 with any geometry, .mx8 with g32 (R175). -/
def execVblk (g : Geo) (m : Bool) (d a : VReg) (s : State) : Res :=
  s.elementwise (unaryShape (.vblk g m d a) m a fun f _ => f == Fmt.nx4 || (f == Fmt.mx8 && g == .g32)) d id

/-- A shape whose only operand is a scalar register, captured in a. -/
def scalarShape (op : Instr) (m : Bool) (a : SReg) (accepts : Fmt → Bool → Bool) : Shape :=
  { op := op, variant := .sv, m := m, a := a, b := 0, binary := false, accepts := accepts }

/-- vrng.raw (R177). -/
def execVrngRaw (m : Bool) (d : VReg) (a : SReg) (s : State) : Res :=
  s.elementwise (scalarShape (.vrngRaw m d a) m a acceptsIB) d id
/-- vrng.unif (R177). -/
def execVrngUnif (m : Bool) (d : VReg) (a : SReg) (s : State) : Res :=
  s.elementwise (scalarShape (.vrngUnif m d a) m a fun f flat => acceptsFK f flat && flat) d id

/-! ## Mask instructions (06 R178, R179) -/

/-- A mask node of masks and a scalar. -/
def State.maskNode (s : State) (op : Instr) (d : KReg) (ks : List KReg) (ss : List SReg) (f : Entry → Entry) : Res :=
  s.checked { illegal := d == 0, illegalTyped := false, typed := true, vs := [], ks := ks, ss := ss,
              len := s.me.a.csr.vl.toNat, bank := none } fun s =>
    s.makeNode (f (s.me.a.entry op .node)) fun n a => a.setK d (.node n)

/-- A mask node of two masks. -/
def State.maskPair (s : State) (op : Instr) (d a b : KReg) : Res :=
  s.maskNode op d [a, b] [] fun e => { e with a := Operand.of (s.me.a.kref a), b := Operand.of (s.me.a.kref b) }

/-- A mask node of one mask. -/
def State.maskOne (s : State) (op : Instr) (d a : KReg) : Res :=
  s.maskNode op d [a] [] fun e => { e with a := Operand.of (s.me.a.kref a) }

/-- kmeet (R178). -/
def execKmeet (d a b : KReg) (s : State) : Res := s.maskPair (.kmeet d a b) d a b
/-- kjoin (R178). -/
def execKjoin (d a b : KReg) (s : State) : Res := s.maskPair (.kjoin d a b) d a b
/-- kdiff (R178). -/
def execKdiff (d a b : KReg) (s : State) : Res := s.maskPair (.kdiff d a b) d a b
/-- kless (R178). -/
def execKless (d a b : KReg) (s : State) : Res := s.maskPair (.kless d a b) d a b
/-- kflip (R178). -/
def execKflip (d a : KReg) (s : State) : Res := s.maskOne (.kflip d a) d a
/-- kcopy (R178). -/
def execKcopy (d a : KReg) (s : State) : Res := s.maskOne (.kcopy d a) d a
/-- kmsk (R178). -/
def execKmsk (d a : KReg) (s : State) : Res := s.maskOne (.kmsk d a) d a
/-- kset (R178). -/
def execKset (d : KReg) (a : SReg) (s : State) : Res :=
  s.maskNode (.kset d a) d [] [a] fun e => { e with a := Operand.of (.scalar (s.reg a)) }

/-- kpop and kfirst: sinks over what the mask captured, whose length must be VL (06 R178, R179). -/
def State.maskToScalar (s : State) (op : Instr) (d : SReg) (k : KReg) : Res :=
  let e := { s.me.a.maskSink op k with dst := d.toNat }
  s.checked { illegal := rangeWraps e.elbase e.len, illegalTyped := false, typed := true, vs := [], ks := [k], ss := [],
              len := s.me.a.csr.vl.toNat, bank := none } fun s =>
    s.issueSink e { joins := false, resync := true, store := [], guards := [], aligned := fun _ => true, fills := none }
      fun _ _ a => a

/-- kpop (R178). -/
def execKpop (d : SReg) (a : KReg) (s : State) : Res := s.maskToScalar (.kpop d a) d a
/-- kfirst (R178). -/
def execKfirst (d : SReg) (a : KReg) (s : State) : Res := s.maskToScalar (.kfirst d a) d a

end Sys2Proof.Machine
end

