-- ==== Sys2Proof/Machine/VectorMemory.lean ====
section
/-!
DEFINITION. Vector loads and stores, element movement, scans, reductions (07), the chunk-predicated load (15 R332), the
partition map and lane-private SRAM (10 R227, R238): what each asks of the checks of 02 R41, and the entry that it makes.
-/

namespace Sys2Proof.Machine

/-! ## Loads (07 R180 to R186, 15 R332) -/

/-- The byte offset of an MV word with an offset field (07 R180). -/
def vectorOff (x : BitVec 7) : Word := x.signExtend 64 * 8

/-- A load node: base and stride, its format decided now if element 0 translates (03 R434, 07 R185). -/
def State.loadNode (s : State) (op : Instr) (m : Bool) (d : VReg) (form : LoadForm) (ss : List SReg) (merges : Bool)
    (base stride : Word) : Res :=
  let a := s.me.a
  s.checked { illegal := a.streaming d, illegalTyped := false, typed := true, vs := if merges && !a.csr.ill then [d] else [],
              ks := a.maskSources m, ss := ss, len := a.csr.vl.toNat, bank := none } fun s =>
    let a := s.me.a
    let e : Entry := { a.entry op .load with
      mask := a.maskOperand m, merge := if merges then Operand.of (a.vref d) else Operand.none,
      source := some { base := base, stride := stride, decided := none, form := form } }
    s.makeNode (match s.probe base .read with | some p => e.decide p | none => e) fun n a => a.setV d (.node n)

/-- vld (R180, R185). -/
def execVld (m : Bool) (d : VReg) (base : BaseReg) (x : BitVec 7) (s : State) : Res :=
  s.loadNode (.vld m d base x) m d .vld [sregOfBase base] (s.me.a.merges m) (s.reg (sregOfBase base) + vectorOff x) 1
/-- vlds (R182, R185). -/
def execVlds (m : Bool) (d : VReg) (base : BaseReg) (x : SReg) (s : State) : Res :=
  s.loadNode (.vlds m d base x) m d .vlds [sregOfBase base, x] (s.me.a.merges m) (s.reg (sregOfBase base)) (s.reg x)
/-- vldb (R186). -/
def execVldb (m : Bool) (d : VReg) (base : BaseReg) (x : BitVec 7) (s : State) : Res :=
  s.loadNode (.vldb m d base x) m d .vldb [sregOfBase base] (s.me.a.merges m) (s.reg (sregOfBase base) + vectorOff x) 0
/-- vldc: the old vD is the merge operand under MPOL = 0 whatever m holds (R332). -/
def execVldc (m : Bool) (d : VReg) (base : BaseReg) (x : SReg) (s : State) : Res :=
  s.loadNode (.vldc m d base x) m d .vldc [sregOfBase base, x] (!s.me.a.csr.mpol) (s.reg (sregOfBase base)) (s.reg x)

/-! ## Stores (07 R188, R189) -/

/-- An access whose elements never meet, of a load and a store in the aligned case of 02 R57. -/
def alignedCase (captured : Fmt) (eg : Nat) (base : Word) (stride : Int) (len : Nat) (p : Option PageAttr) (x : Entry) : Bool :=
  match p, x.source with
  | some p, some src =>
    (match src.decided with
    | some d =>
      let bits (f : Fmt) (e : Nat) (q : PageAttr) : Nat := if q.fe then f.bits else f.bits * 2 ^ e
      let n := bits (decidedFmt captured p) eg p
      src.base == base && src.step == stride && bits (decidedFmt x.fmt d) x.eg d == n && stride != 0 &&
        decide (stride.natAbs * n * len ≤ 2 ^ 67)
    | none => false)
  | _, _ => false

/-- A store sink at a base and a stride in elements. -/
def State.storeStrided (s : State) (op : Instr) (m : Bool) (d : VReg) (ss : List SReg) (base stride : Word) : Res :=
  let a := s.me.a
  s.checked { illegal := rangeWraps a.csr.elbase a.csr.vl.toNat, illegalTyped := false, typed := true, vs := [d],
              ks := a.maskSources m, ss := ss, len := a.csr.vl.toNat, bank := none } fun s =>
    let a := s.me.a
    let p := s.probe base .write
    let e : Entry := { a.entry op .sink with
      a := Operand.of (a.vref d), mask := a.maskOperand m, val := base, str := stride,
      source := some { base := base, stride := stride, decided := p, form := .vlds } }
    let fp := storeRanges ((s.die s.me.die).tenant a.csr.tenant) base.toNat stride.toInt e.len e.fmt e.eg p
    s.issueSink e { joins := true, resync := false, store := fp, guards := s.guarded fp,
                    aligned := alignedCase e.fmt e.eg base stride.toInt e.len p, fills := none } fun _ _ a => a

/-- vst (R188). -/
def execVst (m : Bool) (d : VReg) (base : BaseReg) (x : BitVec 7) (s : State) : Res :=
  s.storeStrided (.vst m d base x) m d [sregOfBase base] (s.reg (sregOfBase base) + vectorOff x) 1
/-- vsts (R188). -/
def execVsts (m : Bool) (d : VReg) (base : BaseReg) (x : SReg) (s : State) : Res :=
  s.storeStrided (.vsts m d base x) m d [sregOfBase base, x] (s.reg (sregOfBase base)) (s.reg x)

/-! ## Indexed accesses (07 R187, R189) -/

/-- A pending sink or stage has still to fill a cell. -/
def Ctx.cellPending (c : Ctx) (x : CellRef) : Bool :=
  decide (x.len ≠ 0) &&
    ((c.stages.any fun t => t.cell.addr == x.addr) ||
      c.items.any fun p => match p.sink? with
        | some e => e.c.ref == .cell x
        | none => false)

/-- A cell that a pending sink or stage, or a held write, has still to fill. -/
def Ctx.cellUnfilled (c : Ctx) (x : CellRef) : Bool :=
  c.cellPending x || c.held.any fun h => h.footprint.any fun f => f.overlaps { base := x.addr.toNat, len := cellBytes x.len x.fmt x.eg }

/-- References forced at issue, in their order: nodes are materialised, and cells not yet filled are waited for (02 R60). -/
def State.forced (s : State) (rs : List Ref) (room : Room) (k : State → Res) : Res :=
  match (rs.filterMap Ref.node?).eraseDups with
  | [] => if (rs.filterMap Ref.cell?).any s.me.cellUnfilled then .next s.wait else k s
  | ns => s.materialise room ns

/-- The positions of an indexed access, masks ignored (02 R56). -/
def State.indexPositions (s : State) (e : Entry) : List Int :=
  let g : Stg := { s := s, brood := s.me.a.brood, len := e.len, at_ := 0, carries := [] }
  (List.range e.len).map fun i => (g.position e [] i).1

/-- The format that the position of element 0 decides for an indexed access (03 R434), whose address the captured format's element size
gives (DESIGN CHOICE, assumption log 115). -/
def State.probeAt (s : State) (e : Entry) (k : Access) (qs : List Int) : Option PageAttr :=
  match qs with
  | [] => none
  | q :: _ => s.probe (word (placeOf e.fmt e.eg e.val.toNat q).1) k

/-- The format of an indexed access, decided at issue from element 0's page. -/
def State.probeIndexed (s : State) (e : Entry) (k : Access) : Option PageAttr :=
  s.probeAt e k (s.indexPositions { e with len := min 1 e.len })

/-- A stage of the nodes that an operand names, with every format that is still to be decided as the pages give it now. -/
def State.stageOf (s : State) (e : Entry) (o : Operand) : Work :=
  let a := s.me.a
  let nodes : List (Nat × Entry) := ((a.oldestFirst (reached a.brood o.ref.node?.toList)).reverse).filterMap fun n =>
    (broodEntry a.brood n).map fun x => (n, x)
  let w : Work := { brood := a.brood, nodes := nodes, sinks := [], target := none, len := e.len, elbase := e.elbase }
  w.undecided.foldl (fun w x =>
    match if x.2.loose then w.settled s x.2 0 else w.decision s x.2 0 with
    | none => w
    | some d =>
      let put (y : Nat × Entry) : Nat × Entry := if y.1 = x.1 then (y.1, y.2.decide d) else y
      { w with brood := w.brood.map put, nodes := w.nodes.map put }) w

/-- What is known of the index values of an access before its index handle is forced. -/
inductive Foreseen where
  | known (qs : List Int)
  /-- an element meets an event, at which the forcing stops -/
  | stops
  /-- an access waits for memory -/
  | waits

/-- The positions of the elements from i on, as forcing the index handle now would give them. -/
def Work.foresee (w : Work) (s : State) (e : Entry) : Nat → Nat → List (Nat × Carry) → Foreseen
  | 0, _, _ => .known []
  | n + 1, i, carries =>
    let g := w.stg s i carries
    let x := w.elem g i
    if x.stall then .waits
    else if !x.events.isEmpty then .stops
    else match w.foresee s e n (i + 1) x.out.carries with
      | .known qs => .known ((g.position e (g.row w.nodes i) i).1 :: qs)
      | r => r

/-- Where an indexed access has handles to force, its cells must have room before the forcing (02 R41): the index values of its first n
elements are found before, once every earlier sink has completed, after which alone a forcing runs; none where they cannot be
(DEDUCED, assumption log 96). -/
def State.foreseen (s : State) (rs : List Ref) (e : Entry) (n : Nat) (k : Option (List Int) → State → Res) : Res :=
  if (rs.filterMap Ref.node?).isEmpty then k none s
  else s.afterSinks fun s =>
    if !s.me.held.isEmpty then .next s.wait
    else match (s.stageOf e e.b).foresee s e n 0 [] with
    | .known qs => k (some qs) s
    | .stops => k none s
    | .waits => .next s.wait

/-- The footprint of an indexed access (02 R56). -/
def indexedRanges (t : Tenant) (base : Nat) (qs : List Int) (captured : Fmt) (eg : Nat) (p : Option PageAttr) : List Range :=
  match p with
  | none =>
    let n := max 8 (captured.bits * 2 ^ eg / 8)
    let r := circleRun n (qs.foldl (fun l q => insertSorted (((base : Int) + q * n) % (2 ^ 64 : Nat)).toNat l) [])
    r :: anySideRuns t r
  | some p =>
    let f := decidedFmt captured p
    let eg := if p.fe then 0 else eg
    [circleRun (placeOf f eg base 0).2.1 (qs.foldl (fun l q => insertSorted (placeOf f eg base q).1 l) [])]

/-- A vstx that issues: its entry, and the footprint that its index positions fix (R189). -/
def State.indexedStore (s : State) (e : Entry) (qs : List Int) : Entry × List Range :=
  let p := s.probeAt e .write qs
  ({ e with source := some { base := e.val, stride := 0, decided := p, form := .vlds } },
    indexedRanges ((s.die s.me.die).tenant s.me.a.csr.tenant) e.val.toNat qs e.fmt e.eg p)

/-- vstx: the index handle is forced at issue, which fixes the footprint (R189); its cells, those of the guards among them, must have
room before that (02 R41; DEDUCED, assumption log 96). -/
def execVstx (m : Bool) (d : VReg) (base : BaseReg) (x : VReg) (s : State) : Res :=
  let a := s.me.a
  s.checked { illegal := rangeWraps a.csr.elbase a.csr.vl.toNat, illegalTyped := false, typed := true, vs := [x, d],
              ks := a.maskSources m, ss := [sregOfBase base], len := a.csr.vl.toNat, bank := none } fun s =>
    let entry (s : State) : Entry := { s.me.a.entry (.vstx m d base x) .sink with
      a := Operand.of (s.me.a.vref d), b := Operand.of (s.me.a.vref x), mask := s.me.a.maskOperand m, val := s.reg (sregOfBase base) }
    let form (fp : List Range) (guards : List Nat) : SinkForm :=
      { joins := true, resync := false, store := fp, guards := guards, aligned := fun _ => false, fills := none }
    let rs := [s.me.a.vref x]
    s.foreseen rs (entry s) (entry s).len fun qs s =>
      let room : Room := fun sts b =>
        let t := (s.die s.me.die).tenant s.me.a.csr.tenant
        match qs with
        | none => (entry s).room t (form [] []) sts b
        | some qs => let y := s.indexedStore (entry s) qs; y.1.room t (form y.2 (s.guardedIn b y.2)) sts b
      s.forced rs room fun s =>
        let y := s.indexedStore (entry s) (s.indexPositions (entry s))
        s.issueSink y.1 (form y.2 (s.guarded y.2)) fun _ _ a => a

/-- The entry whose values the cell of a vldx holds: in the format of its page, once that is decided. -/
def gathered (e : Entry) (p : Option PageAttr) : Entry :=
  let e := { e with source := some { base := e.val, stride := 0, decided := p, form := .vlds } }
  match p with
  | some q => { e with fmt := decidedFmt e.fmt q, eg := if q.fe then 0 else e.eg }
  | none => e

/-- vldx: index, mask and merge operand are forced at issue; one pass then fills a cell, which vD names (R187). The cell must
have room before the forcing (02 R41; DEDUCED, assumption log 96). -/
def execVldx (m : Bool) (d : VReg) (base : BaseReg) (x : VReg) (s : State) : Res :=
  let a := s.me.a
  s.checked { illegal := a.streaming d || rangeWraps a.csr.elbase a.csr.vl.toNat, illegalTyped := false, typed := true,
              vs := x :: (if a.merges m && !a.csr.ill then [d] else []), ks := a.maskSources m, ss := [sregOfBase base],
              len := a.csr.vl.toNat, bank := none } fun s =>
    let entry (s : State) : Entry :=
      let a := s.me.a
      { a.entry (.vldx m d base x) .sink with
        b := Operand.of (a.vref x), mask := a.maskOperand m, merge := a.mergeOperand m d, val := s.reg (sregOfBase base), dst := d.toNat }
    let rs := [s.me.a.vref x, (s.me.a.maskOperand m).ref, (s.me.a.mergeOperand m d).ref]
    s.foreseen rs (entry s) (min 1 (entry s).len) fun qs s =>
      let room : Room := fun _ b =>
        (b.cellFor (match qs with | some qs => gathered (entry s) (s.probeAt (entry s) .read qs) | none => entry s)).isSome
      s.forced rs room fun s =>
        let e := entry s
        let p := s.probeIndexed e .read
        s.issueSink { e with source := some { base := e.val, stride := 0, decided := p, form := .vlds } }
          { joins := false, resync := true, store := [], guards := [], aligned := fun _ => true, fills := some (gathered e p) } fun _ _ a => a

/-! ## Element movement and scans (07 R191 to R198) -/

/-- A movement node: its source, a second handle or a captured amount, its mask and its merge operand (07 R191). -/
def State.moveNode (s : State) (op : Instr) (m : Bool) (d a : VReg) (index : Option VReg) (amount : Option SReg)
    (accepts : Fmt → Bool → Bool) : Res :=
  let r := s.me.a
  s.checked { illegal := r.streaming d, illegalTyped := !accepts r.csr.fmt (r.csr.eg == 0), typed := true,
              vs := a :: index.toList ++ (if r.merges m && !r.csr.ill then [d] else []), ks := r.maskSources m,
              ss := amount.toList, len := r.csr.vl.toNat, bank := none } fun s =>
    let r := s.me.a
    let b := match index, amount with
      | some v, _ => Operand.of (r.vref v)
      | none, some n => Operand.of (.scalar (s.reg n))
      | none, none => Operand.none
    s.makeNode { r.entry op .node with
      a := Operand.of (r.vref a), b := b, mask := r.maskOperand m, merge := r.mergeOperand m d } fun n r => r.setV d (.node n)

/-- Every class, whatever EG. -/
def acceptsAny (_ : Fmt) (_ : Bool) : Bool := true

/-- vslup (R194). -/
def execVslup (m : Bool) (d a : VReg) (b : SReg) (s : State) : Res :=
  s.moveNode (.vslup m d a b) m d a none (some b) acceptsAny
/-- vsldn (R194). -/
def execVsldn (m : Bool) (d a : VReg) (b : SReg) (s : State) : Res :=
  s.moveNode (.vsldn m d a b) m d a none (some b) acceptsAny
/-- vperm (R195). -/
def execVperm (m : Bool) (d a b : VReg) (s : State) : Res := s.moveNode (.vperm m d a b) m d a (some b) none acceptsAny
/-- vcmpr (R196). -/
def execVcmpr (m : Bool) (d a : VReg) (s : State) : Res := s.moveNode (.vcmpr m d a) m d a none none acceptsAny
/-- vexpd (R196). -/
def execVexpd (m : Bool) (d a : VReg) (s : State) : Res := s.moveNode (.vexpd m d a) m d a none none acceptsAny

/-- The classes of a scan, with EG = 0 (07 R198). -/
def acceptsScan (op : ScanOp) (f : Fmt) (flat : Bool) : Bool :=
  flat && (match op with
    | .add | .max | .min => f.cls != .b
    | .and | .or | .xor => f.cls == .i || f.cls == .b)

/-- vscan (R198). -/
def execVscan (op : ScanOp) (m : Bool) (d a : VReg) (s : State) : Res :=
  s.moveNode (.vscan op m d a) m d a none none (acceptsScan op)

/-- vext: with t of VL or more no pass runs and d := 0; it still takes a sequence number (R197). -/
def execVext (d : SReg) (a : VReg) (b : SReg) (s : State) : Res :=
  let r := s.me.a
  s.checked { illegal := rangeWraps r.csr.elbase r.csr.vl.toNat, illegalTyped := false, typed := true, vs := [a], ks := [],
              ss := [b], len := r.csr.vl.toNat, bank := none } fun s =>
    let t := s.reg b
    if s.me.a.csr.vl.toNat ≤ t.toNat then .next ((s.setArch Arch.takeSeq).setReg d 0).retire
    else
      let e : Entry := { s.me.a.entry (.vext d a b) .sink with a := Operand.of (s.me.a.vref a), val := t, dst := d.toNat }
      s.issueSink e { joins := false, resync := true, store := [], guards := [], aligned := fun _ => true, fills := none }
        fun _ _ a => a

/-! ## Reductions (07 R200 to R204) -/

/-- A reduction sink: EG = 0, and a class that it lists (07 R200). -/
def State.reduction (s : State) (op : Instr) (m : Bool) (d : SReg) (a : VReg) (accepts : Fmt → Bool) : Res :=
  let r := s.me.a
  s.checked { illegal := rangeWraps r.csr.elbase r.csr.vl.toNat, illegalTyped := !accepts r.csr.fmt || r.csr.eg != 0,
              typed := true, vs := [a], ks := r.maskSources m, ss := [], len := r.csr.vl.toNat, bank := none } fun s =>
    let r := s.me.a
    let e : Entry := { r.entry op .sink with a := Operand.of (r.vref a), mask := r.maskOperand m, dst := d.toNat }
    s.issueSink e { joins := true, resync := true, store := [], guards := [], aligned := fun _ => true, fills := none }
      fun _ _ a => a

/-- vrsumo (R201). -/
def execVrsumo (m : Bool) (d : SReg) (a : VReg) (s : State) : Res := s.reduction (.vrsumo m d a) m d a fun f => f.cls != .b
/-- vrsumt (R201). -/
def execVrsumt (m : Bool) (d : SReg) (a : VReg) (s : State) : Res := s.reduction (.vrsumt m d a) m d a fun f => f.cls != .b
/-- vrmax (R202). -/
def execVrmax (m : Bool) (d : SReg) (a : VReg) (s : State) : Res := s.reduction (.vrmax m d a) m d a fun f => f.cls != .b
/-- vrmin (R202). -/
def execVrmin (m : Bool) (d : SReg) (a : VReg) (s : State) : Res := s.reduction (.vrmin m d a) m d a fun f => f.cls != .b
/-- vrargx (R203). -/
def execVrargx (m : Bool) (d : SReg) (a : VReg) (s : State) : Res := s.reduction (.vrargx m d a) m d a fun f => f.cls != .b
/-- vrbit (R204). -/
def execVrbit (op : BitOp) (m : Bool) (d : SReg) (a : VReg) (s : State) : Res :=
  s.reduction (.vrbit op m d a) m d a fun f => f.cls == .i || f.cls == .b

/-! ## The partition map (10 R226, R227) -/

/-- Field j of a partition map. -/
def mapField (w j : Nat) : Nat := w / 16 ^ j % 16

/-- The map that a request gives: 0xE keeps a group's field. -/
def newMap (old x : Nat) : Word32 :=
  BitVec.ofNat 32 ((List.range 8).foldl (fun n j => n + (if mapField x j = 14 then mapField old j else mapField x j) * 16 ^ j) 0)

/-- Every context number has a usable group (10 R226). -/
def mapServes (w : Word32) : Bool := (List.range 4).all fun p => (List.range 8).any fun g => groupUsable w p g

/-- vpart: while it waits, no strip is dispatched onto a group that it changes (R227). -/
def execVpart (d a : SReg) (s : State) : Res :=
  s.vectorUnit fun s => s.reading [a] fun s =>
    let x := (s.reg a).toNat
    let old := s.myCore.pmap
    let new := newMap old.toNat x
    if decide (2 ^ 32 ≤ x) || ((List.range 8).any fun j => decide (4 ≤ mapField x j) && decide (mapField x j ≤ 13)) ||
        !mapServes new then s.trap .illegal
    else s.afterSinks fun s =>
      let changed := (List.range 8).filter fun j => mapField new.toNat j != mapField old.toNat j
      match (s.busyGroups s.me.core).find? fun g => changed.contains g with
      | some g =>
        .next { s with me := { s.me with closed := changed },
                       turns := .happen (.stripFinish (BitVec.ofNat 10 s.me.core) (BitVec.ofNat 3 g)) :: s.turns }
      | none =>
        .next (({ s with me := { s.me with closed := [] } }.setMyCore fun k => { k with pmap := new }).setReg d (old.setWidth 64)).retire

/-! ## Lane-private SRAM (10 R238, R239) -/

/-- Any class but in `.nx4`, `.mx8` and `.ix4` (10 R238). -/
def acceptsLane (f : Fmt) : Bool := f != .nx4 && f != .mx8 && f != .ix4

/-- vlpld (R238). -/
def execVlpld (m : Bool) (d a : VReg) (b : SReg) (s : State) : Res :=
  let r := s.me.a
  s.checked { illegal := r.streaming d, illegalTyped := !acceptsLane r.csr.fmt, typed := true,
              vs := a :: (if r.merges m && !r.csr.ill then [d] else []), ks := r.maskSources m, ss := [b],
              len := r.csr.vl.toNat, bank := none } fun s =>
    let r := s.me.a
    s.makeNode { r.entry (.vlpld m d a b) .node with
      a := Operand.of (r.vref a), b := Operand.of (.scalar (s.reg b)), mask := r.maskOperand m,
      merge := r.mergeOperand m d } fun n r => r.setV d (.node n)

/-- The vlpld nodes that a handle reaches (10 R239). -/
def Arch.laneLoads (a : Arch) : List Nat :=
  a.oldestFirst ((reached a.brood (a.guardRoots .none)).filter fun n =>
    match broodEntry a.brood n with
    | some e => (match e.op with | .vlpld .. => true | _ => false)
    | none => false)

/-- A lane-private store sink, after which every vlpld node that a handle reaches is a stage of its pass (10 R239). -/
def State.laneStoreSink (s : State) (op : Instr) (m : Bool) (d : VReg) (offsets : Option VReg) (b : SReg) : Res :=
  let r := s.me.a
  s.checked { illegal := rangeWraps r.csr.elbase r.csr.vl.toNat, illegalTyped := !acceptsLane r.csr.fmt, typed := true,
              vs := d :: offsets.toList, ks := r.maskSources m, ss := [b], len := r.csr.vl.toNat, bank := none } fun s =>
    let r := s.me.a
    let e : Entry := { r.entry op .sink with
      a := Operand.of (r.vref d), b := (match offsets with | some v => Operand.of (r.vref v) | none => Operand.none),
      mask := r.maskOperand m, val := s.reg b }
    s.issueSink e { joins := false, resync := false, store := [], guards := r.inOrder.laneLoads, aligned := fun _ => true,
                    fills := none } fun _ _ a => a

/-- vlpst (R238). -/
def execVlpst (m : Bool) (d a : VReg) (b : SReg) (s : State) : Res := s.laneStoreSink (.vlpst m d a b) m d (some a) b
/-- vlpst.b (R238). -/
def execVlpstB (m : Bool) (d : VReg) (b : SReg) (s : State) : Res := s.laneStoreSink (.vlpstB m d b) m d none b

end Sys2Proof.Machine
end

