-- ==== Sys2Proof/Machine/Codebook.lean ====
section
/-!
DEFINITION. Codebook instructions (11 R259 to R267), and the checks of an instruction that moves a range of bytes.
-/

namespace Sys2Proof.Machine

/-! ## A range of bytes -/

/-- The pieces of a range within pages of 4 KiB: address and size, addresses modulo 2^64. -/
def pagePieces (va n : Nat) : List (Nat × Nat) :=
  (List.range ((va % 4096 + n + 4095) / 4096)).map fun i =>
    let lo := if i = 0 then va else (va / 4096 + i) * 4096
    (lo % 2 ^ 64, min (va + n) ((va / 4096 + i + 1) * 4096) - lo)

/-- The first failure of a piece that stands within one page: PAGE, PERM, WATCH, then the way to the home. -/
def State.pieceFault (s : State) (va n : Nat) (k : Access) : Option (Cause × Word) :=
  match s.lookup s.me va k with
  | .fault c => some (c, word va)
  | .waits _ _ => none
  | .ok x =>
    if s.watched s.me va n k then
      some (.watch, word (s.watchedByte s.me va n k))
    else match s.reach s.me x.pa with
      | .fails c => some (c, word va)
      | .here => if region x.pa = .pod ∧ k = .read ∧ (s.podRead s.me va x.pa n).isNone = true then some (.remote, word va) else none
      | .waits _ _ => none

/-- The first failure of a range. -/
def State.rangeFault (s : State) (va n : Nat) (k : Access) : Option (Cause × Word) :=
  (pagePieces va n).findSome? fun p => s.pieceFault p.1 p.2 k

/-- The first link under retrain that an access to a range, or its walk, waits on (21 R390). -/
def State.spanLink (s : State) (va n : Nat) (k : Access) : Option (Nat × Nat) :=
  (pagePieces va n).findSome? fun p => match s.lookup s.me p.1 k with
    | .waits a b => some (a, b)
    | .fault _ => none
    | .ok x => match s.reach s.me x.pa with
      | .waits a b => some (a, b)
      | .here | .fails _ => none

/-- A range is checked at issue: PAGE, PERM or WATCH at its lowest failing byte; it waits on a link under retrain. -/
def State.spanAccess (s : State) (va : Word) (n : Nat) (k : Access) (go : State → Res) : Res :=
  match s.rangeFault va.toNat n k, s.spanLink va.toNat n k with
  | some (c, w), _ => s.trapAtIssue c w k.writes
  | none, some (a, b) => .next (s.waitLink a b va k.writes)
  | none, none => go s

/-- The translations of a range are used, and its debug slots write their records. -/
def State.useSpan (s : State) (va n : Nat) (k : Access) : State :=
  ((pagePieces va n).foldl (fun s p => match s.translate s.me p.1 k with | .ok x => s.use s.me x k | .error _ => s) s).traceHits va n k

/-- The physical address of a byte. -/
def State.physAt (s : State) (va : Word) (k : Access) : Word :=
  match s.translate s.me va.toNat k with
  | .ok x => word x.pa
  | .error _ => 0

/-- Bytes are stored to a range, page by page. -/
def State.storeSpan (s : State) (va : Nat) (data : List Byte) : State :=
  ((pagePieces va data.length).foldl (fun (x : State × List Byte) q =>
    (x.1.performAtCore x.1.me (word q.1) (x.1.physAt (word q.1) .write).toNat (x.2.take q.2) false, x.2.drop q.2)) (s, data)).1

/-- The instruction's value checks, after its source registers and its bank's owner (11 R260). -/
def State.ofBank (s : State) (b : BankReg) (srcs : List SReg) (k : State → Res) : Res :=
  s.vectorUnit fun s => s.reading srcs fun s => if s.ownsBank b then k s else s.trap .cbOwner

/-! ## Bank writes (11 R261 to R264) -/

/-- The move of n entries between a bank and memory: its checks, then a held effect with the physical address of each
entry. -/
def State.moveEntries (s : State) (i : Instr) (d : BankReg) (a b : SReg) (k : Access) (guard : List Range → State → (State → Res) → Res) :
    Res :=
  s.ofBank d [a, b] fun s =>
    let va := s.reg a
    let n := min (s.reg b).toNat 256
    if n = 0 then .next s.apart.retire
    else if va.toNat % 16 ≠ 0 then s.trapAtIssue .align va k.writes
    else s.spanAccess va (16 * n) k fun s =>
      let r : List Range := [{ base := va.toNat, len := 16 * n }]
      guard r s fun s =>
        let args := va :: word n :: 0 :: 0 :: (List.range n).map fun x => s.physAt (va + word (16 * x)) k
        let s := s.useSpan va.toNat (16 * n) k
        .next (s.hold i args (if k.writes then r else [])).apart.retire

/-- cbld (R261). -/
def execCbld (d : BankReg) (a b : SReg) (s : State) : Res :=
  s.moveEntries (.cbld d a b) d a b .read fun _ s k => s.guardBank d k
/-- cbst (R262). -/
def execCbst (d : BankReg) (a b : SReg) (s : State) : Res :=
  s.moveEntries (.cbst d a b) d a b .write fun r s k => s.guardWrite r k

/-- A bank write of one word: the codebook guard, then a held effect. -/
def State.writeBank (s : State) (i : Instr) (d : BankReg) (a b : SReg) : Res :=
  s.ofBank d [a, b] fun s => s.guardBank d fun s => .next (s.hold i [s.reg a, s.reg b] []).retire

/-- cbwr (R263). -/
def execCbwr (d : BankReg) (a b : SReg) (s : State) : Res := s.writeBank (.cbwr d a b) d a b
/-- cbval (R264). -/
def execCbval (d : BankReg) (a b : SReg) (s : State) : Res := s.writeBank (.cbval d a b) d a b

/-- A bank with the held cbwr and cbval of the context applied (11 R258). -/
def State.bankNow (s : State) (b : BankReg) : Bank :=
  s.me.held.foldl (fun k h =>
    match h.instr, h.args with
    | .cbwr d _ _, [sel, v] => if d = b then k.writeWord sel v else k
    | .cbval d _ _, [w, m] => if d = b then k.writeValid w.toNat m else k
    | _, _ => k) (s.bank b.toNat)

/-- A held cbld of a bank stands. -/
def Ctx.loadHeld (c : Ctx) (b : BankReg) : Bool :=
  c.held.any fun h => match h.instr with | .cbld d _ _ => d == b | _ => false

/-- cbrd: a word of an entry, or of the valid mask (R258, R263). -/
def execCbrd (d : SReg) (a : BankReg) (b : SReg) (s : State) : Res :=
  s.ofBank a [b] fun s =>
    if s.me.loadHeld a then .next s.wait
    else
      let k := s.bankNow a
      let sel := (s.reg b).toNat
      let x := sel % 256
      let h := sel / 256 % 2
      if bit (s.reg b) 9 then .next (s.setReg d (word (k.valid.toNat / 2 ^ (64 * (sel % 4))))).retire
      else if k.poison.getLsbD (2 * x + h) then s.trapAtIssue .poison (word (bankFaultVa a.toNat x h)) false
      else .next (s.setReg d (word (bankValue k (16 * x + 8 * h) 8))).retire

/-! ## Binding a slot, fence and expansion (11 R265 to R267) -/

/-- One slot of CBSEL: its enable over its bank, at a bit. -/
def State.selectBank (s : State) (lo : Nat) (v : Nat) : Res :=
  s.vectorUnit fun s => .next (s.setCsr fun c => { c with cbsel := setField c.cbsel lo 5 v }).apart.retire

/-- cbsel.b (R265). -/
def execCbselB (d : BankReg) (s : State) : Res := s.selectBank 0 (16 + d.toNat)
/-- cbsel.m (R265). -/
def execCbselM (d : BankReg) (s : State) : Res := s.selectBank 8 (16 + d.toNat)
/-- cbsel.nb (R265). -/
def execCbselNb (s : State) : Res := s.selectBank 0 0
/-- cbsel.nm (R265). -/
def execCbselNm (s : State) : Res := s.selectBank 8 0

/-- cbfence: a release at `.ctx`, after which no bank write is held (R266). -/
def execCbfence (s : State) : Res :=
  s.vectorUnit fun s => s.release .ctx none fun s => .next s.apart.retire

/-- vcbx: a node that expands an index handle through a bank (R267). -/
def execVcbx (d a : VReg) (b : BankReg) (s : State) : Res :=
  let r := s.me.a
  s.checked { illegal := r.streaming d || !r.indexHandle a, illegalTyped := !codebookFmt r.csr.fmt, typed := true, vs := [a],
              ks := [], ss := [], len := r.csr.vl.toNat, bank := some b } fun s =>
    let r := s.me.a
    s.makeNode { r.entry (.vcbx d a b) .node with a := { ref := r.vref a, bank := some b } } fun n r => r.setV d (.node n)

end Sys2Proof.Machine
end

