-- ==== Sys2Proof/Machine/Comb.lean ====
section
/-!
DEFINITION. Comb and stream instructions (12 R271 to R294): what each asks at issue, and the sink or effect that it makes.
The arithmetic of a step stands in Units.lean, the stream unit in Streams.lean.
-/

namespace Sys2Proof.Machine

/-! ## Ownership and matrix length (12 R271, R272) -/

/-- The comb's owner is the context (12 R272). -/
def State.ownsComb (s : State) : Bool := s.myCore.combOwner == some s.me.pos

/-- A sink that acts on the tiles (12 R281). -/
def Pend.tiles (p : Pend) : Bool :=
  match p.sink? with
  | some e => (match e.op with | .comba .. | .combs .. | .combi .. | .mwrr .. => true | _ => false)
  | none => false

/-- A held effect on the tiles (12 R281). -/
def Held.tiles (h : Held) : Bool := match h.instr with | .mzero .. | .mld .. => true | _ => false

/-- Every earlier step, mwrr, mzero and mld of the context has acted on the tiles (12 R281, R293). -/
def State.afterTiles (s : State) (k : State → Res) : Res :=
  if (s.me.items.any Pend.tiles) || (s.me.held.any Held.tiles) then .next s.wait else k s

/-- The grant of a matrix length (12 R271). -/
def grantedMvl (q cap : Nat) : Nat := min (16 * ((min q 64 + 15) / 16)) cap

/-- The comb taken by a context that finds it free: every tile zero. -/
def Core.takeComb (k : Core) (pos : Nat) : Core := if k.combOwner = none then { k with combOwner := some pos, tiles := [] } else k

/-- Every earlier comb sink of the context has completed, and a comb that it has given up is free (12 R271). -/
def State.afterComb (s : State) (k : State → Res) : Res :=
  if (s.me.items.any Pend.tiles) || (s.me.held.any fun h => match h.instr with | .msetvl .. => true | _ => false) then .next s.wait
  else k s

/-- msetvl (R271): the comb is taken at once, and given up behind what stands before (02 R68). -/
def execMsetvl (d a : SReg) (s : State) : Res :=
  s.vectorUnit fun s => s.reading [a] fun s => s.afterComb fun s =>
    let q := (s.reg a).toNat
    let free := s.myCore.combOwner.isNone
    let (s, mvl) :=
      if q = 0 then (if s.ownsComb then s.hold (.msetvl d a) [] [] else s, 0)
      else if free || s.ownsComb then (s.setMyCore fun k => k.takeComb s.me.pos, grantedMvl q (s.die s.me.die).mvlcap)
      else (s, 0)
    .next ((s.setCsr fun c => { c with mvl := word mvl }).setReg d (word mvl)).retire

/-- The cause of an instruction of the comb whose owner is another context. -/
def State.combCause (s : State) : Option Cause := if s.ownsComb then none else some .combOwner

/-- A comb instruction in the scalar trap order. -/
def State.ofComb (s : State) (srcs : List SReg) (k : State → Res) : Res :=
  s.vectorUnit fun s => s.reading srcs fun s => if s.ownsComb then k s else s.trap .combOwner

/-! ## Steps (12 R275 to R281) -/

/-- The formats of comba and combs, or of combi (12 R275). -/
def stepFormat (integer : Bool) (f : Fmt) : Bool := decide (combRank f ≠ 0) && (f.cls == .i) == integer

/-- A stream, or a load node whose decided format is FMT, or is not yet decided (12 R277). -/
def Arch.blockOperand (a : Arch) (f : Fmt) (v : VReg) : Bool :=
  match a.vhandle v with
  | .stream _ => true
  | .node n => (match broodEntry a.brood n with
    | some x => x.kind == .load && (x.undecided || x.fmt == f) && !a.forcing n
    | none => false)
  | _ => false

/-- The rows of a stream that are not assigned (12 R285). -/
def Arch.rowsLeft (a : Arch) (v : VReg) : Nat := match a.stream? v with | some t => t.rows - t.consumed | none => 0

/-- A reader takes rows of a stream (12 R285). -/
def Arch.takeRows (v : VReg) (n : Nat) (a : Arch) : Arch :=
  match a.stream? v with
  | some t => a.setV v (.stream { t with consumed := t.consumed + n })
  | none => a

/-- The row length of a stream is not the one that a reader takes. -/
def Arch.rowClash (a : Arch) (v : VReg) (n : Nat) : Bool := match a.stream? v with | some t => t.len != n | none => false

/-- An outer-product step (12 R281). -/
def State.combStep (s : State) (op : Instr) (integer vc : Bool) (acc : AccReg) (a b : VReg) : Res :=
  let r := s.me.a
  let c := r.csr
  let m := c.mvl.toNat
  let k := combRank c.fmt
  let len := m * k / 2 ^ c.eg
  let need := if a = b then 2 else 1
  let handles := [a, b].filter fun v => !r.streaming v
  let short (v : VReg) : Bool := r.streaming v && decide (r.rowsLeft v < need)
  s.checked
    { illegal := (vc && (c.slotM.isNone || !r.indexHandle b)) || short a || short b ||
        (c.mprogAct && field c.mprog 8 2 != acc.toNat),
      illegalTyped := !stepFormat integer c.fmt ||
        (c.fmt.cls == .k && (!r.blockOperand c.fmt a || (!vc && !r.blockOperand c.fmt b))) ||
        (!handles.isEmpty && rangeWraps c.elbase len),
      typed := true, vs := handles, ks := [], ss := [], len := len, bank := if vc then c.slotM else none,
      unit := s.combCause, clash := r.rowClash a (m * k) || r.rowClash b (if vc then len else m * k) } fun s =>
    let r := s.me.a
    let e : Entry := { r.entry op .sink with
      a := Operand.of (r.vref a), b := { ref := r.vref b, bank := if vc then r.csr.slotM else none },
      dst := acc.toNat, dst2 := m, len := len }
    s.issueSink e { joins := false, resync := false, store := [], guards := [], aligned := fun _ => true, fills := none }
      fun _ _ r => let r := (r.takeRows a 1).takeRows b 1; { r with csr := { r.csr with mprog := 0 } }

/-- comba (R278). -/
def execComba (c : Bool) (acc : AccReg) (a b : VReg) (s : State) : Res := s.combStep (.comba c acc a b) false c acc a b
/-- combs (R278). -/
def execCombs (c : Bool) (acc : AccReg) (a b : VReg) (s : State) : Res := s.combStep (.combs c acc a b) false c acc a b
/-- combi (R279). -/
def execCombi (acc : AccReg) (a b : VReg) (s : State) : Res := s.combStep (.combi acc a b) true false acc a b

/-! ## Tile access (12 R291 to R294) -/

/-- mzero (R291). -/
def execMzero (d : AccReg) (s : State) : Res := s.ofComb [] fun s => .next (s.hold (.mzero d) [] []).retire

/-- mwrr: a sink that writes one row (R292). -/
def execMwrr (d : AccReg) (a : VReg) (b : SReg) (s : State) : Res :=
  let c := s.me.a.csr
  let m := c.mvl.toNat
  s.checked { illegal := rangeWraps c.elbase m || decide (64 ≤ (s.reg b).toNat), illegalTyped := false, typed := true,
              vs := [a], ks := [], ss := [b], len := m, bank := none, unit := s.combCause } fun s =>
    let e : Entry := { s.me.a.entry (.mwrr d a b) .sink with
      a := Operand.of (s.me.a.vref a), dst := d.toNat, val := s.reg b, len := m }
    s.issueSink e { joins := false, resync := false, store := [], guards := [], aligned := fun _ => true, fills := none }
      fun _ _ r => r

/-- The bytes of a new cell, a word at a time, each a write that stands behind every earlier sink (02 R59, R68). -/
def State.holdBytes (s : State) (i : Instr) (va : Nat) (data : List Byte) : State :=
  if s.me.items.isEmpty && s.me.held.isEmpty then s.storeSpan va data
  else ((List.range ((data.length + 7) / 8)).foldl (fun (x : State × List Byte) j =>
    let at_ := word (va + 8 * j)
    let bs := x.2.take 8
    (x.1.hold i [at_, x.1.physAt at_ .write, word (leNat bs), word bs.length] [{ base := at_.toNat, len := bs.length }], x.2.drop 8))
    (s, data)).1

/-- A new cell that an instruction fills at issue: placed under 02 R51, its bytes checked as a store's (DESIGN CHOICE, assumption log 119) and
written. -/
def State.newCell (s : State) (i : Instr) (f : Option Fmt) (len : Nat) (data : List Byte) (go : CellRef → State → Res) : Res :=
  if len = 0 then go { addr := 0, len := 0, fmt := f, eg := 0 } s
  else match s.me.a.takeCell (cellBytes len f 0) with
    | none => s.trap .cellFull
    | some (p, a) =>
      s.spanAccess (word p) data.length .write fun s =>
        go { addr := word p, len := len, fmt := f, eg := 0 } (((s.useSpan p data.length .write).holdBytes i p data).setArch fun _ => a)

/-- A handle names a cell filled at issue, which takes a sequence number. -/
def State.nameCell (s : State) (d : VReg) (c : CellRef) : Res :=
  .next (s.setArch fun a => (a.setV d (.cell c)).takeSeq).collect.apart.retire

/-- mrdr and mrdc: MVL tile elements copied into a new cell (12 R293). -/
def State.readTile (s : State) (i : Instr) (d : VReg) (b : SReg) (at_ : Core → Nat → Nat → Nat) : Res :=
  let c := s.me.a.csr
  s.checked { illegal := s.me.a.streaming d || decide (64 ≤ (s.reg b).toNat), illegalTyped := false, typed := true, vs := [],
              ks := [], ss := [b], len := 0, bank := none, unit := s.combCause } fun s =>
    s.afterTiles fun s =>
      let x := (s.reg b).toNat
      let m := c.mvl.toNat
      let data := (List.range m).flatMap fun i => leBytes (at_ s.myCore x i) 4
      s.newCell i (some (if c.fmt.cls = .i then .i32 else .f32)) m data fun r s => s.nameCell d r

/-- mrdr (R293). -/
def execMrdr (d : VReg) (a : AccReg) (b : SReg) (s : State) : Res := s.readTile (.mrdr d a b) d b fun k x i => k.tile a.toNat x i
/-- mrdc (R293). -/
def execMrdc (d : VReg) (a : AccReg) (b : SReg) (s : State) : Res := s.readTile (.mrdc d a b) d b fun k x i => k.tile a.toNat i x

/-- The checks of a tile move: ALIGN, then every row at its lowest failing byte; args of the rows (12 R294). FAULTVA of ALIGN is the base, of a
misaligned stride as well (DESIGN CHOICE, assumption log 118). -/
def State.moveTile (s : State) (a b : SReg) (k : Access) (go : List Word → List Range → State → Res) : Res :=
  s.ofComb [a, b] fun s =>
    let base := s.reg a
    let stride := s.reg b
    let rows := (List.range 64).map fun i => tileRowVa base stride i
    if base.toNat % 4 ≠ 0 ∨ stride.toNat % 4 ≠ 0 then s.trapAtIssue .align base k.writes
    else
      let faults := rows.filterMap fun va => s.rangeFault va.toNat 256 k
      match faults with
      | f :: fs =>
        let f := fs.foldl (fun (x : Cause × Word) y => if y.2.toNat < x.2.toNat then y else x) f
        s.trapAtIssue f.1 f.2 k.writes
      | [] => match rows.findSome? fun va => s.spanLink va.toNat 256 k with
      | some (a, b) => .next (s.waitLink a b base k.writes)
      | none =>
        let args := base :: stride :: 0 :: rows.flatMap fun va => [s.physAt va k, s.physAt (va + 255) k]
        go args (rows.map fun va => Range.mk va.toNat 256) s

/-- The translations of the rows of a tile are used. -/
def State.useRows (s : State) (rs : List Range) (k : Access) : State := rs.foldl (fun s r => s.useSpan r.base 256 k) s

/-- mld: a held tile write (R294). One that performs at once and meets poison leaves the context at the mld. -/
def execMld (d : AccReg) (a b : SReg) (s : State) : Res :=
  s.moveTile a b .read fun args rs s =>
    let t := (s.useRows rs .read).hold (.mld d a b) args []
    .next (if t.me.softError.isSome then t else t.apart.retire)

/-- mst (R294). -/
def execMst (d : AccReg) (a b : SReg) (s : State) : Res :=
  s.moveTile a b .write fun args rs s => s.guardWrite rs fun s =>
    .next ((s.useRows rs .write).hold (.mst d a b) args rs).apart.retire

/-! ## Streams (12 R283, R290) -/

/-- A shape that smode refuses (12 R283). -/
def badShape (w : Word) : Bool :=
  bit w 63 || field w 44 4 != 0 || field w 37 3 != 0 || field w 48 15 == 0 || decide (16384 < field w 48 15) ||
    field w 0 32 == 0 || decide (18 < field w 32 5)

/-- The handles in STREAM state, but for one. -/
def Arch.otherStreams (a : Arch) (d : VReg) : Nat :=
  (a.vh.filter fun e => e.1 != d.toNat && (match e.2 with | .stream _ => true | _ => false)).length

/-- smode: its ILLEGAL cases before DEAD_READ (R283, 05 R127); a dead shape register reads 0 for them (DESIGN CHOICE, assumption log
112). -/
def execSmode (d : VReg) (a : SReg) (s : State) : Res :=
  s.vectorUnit fun s =>
    let w := s.reg (a + 2)
    if 124 < a.toNat ∨ badShape w = true ∨ 4 ≤ s.me.a.otherStreams d then s.trap .illegal
    else s.reading [a, a + 1, a + 2, a + 3] fun s =>
        let t : Stream := { uid := s.me.nextUid, base := s.reg a, stride := s.reg (a + 1), shape := w,
                            rowStride := s.reg (a + 3), decided := none, consumed := 0 }
        let s := ({ s with me := { s.me with nextUid := s.me.nextUid + 1 } }.setArch fun r => r.setV d (.stream t)).collect
        .next ({ s with me := s.me.pruneRows }).retire

/-- sexit (R290). -/
def execSexit (d : VReg) (s : State) : Res :=
  s.vectorUnit fun s =>
    if s.me.a.streaming d then
      let s := s.setArch fun r => r.setV d .empty
      .next ({ s with me := s.me.pruneRows }).retire
    else s.trap .illegal

/-- sprog (R290). -/
def execSprog (d : SReg) (a : VReg) (s : State) : Res :=
  s.vectorUnit fun s =>
    match s.me.a.stream? a with
    | none => s.trap .illegal
    | some t =>
      let fault := s.me.rows.any fun r => r.uid == t.uid && r.row == t.consumed && r.arrived && !r.faults.isEmpty
      let asked := s.me.rows.any fun r => r.uid == t.uid && r.asked.isSome
      .next (s.setReg d (word (t.consumed % 2 ^ 32 + bitOf fault * 2 ^ 62 + bitOf asked * 2 ^ 63))).retire

end Sys2Proof.Machine
end

