-- ==== Sys2Proof/Machine/Coverage.lean ====
section
/-!
DEFINITION. Coverage instructions (13 R298 to R309): what each asks at issue, and the sink or effect that it makes. Gains,
weights and commits stand in Sinks.lean, the batch probe in Pass.lean.
-/

namespace Sys2Proof.Machine

/-- An accumulator is owned by the context (13 R297). -/
def State.ownsCov (s : State) (j : CovReg) : Bool := ownedBy s.myCore.cvown j.toNat s.me.pos

/-- The cause of an instruction that names an accumulator of another context. -/
def State.covCause (s : State) (j : CovReg) : Option Cause := if s.ownsCov j then none else some .covOwner

/-- The range of len elements lies within the slots of an accumulator (13 R301). -/
def Cov.holds (c : Cov) (elbase : Word) (len : Nat) : Bool :=
  decide (len = 0) || (decide (c.gb.toNat ≤ elbase.toNat) && decide (elbase.toNat + len ≤ c.gb.toNat + c.n))

/-! ## Configuration (13 R300) -/

/-- A configuration word that cvset refuses. -/
def badCoverage (w : Word) : Bool :=
  field w 17 15 != 0 || field w 0 16 == 0 || decide ((if bit w 16 then 8192 else 16384) < field w 0 16) ||
    (unpack Fmt.f32.layout (field w 32 32)).isNan

/-- cvset (R299, R300). A dead s[a] reads 0 for the value checks under DEADM.TRAP = 1 too, and so is refused first (DESIGN CHOICE, assumption
log 112). -/
def execCvset (d : CovReg) (a b : SReg) (s : State) : Res :=
  s.vectorUnit fun s =>
    if badCoverage (s.reg a) then s.trap .illegal
    else s.reading [a, b] fun s =>
      if s.ownsCov d then .next (s.hold (.cvset d a b) [s.reg a, s.reg b] []).retire
      else s.trap .covOwner

/-! ## Sinks (13 R299 to R307) -/

/-- A handle whose format a coverage sink accepts: class F, K or I, no `.ix4` or `.ix8` (13 R302); one not yet decided may be read, and its
elements are taken as whatever format the pass decides (DESIGN CHOICE, assumption log 121). -/
def Arch.coverHandle (a : Arch) (v : VReg) : Bool :=
  let ok (f : Fmt) : Bool := f.cls != .b && f != .ix4 && f != .ix8
  match a.vref v with
  | .node n => (match broodEntry a.brood n with | some x => x.undecided || ok x.fmt | none => true)
  | .cell c => (match c.fmt with | some f => ok f | none => true)
  | _ => true

/-- A coverage sink over a handle. -/
def State.coverSink (s : State) (op : Instr) (j : CovReg) (v : VReg) (weighted resync : Bool) (dst : Nat) : Res :=
  let r := s.me.a
  let c := s.covNow j.toNat
  s.checked
    { illegal := c.n == 0 || !c.holds r.csr.elbase r.csr.vl.toNat || rangeWraps r.csr.elbase r.csr.vl.toNat ||
        (weighted && !c.wt) || !r.coverHandle v,
      illegalTyped := r.csr.eg != 0, typed := true, vs := [v], ks := [], ss := [], len := r.csr.vl.toNat, bank := none,
      unit := s.covCause j } fun s =>
    let e : Entry := { s.me.a.entry op .sink with a := Operand.of (s.me.a.vref v), dst := dst, dst2 := j.toNat }
    s.issueSink e { joins := false, resync := resync, store := [], guards := [], aligned := fun _ => true, fills := none }
      fun _ _ r => r

/-- cvwt (R303). -/
def execCvwt (d : CovReg) (a : VReg) (s : State) : Res := s.coverSink (.cvwt d a) d a true false d.toNat
/-- cvprb (R305). -/
def execCvprb (d : SReg) (a : CovReg) (b : VReg) (s : State) : Res := s.coverSink (.cvprb d a b) a b false true d.toNat
/-- cvcom (R307). -/
def execCvcom (d : CovReg) (a : VReg) (s : State) : Res := s.coverSink (.cvcom d a) d a false false d.toNat

/-- cvprbb: it takes its rows and places its cell at issue (R306). -/
def execCvprbb (d : VReg) (a : CovReg) (n : BitVec 6) (b : VReg) (s : State) : Res :=
  let r := s.me.a
  let c := s.covNow a.toNat
  let rows := n.toNat + 1
  s.checked
    { illegal := c.n == 0 || !c.holds r.csr.elbase r.csr.vl.toNat || rangeWraps r.csr.elbase r.csr.vl.toNat ||
        !r.streaming b || r.streaming d || decide (r.rowsLeft b < rows),
      illegalTyped := false, typed := true, vs := [], ks := [], ss := [], len := r.csr.vl.toNat, bank := none,
      unit := s.covCause a, clash := r.rowClash b r.csr.vl.toNat } fun s =>
    let r := s.me.a
    let e : Entry := { r.entry (.cvprbb d a n b) .sink with a := Operand.of (r.vref b), dst2 := a.toNat }
    let gains : Entry := { e with len := rows, fmt := .f32, eg := 0 }
    s.issueSink e { joins := false, resync := false, store := [], guards := [], aligned := fun _ => true, fills := some gains }
      fun e _ r =>
        let r := r.takeRows b rows
        Arch.collect s.me.stages (match e.c.ref with | .cell x => r.setV d (.cell x) | _ => r)

/-! ## Selection and readout (13 R308, R309) -/

/-- The bytes of a cell as a scalar load reads them. -/
def State.cellData (s : State) (c : CellRef) (bytes : Nat) : List Byte :=
  (pagePieces c.addr.toNat bytes).flatMap fun p =>
    let pa := (s.physAt (word p.1) .read).toNat
    if region pa = .pod then s.unitBytes p.1 pa p.2 else s.loadBytes pa p.2

/-- The values of a cell, the first sub-value of each element; its bytes are checked as a scalar load's. -/
def State.readCell (s : State) (c : CellRef) (go : List Nat → State → Res) : Res :=
  let f := c.fmt.getD .n8
  let w := f.heldBits / 8
  let size := w * 2 ^ c.eg
  let n := size * c.len
  s.spanAccess c.addr n .read fun s =>
    match (pagePieces c.addr.toNat n).findSome? fun p =>
        (List.range ((p.1 % 8 + p.2 + 7) / 8)).findSome? fun j =>
          let va := (p.1 / 8 + j) * 8
          if s.corePoison s.me.core ((s.physAt (word p.1) .read).toNat / 8 * 8 + 8 * j) 1 then some (word va) else none with
    | some va => s.trapAtIssue .poison va false
    | none =>
      let data := s.cellData c n
      let s := s.useSpan c.addr.toNat n .read
      let s := (pagePieces c.addr.toNat n).foldl (fun s p => s.loaded s.me.core (s.physAt (word p.1) .read).toNat p.2 s.me.a.pc) s
      go ((List.range c.len).map fun i => leNat ((data.drop (size * i)).take w)) s

/-- The pick: index, gain and tie of the best candidate so far, and whether a signalling NaN was met (13 R308). -/
def pickBest : List (Nat × Nat) → Nat → Option (Nat × Nat × Nat) → Bool → Option (Nat × Nat × Nat) × Bool
  | [], _, best, inv => (best, inv)
  | (g, t) :: rest, r, best, inv =>
    let x := unpack Fmt.f32.layout g
    if x.isNan then pickBest rest (r + 1) best (inv || x.signals)
    else
      let better := match best with
        | none => true
        | some (_, gb, tb) =>
          let y := unpack Fmt.f32.layout gb
          lessThan y x || (!lessThan x y && ((y.negZero && !x.negZero) || (y.negZero == x.negZero && decide (tb < t))))
      pickBest rest (r + 1) (if better then some (r, g, t) else best) inv

/-- A pending sink gives a handle its cell, or writes its cell (13 R308). -/
def State.cellAwaited (s : State) (v : VReg) : Bool :=
  match s.me.a.vhandle v with
  | .node n => s.me.a.forcing n
  | .cell c => s.me.cellPending c || s.me.sinkStores { base := c.addr.toNat, len := cellBytes c.len c.fmt c.eg } ||
      s.me.heldOpen { base := c.addr.toNat, len := cellBytes c.len c.fmt c.eg }
  | .empty | .stream _ => false

/-- cvsel: its handles are read as program order leaves them, and it waits while a pending sink writes a cell (R308). -/
def execCvsel (d : SReg) (a b : VReg) (s : State) : Res :=
  s.vectorUnit fun s =>
    if s.cellAwaited a || s.cellAwaited b then .next s.wait else
    let integer (f : Option Fmt) : Bool := match f with | some f => indexFmt f && f != .ix4 && f != .ix8 | none => false
    match s.me.a.vhandle a, s.me.a.vhandle b with
    | .cell x, .empty =>
      if x.fmt ≠ some .f32 then s.trap .illegal
      else if s.me.a.csr.deadTrap then s.trap .deadRead
      else s.readCell x fun gs s =>
        let r := pickBest (gs.map fun g => (g, 0)) 0 none false
        .next ((s.raise (if r.2 then [.inv] else [])).setReg d (match r.1 with | some p => word p.1 | none => -1)).apart.retire
    | .cell x, .cell y =>
      if x.fmt ≠ some .f32 ∨ integer y.fmt = false then s.trap .illegal
      else if x.len ≠ y.len then s.trap .lenMismatch
      else s.readCell x fun gs s => s.readCell y fun ts s =>
        let f := y.fmt.getD .n8
        let r := pickBest (List.zip gs (ts.map fun t => patternOf 16 (intOf f t))) 0 none false
        .next ((s.raise (if r.2 then [.inv] else [])).setReg d (match r.1 with | some p => word p.1 | none => -1)).apart.retire
    | _, _ => s.trap .illegal

/-- Every earlier coverage sink and cvset of the context has finished with its accumulator (13 R310). -/
def State.afterCov (s : State) (k : State → Res) : Res :=
  let sink (p : Pend) : Bool := match p.sink? with
    | some e => (match e.op with | .cvwt .. | .cvcom .. | .cvprb .. | .cvprbb .. => true | _ => false)
    | none => false
  if (s.me.items.any sink) || (s.me.held.any fun h => match h.instr with | .cvset .. => true | _ => false) then .next s.wait
  else k s

/-- cvrd: best values or weights copied into a new cell (R309). -/
def execCvrd (d : VReg) (a : CovReg) (b : SReg) (s : State) : Res :=
  s.vectorUnit fun s =>
    let r := s.me.a
    let c := s.covNow a.toNat
    let vl := r.csr.vl.toNat
    if c.n == 0 || !c.holds r.csr.elbase vl || r.streaming d then s.trap .illegal
    else s.reading [b] fun s =>
      if !s.ownsCov a then s.trap .covOwner
      else s.afterCov fun s =>
        let c := s.cov a.toNat
        let weights := bit (s.reg b) 0
        let slot (i : Nat) : Nat := (r.csr.elbase + word i - c.gb).toNat
        let place (i : Nat) : Nat := if weights then 8192 + slot i else slot i
        let stored := !weights || c.wt
        match (List.range vl).find? fun i => stored && c.poisoned (place i) with
        | some i => s.trapAtIssue .poison (word (covFaultVa a.toNat (place i))) false
        | none =>
          let data := (List.range vl).flatMap fun i =>
            leBytes (if stored then (Sparse.get 0 c.words (place i)).toNat else 0x3F800000) 4
          s.newCell (.cvrd d a b) (some .f32) vl data fun x s => s.nameCell d x

end Sys2Proof.Machine
end

