-- ==== Sys2Proof/Machine/Quad.lean ====
section
/-!
DEFINITION. The quad (15): the forager engine and its link graphs (15 R317 to R322, 22 R424, R425), comb barrier objects (15
R323 to R331), scoped barriers (15 R334 to R336, 21 R394, 22 R427), bindings (15 R338), and the quad's failures (15 R340).
-/

namespace Sys2Proof.Machine

/-! ## Places in the quad -/

/-- A physical address stands in a slice of the context's quad (15 R319, R327). -/
def State.inQuad (s : State) (pa : Nat) : Bool :=
  match region pa with
  | .sram d n => 36 * d + n / 4 == s.me.quad
  | _ => false

/-- The checks of an access to an object (15 R327). -/
def State.objectAccess (s : State) (o : Word) (k : Access) (go : Xlat → State → Res) : Res :=
  s.access o 64 k fun x s => if s.inQuad x.pa then go x s else s.trapAtIssue .perm o k.writes

/-! ## Comb barrier objects (15 R323 to R325) -/

/-- CTRL after an update that adds to PEND and perhaps arrives; none where PEND or ARR would leave its range (15 R324, R325). -/
def objectUpdate (ctrl : Nat) (delta : Int) (arrive : Bool) : Option Nat :=
  let exp := ctrl / 2 ^ 48
  let arr := ctrl / 2 ^ 32 % 2 ^ 16
  let p := signedOf 24 (ctrl / 2 ^ 8) + delta
  if p < -(2 ^ 23 : Nat) ∨ (2 ^ 23 : Nat) ≤ p ∨ (arrive ∧ arr = 0) then none
  else
    let arr := if arrive then arr - 1 else arr
    let low := ctrl % 256
    let body := exp * 2 ^ 48 + patternOf 24 p * 2 ^ 8
    some (if p = 0 ∧ arr = 0 then body + exp * 2 ^ 32 + (if low % 2 = 0 then low + 1 else low - 1) else body + arr * 2 ^ 32 + low)

/-- Writes bytes of an object at its home: offset, then bytes. -/
abbrev ObjectPut : Type := State → Nat → List Byte → State

/-- An 8-byte word of an object at its home, as an agent reads it. -/
def State.objectWord (s : State) (c : Ctx) (pa : Nat) : Nat := leNat (s.readHome c pa 8)

/-- Records the first failure of an object (15 R325). -/
def State.objectError (s : State) (c : Ctx) (put : ObjectPut) (pa code : Nat) (va : Word) : State :=
  let ctrl := s.objectWord c pa
  if ctrl / 2 % 2 = 1 then s
  else
    let estat := s.objectWord c (pa + 16) / 256 * 256 + code % 256
    put (put (put s 0 (leBytes (ctrl + 2) 8)) 8 (leBytes va.toNat 8)) 16 (leBytes estat 8)

/-- One update of an object at its home, with the bytes of CHUNK that it writes beside (15 R324, R325). -/
def State.updateObject (s : State) (c : Ctx) (put : ObjectPut) (o : Word) (pa : Nat) (delta : Int) (arrive : Bool)
    (chunk : List (Nat × List Byte)) : State :=
  let ctrl := s.objectWord c pa
  if ctrl / 2 % 2 = 1 then s
  else match objectUpdate ctrl delta arrive with
    | none => s.objectError c put pa 0x01 o
    | some v => chunk.foldl (fun s c => put s c.1 c.2) (put s 0 (leBytes v 8))

/-- bbini: a held write of all 64 bytes (R328). -/
def execBbini (a b : SReg) (s : State) : Res :=
  s.vectorUnit fun s =>
    let x := (s.reg b).toNat
    if 2 ^ 16 ≤ x ∨ x = 0 then s.trap .illegal
    else s.reading [a, b] fun s =>
      let o := s.reg a
      s.objectAccess o .write fun t s =>
        let r : List Range := [{ base := o.toNat, len := 64 }]
        s.guardWrite r fun s =>
          let s := (s.use s.me t .write).traceHits o.toNat 64 .write
          .next (s.hold (.bbini a b) [o, word t.pa, word x, 0, 0] r).apart.retire

/-- An update of an object by a context: it performs when every earlier effect of the context has (15 R327, R329). -/
def State.contextUpdate (s : State) (a b : SReg) (arrive : Bool) : Res :=
  s.vectorUnit fun s =>
    let x := s.reg b
    if field x 23 40 ≠ 0 then s.trap .illegal
    else s.reading [a, b] fun s =>
      let o := s.reg a
      s.objectAccess o .atomic fun t s =>
        s.guardWrite [{ base := o.toNat, len := 64 }] fun s =>
          let go (s : State) : Res :=
            s.afterSinks fun s =>
              if !s.me.held.isEmpty || s.pathToHome t.pa then .next s.wait
              else if s.homePoison t.pa 8 then s.trapAtIssue .poison o true
              else
                let s := (s.use s.me t .atomic).traceHits o.toNat 64 .atomic
                let put : ObjectPut := fun s i bs => s.writeHome (o + word i) (t.pa + i) bs
                let s := s.updateObject s.me put o t.pa (field x 0 23) arrive (if bit x 63 then [(32, List.replicate 32 0)] else [])
                let s := s.invalidate s.me.core fun l => l == t.pa / 64
                .next { s with me := s.me.useAhead t.pa 64 }.apart.retire
          if arrive then s.release .quad (some o) go else go s

/-- bbexp (R329). -/
def execBbexp (a b : SReg) (s : State) : Res := s.contextUpdate a b false
/-- bbarv (R329). -/
def execBbarv (a b : SReg) (s : State) : Res := s.contextUpdate a b true

/-- One poll of a bbwait (15 R330): it completes on the phase, traps on ERR, or goes on waiting. -/
def State.pollObject (s : State) (o : Word) (phase : Bool) (d : SReg) : Res :=
  s.objectAccess o .read fun t s =>
    let r : Range := { base := o.toNat, len := 64 }
    if s.me.sinkStores r || s.me.heldOpen r || s.heldOverlaps t.pa 64 || s.pathOverlaps t.pa 64 then .next s.wait
    else if s.homePoison t.pa 8 then s.trapAtIssue .poison o false
    else
      let ctrl := s.objectWord s.me t.pa
      let u := (((s.use s.me t .read).traceHits o.toNat 64 .read).invalidate s.me.core fun l => l == t.pa / 64).readsAtHome t.pa 8 s.me.a.ipc .rsp
      if ctrl / 2 % 2 = 1 then
        u.afterSinks fun u =>
          if u.homePoison (t.pa + 8) 8 then u.trapAtIssue .poison (o + 8) false
          else if u.homePoison (t.pa + 16) 8 then u.trapAtIssue .poison (o + 16) false
          else u.takeTrap { cause := .illegal, va := word (u.objectWord u.me (t.pa + 8)), write := false, pass := none,
                            code := some (u.readByte u.me (t.pa + 16)).toNat }
      else if decide (ctrl % 2 = 1) != phase then .next ((u.setReg d (word ctrl)).acquire .quad (some o)).apart.retire
      else .next { u with me := { u.me with wait := .bbwait o phase d } }

/-- bbwait (R330). -/
def execBbwait (d a b : SReg) (s : State) : Res :=
  s.vectorUnit fun s => s.reading [a, b] fun s => s.pollObject (s.reg a) (bit (s.reg b) 0) d

/-- BBWAIT_COMPLETE: a waiting bbwait polls its object again (R330). -/
def execBbwaitComplete (c : CtxId) (s : State) : Res :=
  s.onCtx c.toNat fun s =>
    match s.me.wait with
    | .bbwait o phase d => { s with me := { s.me with wait := .none } }.pollObject o phase d
    | _ => .next s

/-- Bits packed into bytes, the first the lowest. -/
def packBits (bs : List Bool) : List Byte :=
  (List.range ((bs.length + 7) / 8)).map fun i =>
    BitVec.ofNat 8 ((List.range 8).foldl (fun n j => n + bitOf ((bs[8 * i + j]?).getD false) * 2 ^ j) 0)

/-- bbtest: chunk bits in a new mask cell (R331). -/
def execBbtest (d : KReg) (a b : SReg) (s : State) : Res :=
  s.vectorUnit fun s =>
    if d = 0 then s.trap .illegal
    else s.reading [a, b] fun s =>
      let o := s.reg a
      let c0 := field (s.reg b) 0 8
      s.objectAccess o .read fun t s =>
        let r : Range := { base := o.toNat, len := 64 }
        if s.me.sinkStores r || s.me.heldOpen r || s.heldOverlaps t.pa 64 || s.pathOverlaps t.pa 64 then .next s.wait
        else
          match (wordsOf (t.pa + 32) 32).find? fun w => s.poison.contains w with
          | some w => s.trapAtIssue .poison (o + word (8 * w - t.pa)) false
          | none =>
            let chunk := leNat (s.readHome s.me (t.pa + 32) 32)
            let n := s.me.a.csr.vl.toNat
            let bits := (List.range n).map fun i => decide (c0 + i < 256) && chunk.testBit (c0 + i)
            let s := ((s.use s.me t .read).traceHits o.toNat 64 .read).invalidate s.me.core fun l => l == t.pa / 64
            s.newCell (.bbtest d a b) none n (packBits bits) fun c s =>
              .next (s.setArch fun r => (r.setK d (.cell c)).takeSeq).collect.apart.retire

/-! ## Link graphs (22 R424, R425) -/

/-- A link graph of a tenant. -/
def Package.graph (p : Package) (tenant n : Nat) : List Byte := Sparse.get [] p.graphs (16 * tenant + n)

/-- Byte i of a graph. -/
def graphByte (g : List Byte) (i : Nat) : Nat := ((g[i]?).getD 0).toNat

/-- EN. -/
def graphOn (g : List Byte) : Bool := graphByte g 0 == 1

/-- IN and OUT. -/
def graphIn (g : List Byte) : Fmt := (Fmt.ofCode (graphByte g 1)).getD .f32
@[inherit_doc graphIn] def graphOut (g : List Byte) : Fmt := (Fmt.ofCode (graphByte g 2)).getD .f32

/-- Destination bytes of source bytes, as a product to be divided by the width of IN. -/
def graphBytes (g : List Byte) (n : Nat) : Nat := n * (graphOut g).bits / (graphIn g).bits

/-- The destination bytes are a whole number, and each row is a whole number of elements. -/
def graphWhole (g : List Byte) (w n : Nat) : Bool :=
  n * (graphOut g).bits % (graphIn g).bits == 0 && w * 8 % (graphIn g).bits == 0

/-- One destination element from a source element and the element that stands there (22 R425). -/
def graphElement (g : List Byte) (x d : Nat) : Nat × List Flag :=
  let mode := graphByte g 4
  let r : Rounding := { mode := mode % 8, sat := mode.testBit 3, w := 0 }
  let out := graphOut g
  let op := graphByte g 3
  if graphIn g = .i32 then
    let a := signedOf 32 x
    let b := signedOf 32 d
    match op with
    | 0 => (x, [])
    | 1 => deliverInt r.sat true 32 (b + a)
    | 2 => (patternOf 32 (max a b), [])
    | _ => (patternOf 32 (min a b), [])
  else
    let a := unpack (graphIn g).layout x
    let b := unpack out.layout d
    match op with
    | 0 => roundTo out.layout r a
    | 1 =>
      let z := addValues r.mode b a
      let v := roundWide out.layout r z.1
      (v.1, z.2 ++ v.2)
    | op => finish out r (minMax (op == 2) b a)

/-- ORs flags into FLG of a graph. -/
def State.graphRaise (s : State) (tenant n : Nat) (fs : List Flag) : State :=
  if fs.isEmpty then s
  else
    let g := s.pkg.graph tenant n
    let flg := leNat ((g.drop 8).take 8) ||| (flagMask fs).toNat
    { s with pkg := { s.pkg with graphs := Sparse.set [] s.pkg.graphs (16 * tenant + n) (g.take 8 ++ leBytes flg 8 ++ g.drop 16) } }

/-! ## bxfer (15 R318, R319) -/

/-- The source footprint: the shortest run that holds H rows of W bytes (02 R56). -/
def sourceRun (src stride : Word) (w h : Nat) : Range :=
  let r := stridedRun src.toNat stride.toInt 1 h
  { r with len := r.len + w - 1 }

/-- The lowest failing byte of a range: PAGE, PERM, WATCH. -/
def State.mapFault (s : State) (va n : Nat) (k : Access) : Option (Cause × Word) :=
  (pagePieces va n).findSome? fun p =>
    match s.lookup s.me p.1 k with
    | .fault c => some (c, word p.1)
    | .waits _ _ => none
    | .ok _ =>
      if s.watched s.me p.1 p.2 k then
        some (.watch, word (s.watchedByte s.me p.1 p.2 k))
      else none

/-- The lower of two failures. -/
def lowerFault : Option (Cause × Word) → Option (Cause × Word) → Option (Cause × Word)
  | some a, some b => some (if b.2.toNat < a.2.toNat then b else a)
  | some a, none => some a
  | none, b => b

/-- Some earlier write of the context to a range has not performed at its home (15 R319, 02 R63). -/
def State.sourcePending (s : State) (r : Range) : Bool :=
  s.me.sinkStores r || (s.me.held.any fun h => h.footprint.any fun x => x.overlaps r) ||
    (s.myCore.path.any fun w => w.of s.me && Range.overlaps { base := w.va.toNat, len := w.data.length } r) ||
    s.pkg.requests.any fun q => q.ctx == s.me.id && q.launch == s.me.launch &&
      (match q.kind with | .write d => Range.overlaps { base := q.va.toNat, len := d.length } r | _ => false)

/-- The transfers in flight of a quad. -/
def State.inFlight (s : State) (quad : Nat) : List Transfer := s.transfers.filter fun t => t.quad == quad

/-- The chunks that a transfer touches (15 R321). -/
def Transfer.chunks (t : Transfer) : List Nat :=
  let lo := t.dst.toNat % 131072 / 512
  (List.range ((t.dst.toNat % 131072 + t.n - 1) / 512 + 1 - lo)).map fun i => lo + i

/-- The first chunk of a transfer that has not landed. -/
def Transfer.nextChunk (t : Transfer) : Nat := (t.chunks.find? fun j => !t.landed.contains j).getD 0

/-- A held transfer of the moving context that could be launched finds 32 of its quad in flight: nothing issues after it (15
R317). -/
def State.transferWaits (s : State) : Bool :=
  match s.me.held with
  | [] => false
  | h :: _ => h.isTransfer && s.me.mayPerform h && decide (32 ≤ (s.inFlight s.me.quad).length)

/-- The happening that frees a slot of a quad's forager. -/
def State.landTurn (s : State) (quad : Nat) : Option Turn :=
  ((s.inFlight quad).find? fun t => t.stalled.isNone).map fun t => .happen (.foragerChunkLand t.id (BitVec.ofNat 8 t.nextChunk))

/-- Destination bytes of a transfer of the moving context under a graph number (R319, 22 R424). -/
def State.transferBytes (s : State) (g : BitVec 4) (w h : Nat) : Nat :=
  let gr := s.pkg.graph s.me.a.csr.tenant g.toNat
  if g ≠ 0 ∧ graphOn gr = true then graphBytes gr (w * h) else w * h

/-- bxfer (R319): its checks, its guards, and the transfer among the held effects. -/
def execBxfer (g : BitVec 4) (d a b : SReg) (s : State) : Res :=
  s.vectorUnit fun s =>
    let n4 := (List.range 4).map fun i => a.toNat + i
    s.reading (((n4.filter fun i => decide (i < 128)).map fun i => BitVec.ofNat 7 i) ++ [d, b]) fun s =>
      let at_ (i : Nat) : Word := s.reg (a + BitVec.ofNat 7 i)
      let w := (at_ 2).toNat
      let h := (at_ 3).toNat
      if 124 < a.toNat ∨ 131072 < w ∨ 131072 < h then s.trap .illegal
      else
        let gr := s.pkg.graph s.me.a.csr.tenant g.toNat
        let on := decide (g ≠ 0) && graphOn gr
        if on && decide (w * h ≠ 0) && !graphWhole gr w (w * h) then s.trap .illegal
        else
          let n := s.transferBytes g w h
          let dst := s.reg d
          let o := s.reg b
          let src : Range := sourceRun (at_ 0) (at_ 1) w h
          let dr : Range := { base := dst.toNat, len := n }
          if n = 0 then .next s.apart.retire
          else if 131072 < n ∨ dst.toNat / 131072 ≠ (dst.toNat + n - 1) / 131072 ∨ src.overlaps dr = true ∨
              (g ≠ 0 ∧ graphOn gr = false) then s.trap .illegal
          else if o.toNat % 64 ≠ 0 then s.trapAtIssue .align o true
          else match lowerFault (s.mapFault dst.toNat n .write) (s.mapFault o.toNat 64 .atomic) with
            | some f => s.trapAtIssue f.1 f.2 true
            | none => match (s.spanLink dst.toNat n .write).or (s.spanLink o.toNat 64 .atomic) with
            | some (a, b) => .next (s.waitLink a b dst true)
            | none =>
              let pages := pagePieces dst.toNat n
              match pages.find? fun p => !s.inQuad (s.physAt (word p.1) .write).toNat with
              | some p => s.trapAtIssue .perm (word p.1) true
              | none =>
                let opa := s.physAt o .atomic
                if !s.inQuad opa.toNat then s.trapAtIssue .perm o true
                else s.guardWrite [dr] fun s =>
                  if s.sourcePending src then .next s.wait
                  else if 32 ≤ (s.inFlight s.me.quad).length then
                    .next { s with turns := (s.landTurn s.me.quad).toList ++ s.turns }
                  else
                    let bases := pages.map fun p => s.physAt (word (p.1 / 4096 * 4096)) .write
                    let s := (s.useSpan dst.toNat n .write).useSpan o.toNat 64 .atomic
                    .next (s.hold (.bxfer g d a b)
                      (dst :: o :: at_ 0 :: at_ 1 :: word w :: word h :: word g.toNat :: word n :: opa :: bases) [dr]).apart.retire

/-- The forager as it acts for a context (15 R315, R320). -/
def Transfer.agent (t : Transfer) : Ctx :=
  let c := Ctx.vacant t.ctx
  { c with launch := t.launch, a := { c.a with pc := t.pc, csr := { c.a.csr with status := word (256 * t.tenant) } } }

/-- The address of source byte k. -/
def Transfer.sourceVa (t : Transfer) (k : Nat) : Nat :=
  (t.src + word (k / t.rowBytes) * t.rowStride + word (k % t.rowBytes)).toNat

/-- The slots of BULK that a transfer whose source stands on another die reserves at its quad's die: one for each flit of 256 bytes, where
so many are left (21 R387, R390; DESIGN CHOICE, assumption log 63). -/
def State.reserveSlots (s : State) (t : Transfer) : Transfer × State :=
  match s.lookup t.agent (t.sourceVa 0) .read with
  | .ok x =>
    let d := t.quad / 36
    let h := (region x.pa).die?.getD d
    let n := (t.n + 255) / 256
    if h = d ∨ Channel.bulk.slots < ((s.link h d).channel .bulk).reserved + n then (t, s)
    else ({ t with slots := some (h, n) }, s.setLink h d fun l => l.setChannel .bulk fun c => { c with reserved := c.reserved + n })
  | .fault _ | .waits _ _ => (t, s)

/-- FORAGER_LAUNCH: a held transfer is launched once nothing stands before it, the context's writes have performed at their
homes, in other packages too, and a slot is free (R317, R319, R345, 22 R422). -/
def execForagerLaunch (c : CtxId) (s : State) : Res :=
  s.onCtx c.toNat fun s =>
    match s.me.held with
    | [] => .next s
    | h :: rest =>
      if !h.isTransfer || !s.me.mayPerform h || (s.myCore.path.any fun w => w.of s.me) || s.podPending s.me ||
          decide (32 ≤ (s.inFlight s.me.quad).length) then .next s
      else match h.args with
        | dst :: o :: src :: stride :: w :: rows :: g :: n :: opa :: bases =>
          let t : Transfer :=
            { id := s.nextTransfer, quad := s.me.quad, ctx := s.me.id, tenant := s.me.a.csr.tenant, launch := s.me.launch, pc := h.pc,
              src := src, rowStride := stride, rowBytes := w.toNat, rows := rows.toNat, dst := dst,
              dstPa := bases.map fun b => b.toNat, obj := o, objPa := opa.toNat, graph := g.toNat, n := n.toNat, landed := [],
              recopied := [], stalled := none, slots := none }
          let (t, u) := s.reserveSlots t
          .next { u with transfers := u.transfers ++ [t], nextTransfer := u.nextTransfer + 1,
                         me := { u.me with held := rest } }.drain
        | _ => .next s

/-! ## A transfer in flight (15 R320, R321) -/

/-- The physical address of destination byte k. -/
def Transfer.destPa (t : Transfer) (k : Nat) : Nat :=
  let va := t.dst.toNat + k
  (t.dstPa[va / 4096 - t.dst.toNat / 4096]?).getD 0 + va % 4096

/-- The destination bytes of a chunk: the first and the one past the last. -/
def Transfer.chunkBytes (t : Transfer) (j : Nat) : Nat × Nat :=
  let at_ := t.dst.toNat % 131072
  (512 * j - at_, min t.n (512 * j + 512 - at_))

/-- What reading the source comes to. -/
inductive Gathered where
  | bytes (bs : List (Byte × Bool))
  | fault (c : Cause) (va : Nat)
  /-- a link is under retrain -/
  | waits
  deriving DecidableEq, Repr

/-- Reads source bytes at their homes, each with its poison. -/
def State.gather (s : State) (c : Ctx) : List Nat → List (Byte × Bool) → State × Gathered
  | [], acc => (s, .bytes acc.reverse)
  | va :: r, acc =>
    match s.lookup c va .read with
    | .fault f => (s, .fault f va)
    | .waits _ _ => (s, .waits)
    | .ok x =>
      match s.reach c x.pa with
      | .fails f => (s, .fault f va)
      | .waits _ _ => (s, .waits)
      | .here =>
        let s := s.use c x .read
        if region x.pa = .pod then
          match s.podRead c va x.pa 1 with
          | none => (s.draw, .fault .remote va)
          | some bs => s.draw.gather c r ((bs.headD 0, false) :: acc)
        else s.gather c r ((s.readByte c x.pa, s.homePoison x.pa 1) :: acc)

/-- The place of a memory error: the quad of a slice's word, 0 for another (15 R340). -/
def errorPlace (pa : Nat) : Nat := match region pa with | .sram d n => 36 * d + n / 4 | _ => 0

/-- A write in part of a poisoned word (05 R150). -/
def State.partOfPoison (s : State) (pa n : Nat) : Bool :=
  (wordsOf pa n).any fun w => s.poison.contains w && !(decide (pa ≤ 8 * w) && decide (8 * w + 8 ≤ pa + n))

/-- A write performs at its home; a poisoned word written in part is logged (05 R150). -/
def State.performLogged (s : State) (c : Ctx) (pa : Nat) (data : List Byte) (poison : Bool) : State :=
  let s := if s.partOfPoison pa data.length then
      s.reportAt .memoryPoisoned ((region pa).die?.getD 0) (errorPlace pa) (word pa) (s.nameOf c c.a.pc (-1)) [] else s
  s.performAs c pa data poison

/-- Destination bytes grouped by 8-byte word: each with its physical address. -/
def groupWords : List (Nat × Byte × Bool) → List (Nat × List Byte × Bool)
  | [] => []
  | (pa, b, p) :: r =>
    match groupWords r with
    | (qa, bs, q) :: rest => if qa = pa + 1 ∧ qa / 8 = pa / 8 then (pa, b :: bs, p || q) :: rest else (pa, [b], p) :: (qa, bs, q) :: rest
    | [] => [(pa, [b], p)]

/-- Destination bytes perform at their home, poisoned word by word (15 R320, R321). -/
def State.landBytes (s : State) (c : Ctx) (bs : List (Nat × Byte × Bool)) : State :=
  (groupWords bs).foldl (fun s w => s.performLogged c w.1 w.2.1 w.2.2) s

/-- Slots that the flits of a transfer hold reserved at its quad's die are given back, or fewer where fewer are held (21 R390). -/
def State.giveSlots (s : State) (t : Transfer) (n : Nat) : State :=
  match t.slots with
  | none => s
  | some (d, k) => s.setLink d (t.quad / 36) fun l => l.setChannel .bulk fun c => { c with reserved := c.reserved - min n k }

/-- Removes a transfer, with the slots it holds. -/
def State.dropTransfer (s : State) (id : Nat) : State :=
  let u := match s.transfers.find? fun t => t.id == id with
    | some t => s.giveSlots t (match t.slots with | some x => x.2 | none => 0)
    | none => s
  { u with transfers := u.transfers.filter fun t => decide (t.id ≠ id) }

/-- How the forager writes an object. -/
def Transfer.put (t : Transfer) : ObjectPut := fun s i bs => s.performAs t.agent (t.objPa + i) bs false

/-- The name of a transfer's context (21 R413). -/
def State.transferName (s : State) (t : Transfer) : List Byte := s.nameOf t.agent t.pc (-1)

/-- An update to a poisoned object is dropped and logged, with the quad and the context (15 R340). -/
def State.dropUpdate (s : State) (t : Transfer) : State :=
  s.reportAt .objectDropped (t.quad / 36) t.quad (word t.objPa) (s.transferName t) [t.ctx]

/-- A transfer ends on an error, which its object records (15 R320, R325). -/
def State.endTransfer (s : State) (t : Transfer) (code : Nat) (va : Word) : State :=
  let s := if s.homePoison t.objPa 24 then s.dropUpdate t else s.objectError t.agent t.put t.objPa code va
  s.dropTransfer t.id

/-- A chunk has landed: the update of the object, and the end of the transfer with its last chunk (15 R321). -/
def State.chunkDone (s : State) (t : Transfer) (j : Nat) : State :=
  let (lo, hi) := t.chunkBytes j
  let at_ := t.objPa + 32 + j / 8
  let s := if s.homePoison t.objPa 8 || s.homePoison at_ 1 then s.dropUpdate t
    else s.updateObject t.agent t.put t.obj t.objPa (-((hi - lo : Nat) : Int)) false
      [(32 + j / 8, [s.readByte t.agent at_ ||| BitVec.ofNat 8 (2 ^ (j % 8))])]
  let landed := t.landed ++ [j]
  if t.chunks.all fun k => landed.contains k then s.dropTransfer t.id
  else
    let u := s.giveSlots t 2
    let left := t.slots.map fun x => (x.1, x.2 - 2)
    { u with transfers := u.transfers.map fun x => if x.id = t.id then { x with landed := landed, slots := left } else x }

/-- The elements of a link graph that a chunk completes: those that no landed chunk has taken already (22 R425). -/
def Transfer.chunkElements (t : Transfer) (wide j : Nat) : List Nat :=
  let (lo, hi) := t.chunkBytes j
  ((List.range ((hi + wide - 1) / wide - lo / wide)).map fun i => lo / wide + i).filter fun e =>
    !((decide (e * wide < lo) && t.landed.contains (j - 1)) || (decide (hi < e * wide + wide) && t.landed.contains (j + 1)))

/-- Elements pass through a link graph into the destination, one after another. -/
def State.landElements (s : State) (t : Transfer) (g : List Byte) (win wout : Nat) : List Nat → List (Byte × Bool) → State × List Flag
  | [], _ => (s, [])
  | e :: es, bs =>
    let x := bs.take win
    let old := (List.range wout).map fun k => s.readByte t.agent (t.destPa (e * wout + k))
    let v := graphElement g (leNat (x.map fun b => b.1)) (leNat old)
    let p := x.any fun b => b.2
    let s := s.landBytes t.agent ((List.zip (List.range wout) (leBytes v.1 wout)).map fun k => (t.destPa (e * wout + k.1), k.2, p))
    let r := s.landElements t g win wout es (bs.drop win)
    (r.1, v.2 ++ r.2)

/-- The numbers of the source bytes that a chunk takes. -/
def State.chunkSources (s : State) (t : Transfer) (j : Nat) : List Nat :=
  let g := s.pkg.graph t.tenant t.graph
  let win := (graphIn g).bits / 8
  let (lo, hi) := t.chunkBytes j
  if t.graph = 0 then (List.range (hi - lo)).map fun k => lo + k
  else (t.chunkElements ((graphOut g).bits / 8) j).flatMap fun e => (List.range win).map fun k => e * win + k

/-- The traffic of a chunk's source: from another die a request, and a flit of BULK for each 256 bytes; and the bytes that DRAM gives
(21 R387, R406). -/
def State.chunkTraffic (s : State) (t : Transfer) (ks : List Nat) : State :=
  match ks with
  | [] => s
  | k :: _ =>
    match s.translate t.agent (t.sourceVa k) .read with
    | .error _ => s
    | .ok x =>
      let d := t.quad / 36
      let h := (region x.pa).die?.getD d
      let u := s.dramBytes t.agent t.pc x.pa ks.length false
      if h = d then u else (List.range ((ks.length + 255) / 256)).foldl (fun u _ => u.carry h d .bulk) (u.carry d h .req)

/-- FORAGER_CHUNK_LAND: the bytes of a chunk perform and the object is updated; a source fault stalls or ends the transfer
(R320, R321, 22 R425). -/
def execForagerChunkLand (x : Nat) (chunk : BitVec 8) (s : State) : Res :=
  match s.transfers.find? fun t => t.id == x with
  | none => .next s
  | some t =>
    let j := chunk.toNat
    if t.stalled.isSome || !t.chunks.contains j || t.landed.contains j then .next s
    else
      let g := s.pkg.graph t.tenant t.graph
      let win := (graphIn g).bits / 8
      let wout := (graphOut g).bits / 8
      let es := t.chunkElements wout j
      let ks := s.chunkSources t j
      let r := s.gather t.agent (ks.map t.sourceVa) []
      match r.2 with
      | .waits => .next s
      | .fault c va =>
        if c = .page ∨ c = .perm then
          let q := r.1.ask (t.quad / 36) t.tenant t.launch 0 (.transfer t.id) (word va) .read (r.1.transferName t)
          .next { q.2 with transfers := q.2.transfers.map fun y => if y.id = t.id then { y with stalled := some (q.1, c, word va) } else y }
        else .next (r.1.endTransfer t c.code (word va))
      | .bytes bs =>
        let r := (r.1.chunkTraffic t ks, r.2)
        if t.graph = 0 then
          .next ((r.1.landBytes t.agent ((List.zip ks bs).map fun k => (t.destPa k.1, k.2.1, k.2.2))).chunkDone t j)
        else
          let q := r.1.landElements t g win wout es bs
          .next ((q.1.graphRaise t.tenant t.graph q.2).chunkDone t j)

/-- The address of the first source byte that a chunk takes, or whose element it shares (15 R320, R325, 22 R425). -/
def State.chunkSource (s : State) (t : Transfer) (j : Nat) : Nat :=
  let g := s.pkg.graph t.tenant t.graph
  let lo := (t.chunkBytes j).1
  t.sourceVa (if t.graph = 0 then lo else lo / ((graphOut g).bits / 8) * ((graphIn g).bits / 8))

/-- FORAGER_BUFFER_PARITY: the chunk is copied again; a second error ends the transfer with POISON (R340). -/
def execForagerBufferParity (x : Nat) (chunk : BitVec 8) (s : State) : Res :=
  match s.transfers.find? fun t => t.id == x with
  | none => .next s
  | some t =>
    let j := chunk.toNat
    if !t.chunks.contains j || t.landed.contains j then .next s
    else
      let s := s.reportAt .foragerError (t.quad / 36) t.quad 0 (s.transferName t) [t.ctx]
      if t.recopied.contains j then
        .next (s.endTransfer t Cause.poison.code (word (s.chunkSource t j)))
      else .next { s with transfers := s.transfers.map fun y => if y.id = t.id then { y with recopied := j :: y.recopied } else y }

/-! ## Barriers (15 R334 to R336, 21 R394, 22 R427) -/

/-- The latest launch of a package group on a die. -/
def Die.groupLaunch (d : Die) (tenant : Nat) (tag : Word) : Option Launch :=
  d.launches.foldl (fun b l => if sameGroup tenant tag l then
    (match b with | some x => if l.seq < x.seq then some x else some l | none => some l) else b) none

/-- A participant of a barrier: its position, and the sequence number of its launch. One that has been frozen alone is a participant
still, whatever its position holds since (15 R335, R336). -/
abbrev Participant : Type := Nat × Nat

/-- The participants of a launch, as the dispatcher fixed them. -/
def Launch.participants (l : Launch) : List Participant := l.members.map fun id => (id, l.seq)

/-- The participants of the launch of a group on one die: none while it is not placed; a launch whose contexts have all halted
has no one to wait for (15 R335, 21 R394). -/
def Launch.waitedFor (l : Launch) : Option (List Participant) :=
  match l.state with
  | .placed => some l.participants
  | .ended | .done => some []
  | .waiting | .frozen | .moved => none

/-- The dies of a launch's package group (21 R394). -/
def Launch.groupDies (l : Launch) (die : Nat) : List Nat :=
  if tagGroups l.kernel.tag then (List.range 4).filter fun d => bit l.kernel.tag (60 + d) else [die]

/-- The participants of a context's barrier at a scope: none while a launch of its group is not placed (15 R335). -/
def State.participants (s : State) (c : Ctx) (sc : Scope) : Option (List Participant) :=
  match (s.die c.die).launch? c.launch with
  | none => some [(c.id, c.launch)]
  | some l =>
    match sc with
    | .ctx => some [(c.id, c.launch)]
    | .core => some (l.participants.filter fun p => p.1 / 4 == c.id / 4)
    | .quad => some (l.participants.filter fun p => p.1 / 16 == c.id / 16)
    | .die => some l.participants
    | .pkg | .pod =>
      if !tagGroups l.kernel.tag then some l.participants
      else (l.groupDies c.die).foldl (fun r d =>
        match r, (s.die d).groupLaunch l.tenant l.kernel.tag with
        | some ps, some m => m.waitedFor.map fun more => ps ++ more
        | _, _ => none) (some [])

/-- The pairs of dies between which the signals of a context's barrier go (21 R387, R392). -/
def State.barPairs (s : State) (c : Ctx) (sc : Scope) : List (Nat × Nat) :=
  match sc, (s.die c.die).launch? c.launch with
  | .pkg, some l | .pod, some l => (l.groupDies c.die).flatMap fun a => ((l.groupDies c.die).filter fun b => b != a).map fun b => (a, b)
  | _, _ => []

/-- The signals of a barrier wait: for a link of their way that is under retrain, or while no way is left (21 R392), or at `.pod` for other packages to which this one is not
connected (22 R419, R427). -/
def State.barHeld (s : State) (c : Ctx) (sc : Scope) : Bool :=
  ((s.barPairs c sc).any fun p => match s.route p.1 p.2 with
    | some hs => hs.any fun h => (s.link h.1 h.2).state == .retraining
    | none => true) ||
    (sc == .pod && !bit s.pkg.podid 12 &&
      (match (s.die c.die).launch? c.launch with | some l => s.podGroup l | none => false))

/-- A context waits at a barrier of a scope. -/
def Ctx.atBar (c : Ctx) (sc : Scope) : Bool :=
  match c.wait with
  | .bar x _ => x == sc
  | _ => false

/-- bar: a release, then the arrival (R335). -/
def execBar (sc : Scope) (s : State) : Res :=
  s.vectorUnit fun s => s.release sc none fun s => .next { s with me := { s.me with wait := .bar sc false } }

/-- A participant waits at its barrier. -/
def State.waiting (s : State) (sc : Scope) (p : Participant) : Bool := (s.ctx p.1).launch == p.2 && (s.ctx p.1).atBar sc

/-- A participant has arrived, or has halted (15 R335). -/
def State.arrived (s : State) (sc : Scope) (p : Participant) : Bool :=
  s.waiting sc p || ((s.ctx p.1).launch == p.2 && (s.ctx p.1).state == .halted)

/-- The contexts that wait at a context's barrier, once it is known. -/
def State.waitersOf (s : State) (c : Ctx) (sc : Scope) : List Nat :=
  (((s.participants c sc).getD [(c.id, c.launch)]).filter fun p => s.waiting sc p).map fun p => p.1

/-- An operation on each of a list of contexts. -/
def State.onEach (s : State) (ids : List Nat) (f : State → Res) : Res :=
  ids.foldl (fun r id => match r with | .next s => s.onCtx id f | r => r) (.next s)

/-- BAR_EPISODE_COMPLETE: every participant has arrived or halted; every waiter acquires and goes on (R335). At `.pod` the
event is the signal of the other packages, too (22 R427). -/
def execBarEpisodeComplete (c : CtxId) (s : State) : Res :=
  let x := s.ctx c.toNat
  match x.wait with
  | .bar sc _ =>
    (match s.participants x sc with
    | none => .next s
    | some ps =>
      if (ps.all fun p => s.arrived sc p) && !s.barHeld x sc then
        ((s.barPairs x sc).foldl (fun (s : State) p => s.carry p.1 p.2 .side) s).onEach
            ((ps.filter fun p => s.waiting sc p).map fun p => p.1) fun s =>
          if s.me.atBar sc then .next ({ s with me := { s.me with wait := .none } }.acquire sc none).apart.retire else .next s
      else .next s)
  | _ => .next s

/-- BARRIER_WIRE_PARITY: the signal is sent again; a second error stops every waiter with POISON (R340), at `.pkg` and `.pod` as at the scopes
below (00 R4; DESIGN CHOICE, assumption log 113). -/
def execBarrierWireParity (c : CtxId) (s : State) : Res :=
  let x := s.ctx c.toNat
  match x.wait with
  | .bar sc resent =>
    let ids := s.waitersOf x sc
    let s := s.reportAt .barrierWire x.die x.quad 0 (s.nameOf x x.a.pc (-1)) [x.id]
    if resent then
      (s.notify .barrierWire x.die x.quad 0 (s.nameOf x x.a.pc (-1))).onEach ids fun s =>
        if s.me.atBar sc then
          { s with me := { s.me with wait := .none } }.takeTrap { cause := .poison, va := 0, write := false, pass := none }
        else .next s
    else s.onEach ids fun s => .next { s with me := { s.me with wait := .bar sc true } }
  | _ => .next s

/-! ## Bindings (15 R338) -/

/-- bind (R338). -/
def execBind (d a b : SReg) (s : State) : Res :=
  s.vectorUnit fun s => s.reading [d, a, b] fun s =>
    let o := s.reg d
    let base := s.reg a
    let len := s.reg b
    let mine := s.bindsNow.filter fun x => x.ctx == s.me.id
    if base.toNat % 64 ≠ 0 ∨ len.toNat % 64 ≠ 0 ∨ len.toNat < 64 ∨ 2 ^ 30 < len.toNat ∨
        (4 ≤ mine.length ∧ ¬ mine.contains { ctx := s.me.id, obj := o, base := base, len := len }) then s.trap .illegal
    else .next (s.hold (.bind d a b) [o, base, len] []).retire

/-- unbind (R338). -/
def execUnbind (a : SReg) (s : State) : Res :=
  s.vectorUnit fun s => s.reading [a] fun s => .next (s.hold (.unbind a) [s.reg a] []).retire

/-! ## The mesh (15 R340) -/

/-- A RAS record of a core's mesh link, with its quad, the core and the direction (R340). -/
def State.meshRecord (s : State) (k : ReportKind) (core : CoreId) (dir : BitVec 2) : State :=
  s.reportAt k (core.toNat / 144) (core.toNat / 4) 0 noName [core.toNat, dir.toNat]

/-- MESH_FLIT_RESEND: no effect on any value; a RAS record (R340). -/
def execMeshFlitResend (core : CoreId) (dir : BitVec 2) (s : State) : Res := .next (s.meshRecord .meshFlit core dir)

/-- MESH_LINK_FAIL: traffic is routed round the link, and the nurse is notified (R340). -/
def execMeshLinkFail (core : CoreId) (dir : BitVec 2) (s : State) : Res :=
  .next (((s.setCore core.toNat fun k => { k with meshDown := k.meshDown ||| (1 : BitVec 4) <<< dir.toNat }).meshRecord .meshLink
    core dir).notify .meshLink (core.toNat / 144) (core.toNat / 4) 0 noName)

/-- nop (04 R113). -/
def execNop (_h : BitVec 25) (s : State) : Res := .next s.retire

end Sys2Proof.Machine
end

