-- ==== Sys2Proof/Machine/Snapshot.lean ====
section
/-!
DEFINITION. Snapshots (19 R378): a context as bytes, and a context from bytes. The layout names no cell of a stage that has
not completed: its references are the nodes they still are, and a restore plans it again (02 R69; assumption log 14).
-/

namespace Sys2Proof.Machine

/-! ## Bytes -/

/-- Zero bytes. -/
def zeros (n : Nat) : List Byte := List.replicate n 0

/-- Bytes padded with zero to a multiple. -/
def padTo (n : Nat) (bs : List Byte) : List Byte := bs ++ zeros ((n - bs.length % n) % n)

/-- A number at an offset. -/
def numAt (bs : List Byte) (off n : Nat) : Nat := leNat ((bs.drop off).take n)

/-- A word at an offset. -/
def wordAt (bs : List Byte) (off : Nat) : Word := word (numAt bs off 8)

/-- The CSRs in map order (01 R36). -/
def csrOrder : List Csr :=
  [.vl, .vtype, .vmode, .elbase, .strip, .flags, .feix .inv, .feix .dz, .feix .ovf, .feix .unf, .feix .inx, .feix .sat,
    .feix .cbi, .srseed, .srsalt, .rngkey, .repc, .deadm, .cellbase, .celllim, .celluse, .cellcnt, .cbsel, .mvl, .mprog,
    .win, .ctxid, .status, .epc, .cause, .faultva, .faultel, .blamepc, .blameseq]

/-- A CSR as a snapshot holds it, put back; reserved bits are ignored (00 R7). -/
def Csrs.restore (c : Csrs) (n : Csr) (v : Word) : Csrs :=
  match n with
  | .vl => { c with vl := v &&& n.mask } | .vtype => { c with vtype := v &&& n.mask } | .vmode => { c with vmode := v &&& n.mask }
  | .win => { c with win := v &&& n.mask } | .ctxid => c
  | .status => { c with status := (c.status &&& ~~~3) ||| (v &&& 3) }
  | n => c.put n v

/-! ## References -/

/-- The code of a value's format; a mask has one bit for each element. -/
def fmtByte : Option Fmt → Nat
  | none => 0xFF
  | some f => f.code

/-- A reference (19 R378). -/
def refBytes (kind fmt eg bank len val : Nat) : List Byte :=
  leBytes kind 1 ++ leBytes fmt 1 ++ leBytes eg 1 ++ leBytes bank 1 ++ leBytes len 4 ++ leBytes val 8

/-- A reference to what an operand names; an EMPTY handle that stands under a bank is a codebook cell without an element, so that its bank is
kept (DESIGN CHOICE, assumption log 99). -/
def Arch.refOf (a : Arch) (scalar : Fmt) (bank : Option BankReg) (r : Ref) : List Byte :=
  let b := match bank with | some b => b.toNat | none => 0
  let k := if bank.isSome then 3 else 0
  match r with
  | .none => if bank.isSome then refBytes 5 0 0 b 0 0 else zeros 16
  | .node n =>
    (match broodEntry a.brood n with
    | some e => refBytes (1 + k) (fmtByte e.valueFmt) e.eg b e.len n
    | none => zeros 16)
  | .cell c => refBytes (2 + k) (fmtByte c.fmt) c.eg b c.len c.addr.toNat
  | .scalar w => refBytes 3 scalar.code 0 0 0 w.toNat
  | .stream v => refBytes 6 (match a.stream? v with | some t => t.fmt.code | none => 0) 0 0
      (match a.stream? v with | some t => t.len | none => 0) v.toNat
  | .k0 => refBytes 7 0 0 0 0 0

/-- A handle of number v. -/
def Arch.handleBytes (a : Arch) (v : Nat) (h : Handle) : List Byte :=
  match h with
  | .empty => zeros 16
  | .node n => a.refOf .f32 none (.node n)
  | .cell c => a.refOf .f32 none (.cell c)
  | .stream _ => a.refOf .f32 none (.stream (BitVec.ofNat 7 v))

/-- What a reference names, with its bank. -/
def parseRef (bs : List Byte) : Operand :=
  let val := numAt bs 8 8
  let cell : CellRef := { addr := word val, len := numAt bs 4 4, fmt := Fmt.ofCode (numAt bs 1 1), eg := numAt bs 2 1 }
  let bank := some (BitVec.ofNat 4 (numAt bs 3 1))
  match numAt bs 0 1 with
  | 1 => Operand.of (.node val)
  | 2 => Operand.of (.cell cell)
  | 3 => Operand.of (.scalar (word val))
  | 4 => { ref := .node val, bank := bank }
  | 5 => { ref := if cell.len = 0 then .none else .cell cell, bank := bank }
  | 6 => Operand.of (.stream (BitVec.ofNat 7 val))
  | 7 => Operand.of .k0
  | _ => Operand.none

/-! ## Brood entries -/

/-- The destination that a snapshot names of a sink: not that of vldx, which its word names (19 R378). -/
def Entry.savedDst (e : Entry) : Nat :=
  match e.op with
  | .vldx .. => 0
  | .vforce d => d.toNat
  | _ => e.dst

/-- The accumulator of cvprb, or the mask register of a sink that reads one mask. -/
def Entry.savedDst2 (e : Entry) : Nat :=
  match e.op with
  | .cvprb .. => e.dst2
  | .bkany k _ | .bknone k _ | .kpop _ k | .kfirst _ k => k.toNat
  | _ => 0

/-- The form of a load, and of the source of a store. -/
def LoadForm.code : LoadForm → Nat
  | .vld => 0 | .vlds => 1 | .vldb => 3 | .vldc => 4

/-- A form from its code. -/
def LoadForm.ofCode : Nat → LoadForm
  | 0 => .vld | 3 => .vldb | 4 => .vldc | _ => .vlds

/-- The code of the kind of an entry. -/
def EntryKind.code : EntryKind → Nat
  | .node => 0 | .load => 1 | .sink => 2

/-- The source of a load node; no other entry has one (02 R39). -/
def Entry.sourceBytes (e : Entry) : List Byte :=
  match e.kind, e.source with
  | .load, some s =>
    leBytes s.base.toNat 8 ++ leBytes s.stride.toNat 8 ++
      leBytes (match s.decided with | some d => (decidedFmt e.fmt d).code | none => 0xFF) 1 ++ leBytes e.eg 1 ++
      leBytes (e.fmt.bits * 2 ^ e.eg) 2 ++ leBytes s.form.code 1 ++ zeros 3
  | _, _ => zeros 24

/-- The stride that a snapshot names: of vsts alone. -/
def Entry.savedStride (e : Entry) : Word := match e.op with | .vsts .. => e.str | _ => 0

/-- A brood entry (19 R378). -/
def Arch.entryBytes (a : Arch) (e : Entry) : List Byte :=
  let r (o : Operand) : List Byte := a.refOf (scalarFmt e.fmt) o.bank o.ref
  leBytes ((encode e.op).getD 0) 4 ++ leBytes e.seq.toNat 4 ++ leBytes e.pc.toNat 8 ++ leBytes e.len 4 ++
    leBytes e.fmt.code 1 ++ leBytes e.eg 1 ++
    leBytes (e.rm % 8 + 8 * bitOf e.sat + 16 * bitOf e.cbx + 32 * bitOf e.mpol) 1 ++ leBytes e.kind.code 1 ++
    leBytes e.elbase.toNat 8 ++ leBytes e.srseed.toNat 8 ++ leBytes e.srsalt.toNat 4 ++ zeros 4 ++ leBytes e.rngkey.toNat 8 ++
    e.sourceBytes ++ r e.a ++ r e.b ++ r e.c ++ r e.merge ++ r e.mask ++
    (if e.kind = .sink then
      leBytes e.savedDst 1 ++ leBytes e.savedDst2 1 ++ zeros 6 ++ leBytes e.val.toNat 8 ++ leBytes e.savedStride.toNat 8 ++ zeros 8
    else zeros 32)

/-- The decided format of a load or a stream, from its saved code, the format captured and the element group: the layout holds
no GEO, which is that of the page at its address if that page gives the format, and otherwise open (03 R434; DESIGN CHOICE,
assumption log 94). -/
def State.decidedAt (s : State) (base : Word) (code : Nat) (captured : Fmt) (eg : Nat) : Option PageAttr :=
  match Fmt.ofCode code with
  | none => none
  | some f =>
    let else_ := if eg = 0 then PageAttr.restored f else PageAttr.raw
    match s.probe base .read with
    | some p => some (if p.gives f && (p.fe || captured == f) then p else else_)
    | none => some else_

/-- A brood entry from its bytes; the moving context's translations stand. A sink's format is decided again once the table
stands. The stream operand of a step under `.vc` names no bank in the layout: it takes the one that slot M names at the restore
(01 R23; DESIGN CHOICE, assumption log 99). -/
def State.parseEntry (s : State) (bs : List Byte) : Option Entry :=
  match decode (numAt bs 0 4) with
  | .error _ => none
  | .ok op =>
    let kind : EntryKind := match numAt bs 23 1 with | 0 => .node | 1 => .load | _ => .sink
    let fmt := (Fmt.ofCode (numAt bs 20 1)).getD .f32
    let eg := numAt bs 21 1
    let len := numAt bs 16 4
    let mode := numAt bs 22 1
    let base := wordAt bs 56
    let val := wordAt bs 168
    let str := match op with | .vst .. => 1 | _ => wordAt bs 176
    let sunk (stride : Word) : Option Source := some { base := val, stride := stride, form := .vlds, decided := none }
    let r (i : Nat) : Operand := parseRef ((bs.drop (80 + 16 * i)).take 16)
    let b := r 1
    let e : Entry :=
      { op := op, kind := kind, seq := BitVec.ofNat 32 (numAt bs 4 4), pc := wordAt bs 8, len := len, fmt := fmt, eg := eg,
        rm := mode % 8, sat := mode.testBit 3, cbx := mode.testBit 4, mpol := mode.testBit 5, elbase := wordAt bs 24,
        srseed := wordAt bs 32, srsalt := BitVec.ofNat 32 (numAt bs 40 4), rngkey := wordAt bs 48, a := r 0,
        b := match op, b.ref with
          | .comba true .., .stream _ | .combs true .., .stream _ => { b with bank := s.me.a.csr.slotM }
          | _, _ => b,
        c := r 2, merge := r 3, mask := r 4,
        source := match op with
          | .vst .. | .vsts .. => sunk str
          | .vstx .. | .vldx .. => sunk 0
          | _ => if kind = .load then
              some { base := base, stride := wordAt bs 64, form := LoadForm.ofCode (numAt bs 76 1),
                     decided := s.decidedAt base (numAt bs 72 1) fmt eg }
            else none,
        dst := match op with | .vldx _ d _ _ => d.toNat | .vforce _ => 0 | _ => numAt bs 160 1,
        dst2 := match op with
          | .comba .. | .combs .. | .combi .. => len * 2 ^ eg / combRank fmt
          | .cvprbb _ a _ _ => a.toNat
          | .cvprb .. => numAt bs 161 1
          | _ => 0,
        val := val, str := str }
    some e

/-! ## Partial states (19 R378) -/

/-- Values of a width packed from the low end. -/
def packBitsOf (w : Nat) (vs : List Nat) : List Byte :=
  leBytes ((List.range vs.length).foldl (fun s i => s + (vs[i]?).getD 0 % 2 ^ w * 2 ^ (w * i)) 0) ((vs.length * w + 7) / 8)

/-- Values of a width from packed bytes. -/
def unpackBits (w n : Nat) (bs : List Byte) : List Nat :=
  let v := leNat (bs.take ((n * w + 7) / 8))
  (List.range n).map fun i => v / 2 ^ (w * i) % 2 ^ w

/-- How one operand of a step stands in the operand buffer: width and values for each element, and whether it holds encoded
blocks. -/
def Entry.bufferShape (e : Entry) (second : Bool) : Nat × Nat × Bool :=
  let o := if second then e.b else e.a
  match e.op with
  | .mwrr .. => if second then (32, 0, false) else (32, 1, false)
  | _ =>
    if o.ref.isStream then (32, 0, false)
    else if o.bank.isSome then ((combBankFmt e.fmt).bits, 2 ^ e.eg, false)
    else if e.fmt.cls == .k then (e.fmt.bits, 1, true)
    else (e.fmt.bits, 2 ^ e.eg, false)

/-- The position of element i in its block, for an operand that is a block load. -/
def Arch.blockPosOf (a : Arch) (o : Operand) (i : Nat) : Nat :=
  match o.ref.node?.bind fun n => broodEntry a.brood n with
  | some x => (match x.source with
    | some s => (match s.decided with
      | some d => (memBlock (decidedFmt x.fmt d) d.geo s.base.toNat i).2
      | none => i)
    | none => i)
  | none => i

/-- One operand of the buffer, padded to 8 bytes. -/
def Arch.bufferBytes (a : Arch) (e : Entry) (second : Bool) (els : List (List Nat)) : List Byte :=
  let (w, g, block) := e.bufferShape second
  if g = 0 then []
  else if block then
    let o := if second then e.b else e.a
    let starts := (List.range els.length).filter fun i => i == 0 || a.blockPosOf o i == 0
    let side (i : Nat) : Nat := match els[i]? with | some [_, s] => s | _ => 0
    padTo 8 (packBitsOf w (els.map fun v => (v[0]?).getD 0) ++ starts.flatMap fun i => leBytes (side i) 2)
  else padTo 8 (packBitsOf w (els.flatMap fun v => (List.range g).map fun k => (v[k]?).getD 0))

/-- The elements of one operand from its bytes, and the bytes that it takes. -/
def Arch.parseBuffer (a : Arch) (e : Entry) (second : Bool) (n : Nat) (bs : List Byte) : List (List Nat) × Nat :=
  let (w, g, block) := e.bufferShape second
  if g = 0 then (List.replicate n [], 0)
  else if block then
    let o := if second then e.b else e.a
    let size := (n * w + 7) / 8
    let codes := unpackBits w n bs
    let starts (i : Nat) : Nat := ((List.range (i + 1)).filter fun j => j == 0 || a.blockPosOf o j == 0).length
    ((List.range n).map fun i => [(codes[i]?).getD 0, numAt bs (size + 2 * (starts i - 1)) 2], (size + 2 * starts (n - 1) + 7) / 8 * 8)
  else
    let vs := unpackBits w (n * g) bs
    ((List.range n).map fun i => (List.range g).map fun k => (vs[i * g + k]?).getD 0, ((n * g * w + 7) / 8 + 7) / 8 * 8)

/-- A running value as the layout holds it: of a floating-point class FP32 bits, which round a wide integer at its own
element (assumption log 90). -/
def Entry.saved (e : Entry) (x : Amount) : Nat :=
  (x.single (e.aloneRounding (match x with | .whole _ _ a => a | .bits _ => 0))).1

/-- The data of a partial state; none where the sink keeps none. Of a tree sum the levels 0 to 32 alone stand (03 R101); one that has reached
a higher level loses it (DESIGN CHOICE, assumption log 114). -/
def Arch.partBytes (a : Arch) (e : Entry) (p : Part) : Option (List Byte) :=
  match e.op, p with
  | .vext .., _ => none
  | _, .run v h => some (leBytes (e.saved v) 8 ++ leBytes (bitOf h) 1 ++ zeros 7)
  | _, .exact s l =>
    let v := patternOf 96 s
    some (leBytes v 8 ++ leBytes (bitOf l.isSome) 1 ++ zeros 3 ++ leBytes (v / 2 ^ 64) 4)
  | _, .arg v i h => some (leBytes (e.saved v) 8 ++ leBytes i 8 ++ leBytes (bitOf h) 1 ++ zeros 7)
  | _, .tree ts =>
    let ls := (List.range 33).filter fun l => (partOf ts l).isSome
    some (leBytes ((ls.map fun l => 2 ^ l).sum) 8 ++ ls.flatMap fun l => leBytes (((partOf ts l).map e.saved).getD 0) 4)
  | _, .count n => some (leBytes n 8 ++ zeros 8)
  | _, .firstAt i => some (leBytes (i.getD (2 ^ 64 - 1)) 8 ++ zeros 8)
  | _, .operands as bs =>
    some (leBytes as.length 4 ++ zeros 4 ++ a.bufferBytes e false as ++ a.bufferBytes e true bs)
  | _, .none => none

/-- A partial state from its data, with the index of an exact sum's last element, which the layout does not hold. -/
def Arch.parsePart (a : Arch) (e : Entry) (last : Word) (bs : List Byte) : Part :=
  let v := numAt bs 0 8
  match e.firstPart with
  | .run _ _ => .run (.bits v) (numAt bs 8 1 == 1)
  | .exact _ _ =>
    let n := v + numAt bs 12 4 * 2 ^ 64
    .exact (if e.fmt.signed then signedOf 96 n else n) (if numAt bs 8 1 = 1 then some last else none)
  | .arg _ _ _ => .arg (.bits v) (numAt bs 8 8) (numAt bs 16 1 == 1)
  | .tree _ =>
    let ls := (List.range 33).filter fun l => v.testBit l
    .tree ((List.range ls.length).map fun i => ((ls[i]?).getD 0, .bits (numAt bs (8 + 4 * i) 4)))
  | .count _ => .count v
  | .firstAt _ => .firstAt (if v = 2 ^ 64 - 1 then none else some v)
  | .operands _ _ =>
    let n := numAt bs 0 4
    let x := a.parseBuffer e false n (bs.drop 8)
    let y := a.parseBuffer e true n (bs.drop (8 + x.2))
    .operands x.1 y.1
  | .none => .none

/-- The data of a carry (07 R199); none of a vldb, which the layout does not name: after a restore its element is read again
(07 R186; DESIGN CHOICE, assumption log 98). -/
def Entry.carryBytes (e : Entry) : Carry → Option (List Byte)
  | .scan r h => some (leBytes (e.saved r) 8 ++ leBytes (bitOf h) 1 ++ zeros 7)
  | .expand c => some (leBytes c 8)
  | .compress q s => some (leBytes q 8 ++ leBytes s 8)
  | .first b => some (leBytes (bitOf b) 8)
  | .once _ _ => none

/-- A carry from its data, by the operation that keeps it. -/
def parseCarry (op : Instr) (bs : List Byte) : Option Carry :=
  match op with
  | .vscan .. => some (.scan (.bits (numAt bs 0 8)) (numAt bs 8 1 == 1))
  | .vexpd .. => some (.expand (numAt bs 0 8))
  | .vcmpr .. => some (.compress (numAt bs 0 8) (numAt bs 8 8))
  | .kmsk .. => some (.first (numAt bs 0 1 % 2 == 1))
  | _ => none

/-- A record of the PASS section. -/
def passRecord (seq : Word32) (data : List Byte) : List Byte := leBytes seq.toNat 4 ++ leBytes data.length 4 ++ padTo 8 data

/-- The records of a PASS section: sequence number and data. -/
def parseRecords : Nat → List Byte → List (Word32 × List Byte)
  | 0, _ => []
  | n + 1, bs =>
    let len := numAt bs 4 4
    (BitVec.ofNat 32 (numAt bs 0 4), (bs.drop 8).take len) :: parseRecords n (bs.drop (8 + (len + 7) / 8 * 8))

/-- The records of carries. -/
def carryRecords (b : List (Nat × Entry)) (cs : List (Nat × Carry)) : List (List Byte) :=
  cs.filterMap fun x => (broodEntry b x.1).bind fun e => (e.carryBytes x.2).map fun d => passRecord e.seq d

/-- A PASS section: its kind, the stage, the sinks and the records. -/
def passSection (kind stage : Nat) (sinks : List Entry) (recs : List (List Byte)) : List Byte :=
  let seq (i : Nat) : Nat := match sinks[i]? with | some x => x.seq.toNat | none => 0xFFFFFFFF
  leBytes kind 1 ++ leBytes sinks.length 1 ++ leBytes stage 2 ++ leBytes recs.length 4 ++
    (List.range 4).flatMap (fun i => leBytes (seq i) 4) ++ zeros 8 ++ recs.flatten

/-- The PASS section of a context: of its stopped pass, or of a step stopped part-way. -/
def Ctx.passBytes (c : Ctx) : List Byte :=
  match c.stopped, c.resume with
  | some r, _ =>
    let sinks := r.slots
    let parts := sinks.filterMap fun x => (c.a.partBytes x.2 (partGet x.2 r.parts x.1)).map fun d => passRecord x.2.seq d
    passSection (if sinks.isEmpty then 1 else 0) (r.done_ + r.stage) (sinks.map fun x => x.2)
      (parts ++ carryRecords r.view.brood r.carries)
  | none, some x => passSection 1 x.stage [] (carryRecords c.a.brood x.carries)
  | none, none => passSection 2 0 [] []

/-! ## Saving -/

/-- Every handle of a view, in order; k0, which names no entry and no cell, is kind 0 as 20 R385 has it. -/
def Arch.handlesBytes (a : Arch) : List Byte :=
  (List.range 128).flatMap (fun v => a.handleBytes v (a.vhandle (BitVec.ofNat 7 v))) ++
    zeros 16 ++ (List.range 15).flatMap fun k => a.handleBytes 0 (a.khandle (BitVec.ofNat 4 (k + 1)))

/-- The BROOD section. -/
def Arch.broodBytes (a : Arch) : List Byte :=
  leBytes ((a.brood.map fun e => 2 ^ e.1).sum) 32 ++ a.brood.flatMap fun e => a.entryBytes e.2

/-- The STREAMS section: none without a stream. A format that is not decided yet is 0xFF, as in a SOURCE (DESIGN CHOICE, assumption log
120). -/
def Arch.streamBytes (a : Arch) : List Byte :=
  a.vh.flatMap fun e => match e.2 with
    | .stream t =>
      leBytes e.1 1 ++ leBytes (if t.decided.isSome then t.fmt.code else 0xFF) 1 ++ zeros 6 ++ leBytes t.base.toNat 8 ++
        leBytes t.stride.toNat 8 ++ leBytes t.shape.toNat 8 ++ leBytes t.rowStride.toNat 8 ++ leBytes t.consumed 8 ++ zeros 16
    | _ => []

/-- A BANK section (11 R268). -/
def Bank.bytes_ (b : Bank) (n : Nat) : List Byte :=
  leBytes n 1 ++ leBytes (bitOf b.dirty) 1 ++ zeros 6 ++
    (if b.dirty then Sparse.getRun 0 b.bytes 0 4096 ++ leBytes b.valid.toNat 32 ++ leBytes b.poison.toNat 64 else [])

/-- Poison bits of the pairs from p on that hold n words, packed. -/
def Cov.poisonBits (c : Cov) (p n : Nat) : List Byte := packBits ((List.range ((n + 1) / 2)).map fun i => c.poison.contains (p + i))

/-- A COV section (13 R313). -/
def Cov.bytes_ (c : Cov) (j : Nat) : List Byte :=
  let words (at_ : Nat) : List Byte := (Sparse.getRun 0 c.words at_ c.n).flatMap fun w => leBytes w.toNat 4
  leBytes j 1 ++ leBytes (bitOf c.wt) 1 ++ zeros 2 ++ leBytes c.n 4 ++ leBytes c.gb.toNat 8 ++ zeros 16 ++ words 0 ++
    (if c.wt then words 8192 else []) ++ c.poisonBits 0 c.n ++ (if c.wt then c.poisonBits 4096 c.n else [])

/-- The sections of the moving context's snapshot. -/
def State.sections (s : State) : List (Nat × List Byte) :=
  let c := s.me
  let a := c.a
  let k := s.myCore
  let opt (n : Nat) (bs : List Byte) : List (Nat × List Byte) := if bs.isEmpty then [] else [(n, bs)]
  let ctx := leBytes a.pc.toNat 8 ++ leBytes a.seq.toNat 8 ++ csrOrder.flatMap fun n => leBytes (a.csr.get n).toNat 8
  let scalar := ((List.range 512).flatMap fun p => leBytes (Sparse.get 0 a.regs p).toNat 8) ++ leBytes a.dead.toNat 64
  let comb := if k.combOwner = some c.pos then
      (Sparse.getRun 0 k.tiles 0 16384).flatMap (fun w => leBytes w.toNat 4) ++ leBytes a.csr.mvl.toNat 8 ++
        leBytes (s.die c.die).mvlcap 8
    else []
  let bind := (k.binds.filter fun b => b.ctx == c.id).flatMap fun b =>
    leBytes b.obj.toNat 8 ++ leBytes b.base.toNat 8 ++ leBytes b.len.toNat 8 ++ zeros 8
  let service := match c.service with
    | none => []
    | some v =>
      leBytes v.token.toNat 4 ++ leBytes v.kind.code 1 ++
        leBytes (match v.answer with | none => 0 | some true => 1 | some false => 2) 1 ++ zeros 2 ++ leBytes v.va.toNat 8 ++
        leBytes v.cause.toNat 8 ++ zeros 40
  [(1, ctx), (2, scalar), (3, a.handlesBytes), (4, a.broodBytes)] ++
    (if c.stopped.isSome || c.resume.isSome || a.csr.mprogAct then [(5, c.passBytes)] else []) ++ opt 6 comb ++ opt 7 a.streamBytes ++
    ((List.range 16).filter fun b => ownedBy k.cbown b c.pos).map (fun b => (8, (s.bank b).bytes_ b)) ++
    ((List.range 2).filter fun j => ownedBy k.cvown j c.pos).map (fun j => (9, (s.cov j).bytes_ j)) ++
    opt 10 ((List.range 64).flatMap fun l => Sparse.getRun 0 k.lpriv (16384 * l + 4096 * c.pos) c.lpriv) ++
    opt 11 bind ++ opt 12 service

/-- Directory entries and section bytes, from an offset on. -/
def layOut : Nat → List (Nat × List Byte) → List Byte × List Byte
  | _, [] => ([], [])
  | off, (t, bs) :: r =>
    let rest := layOut (off + (bs.length + 63) / 64 * 64) r
    (leBytes t 2 ++ zeros 6 ++ leBytes off 4 ++ leBytes bs.length 4 ++ rest.1, padTo 64 bs ++ rest.2)

/-- A snapshot of the moving context (19 R378). -/
def State.snapshot (s : State) (tag : Word) : List Byte :=
  let secs := s.sections
  let dirLen := (16 * secs.length + 63) / 64 * 64
  let body := layOut (64 + dirLen) secs
  let total := 64 + dirLen + body.2.length
  leBytes 0x4E535A42 4 ++ leBytes 0x0100 2 ++ leBytes secs.length 2 ++ leBytes total 8 ++ leBytes s.me.launch 4 ++
    leBytes s.me.index 4 ++ leBytes s.me.id 2 ++ leBytes s.me.a.csr.tenant 1 ++ zeros 5 ++ leBytes tag.toNat 8 ++ zeros 24 ++
    padTo 64 body.1 ++ body.2

/-- The 8-byte words of a snapshot that hold poison of the context's lane-private window, by their number (19 R382). -/
def State.snapshotPoison (s : State) (snap : List Byte) : List Nat :=
  match ((List.range (numAt snap 6 2)).map fun i => 64 + 16 * i).find? fun o => numAt snap o 2 == 10 with
  | none => []
  | some o =>
    let off := numAt snap (o + 8) 4
    (List.range 64).flatMap fun l => (List.range (s.me.lpriv / 8)).filterMap fun w =>
      if s.myCore.lprivPoison.contains ((16384 * l + 4096 * s.me.pos) / 8 + w) then some ((off + l * s.me.lpriv) / 8 + w) else none

/-! ## Restoring -/

/-- The sections of a snapshot: type and bytes. -/
def parseSections (snap : List Byte) : List (Nat × List Byte) :=
  (List.range (numAt snap 6 2)).map fun i =>
    let o := 64 + 16 * i
    (numAt snap o 2, (snap.drop (numAt snap (o + 8) 4)).take (numAt snap (o + 12) 4))

/-- The first section of a type. -/
def sectionOf (secs : List (Nat × List Byte)) (t : Nat) : List Byte := match secs.find? fun x => x.1 == t with | some x => x.2 | none => []

/-- Every section of a type. -/
def sectionsOf (secs : List (Nat × List Byte)) (t : Nat) : List (List Byte) := (secs.filter fun x => x.1 == t).map fun x => x.2

/-- A map of words from a list, the first at key 0. -/
def sparseOf {α : Type} [DecidableEq α] (d : α) (vs : List α) : List (Nat × α) :=
  ((List.range vs.length).filterMap fun i => match vs[i]? with | some v => if v = d then none else some (i, v) | none => none)

/-- The streams of a STREAMS section: handle number and pattern. -/
def State.parseStreams (s : State) (bs : List Byte) : List (Nat × Stream) :=
  (List.range (bs.length / 64)).map fun i =>
    let x := (bs.drop (64 * i)).take 64
    (numAt x 0 1, { uid := i, base := wordAt x 8, stride := wordAt x 16, shape := wordAt x 24, rowStride := wordAt x 32,
                    decided := s.decidedAt (wordAt x 8) (numAt x 1 1) ((Fmt.ofCode (field (wordAt x 24) 32 5)).getD .f32) 0,
                    consumed := numAt x 40 8 })

/-- A handle from its reference. -/
def parseHandle (streams : List (Nat × Stream)) (v : Nat) (bs : List Byte) : Handle :=
  match (parseRef bs).ref with
  | .node n => .node n
  | .cell c => .cell c
  | .stream _ => (match streams.find? fun t => t.1 == v with | some t => .stream t.2 | none => .empty)
  | _ => .empty

/-- The cells that the references of a view name, as the allocation that they stand for (19 R378). -/
def Arch.rebuildCells (a : Arch) : Arch :=
  let used := a.handles.filterMap Handle.cell? ++ a.brood.flatMap fun e => e.2.cells
  { a with cells := used.foldl (fun m c => if c.len = 0 then m else Sparse.set 0 m c.addr.toNat (cellBytes c.len c.fmt c.eg)) [] }

/-- The registers of a snapshot. The moving context has the tenant and the mode of its new placement. -/
def State.parseArch (s : State) (secs : List (Nat × List Byte)) : Arch :=
  let ctx := sectionOf secs 1
  let sc := sectionOf secs 2
  let hs := sectionOf secs 3
  let br := sectionOf secs 4
  let csr := (List.range csrOrder.length).foldl (fun c i =>
    match csrOrder[i]? with | some n => c.restore n (wordAt ctx (16 + 8 * i)) | none => c) s.me.a.csr
  let s := s.setCsr fun _ => csr
  let streams := s.parseStreams (sectionOf secs 7)
  let bitmap := numAt br 0 32
  let ns := (List.range 256).filter fun n => bitmap.testBit n
  let brood := (List.range ns.length).filterMap fun i =>
    match ns[i]?, s.parseEntry ((br.drop (32 + 192 * i)).take 192) with
    | some n, some e => some (n, e)
    | _, _ => none
  let a : Arch :=
    { pc := wordAt ctx 0, rep := none, regs := sparseOf 0 ((List.range 512).map fun p => wordAt sc (8 * p)),
      dead := BitVec.ofNat 512 (numAt sc 4096 64),
      vh := sparseOf .empty ((List.range 128).map fun v => parseHandle streams v ((hs.drop (16 * v)).take 16)),
      kh := sparseOf .empty (.empty :: (List.range 15).map fun k => parseHandle [] 0 ((hs.drop (16 * (129 + k))).take 16)),
      csr := csr, brood := brood, seq := BitVec.ofNat 32 (numAt ctx 8 8), cells := [] }
  a.rebuildCells

/-- How a sink of a stopped pass issued: its store footprint and its guards (02 R69). -/
def State.sinkForm (s : State) (e : Entry) : SinkForm :=
  let t := (s.die s.me.die).tenant s.me.a.csr.tenant
  let p := e.source.bind fun x => x.decided
  let none_ : SinkForm := { joins := false, resync := true, store := [], guards := [], aligned := fun _ => true, fills := none }
  match e.op with
  | .vst .. | .vsts .. =>
    let fp := storeRanges t e.val.toNat e.str.toInt e.len e.fmt e.eg p
    { none_ with store := fp, guards := s.guarded fp, aligned := alignedCase e.fmt e.eg e.val e.str.toInt e.len p }
  | .vstx .. =>
    let fp := indexedRanges t e.val.toNat (s.indexPositions e) e.fmt e.eg p
    { none_ with store := fp, guards := s.guarded fp, aligned := fun _ => false }
  | _ => none_

/-- The sinks of a restored table decide their formats from the pages that stand now: no snapshot holds them (03 R434; DESIGN
CHOICE, assumption log 94). -/
def State.decideSinks (s : State) : State :=
  s.setArch fun a => { a with brood := a.brood.map fun x =>
    let d : Option PageAttr := match x.2.op with
      | .vst .. | .vsts .. => s.probe x.2.val .write
      | .vstx .. => s.probeIndexed x.2 .write
      | .vldx .. => s.probeIndexed x.2 .read
      | _ => none
    if x.2.kind = .sink then (x.1, { x.2 with source := x.2.source.map fun y => { y with decided := d } }) else x }

/-- The machine as the instruction of a stopped pass found it: PC, and the rep whose repeat it is. -/
def State.atStopped (s : State) : State :=
  let pc := if s.me.a.csr.sup then s.me.a.csr.epc else s.me.a.pc
  let rep : Option Repeat :=
    if s.me.a.csr.repAct then (s.peek pc).bind fun w => match decode w with
      | .ok (.rep st n fm) => some { count := n.toNat + 1, st := st, fm := fm }
      | _ => none
    else none
  s.setArch fun a => { a with pc := pc, rep := rep }

/-- The stages that a stopped pass has still to run, from the nodes that their references are: of its one sink, or of the node
that it materialises; with the view and the sink that read their cells (02 R69). -/
def State.replan (s : State) (sinks : List Nat) (node : Option Nat) : Option (List Stage × Arch) :=
  let a := s.me.a.countCells
  match sinks, node with
  | [n], _ => (broodEntry a.brood n).bind fun e =>
      (a.planSink ((s.die s.me.die).tenant a.csr.tenant) e (s.atStopped.sinkForm e)).map fun p =>
        (p.1, s.me.a.keepCount (Arch.setEntry n (fun _ => p.2.1) p.2.2))
  | [], some n => (a.stagesFor [n]).map fun p => (p.1, s.me.a.keepCount p.2)
  | _, _ => some ([], s.me.a)

/-- The index of the last element of an exact sum that a snapshot holds: the last committed one that is active now; where that
cannot be read, nothing says (DEDUCED, assumption log 85). -/
def State.lastActive (s : State) (b : List (Nat × Entry)) (e : Entry) (cur : Nat) : Word :=
  let nodes := ((s.me.a.oldestFirst (reached b (e.mask.ref.node?).toList)).reverse).filterMap fun n =>
    (broodEntry b n).map fun x => (n, x)
  let g : Stg := { s := s, brood := b, len := e.len, at_ := 0, carries := [] }
  let at_ (k : Nat) : Nat := cur - 1 - k
  match (List.range cur).find? fun k => (g.active e (g.row nodes (at_ k)) (at_ k)).1 with
  | some k => e.index (at_ k)
  | none => Config.freeWord s.freeCtr

/-- The stopped sink pass of a snapshot: its sinks, their partial states and carries, and the stages that it plans again
(02 R67, R69). Its age at the core is 0, the oldest (DESIGN CHOICE, assumption log 116). -/
def State.parseSinks (s : State) (bs : List Byte) (carries : List (Nat × Carry)) : State :=
  let c := s.me.a.csr
  let seqs := (List.range (min 4 (numAt bs 1 1))).map fun i => BitVec.ofNat 32 (numAt bs (8 + 4 * i) 4)
  let ns := seqs.filterMap fun q => (s.me.a.brood.find? fun e => e.2.kind == .sink && e.2.seq == q).map fun e => e.1
  match s.replan ns none with
  | none => s
  | some (sts, a) =>
    let t := (s.die s.me.die).tenant c.tenant
    let items : List Pend := ns.filterMap fun n => (broodEntry a.brood n).map fun e =>
      { implicit := false, entry := n, no := 0, pc := a.pc, repc := none, stages := sts, store := (s.atStopped.sinkForm e).store,
        loads := a.passLoads t e sts, epoch := 0, joins := false, resync := true, age := 0, before := a, after := a }
    let r : Run :=
      { items := items, stage := 0, cur := 0, strips := [], carries := carries, parts := [], waits := 0, waitsOn := 0, mustCommit := none,
        done_ := numAt bs 2 2, num := field c.strip 0 25, traced := [] }
    let w := r.work
    let cur := min (c.faultel - w.elbase).toNat w.len
    let recs := parseRecords (numAt bs 4 4) (bs.drop 32)
    let parts := ns.filterMap fun n => (broodEntry a.brood n).bind fun e => (recs.find? fun x => x.1 == e.seq).map fun d =>
      (n, a.parsePart e (s.lastActive a.brood e cur) d.2)
    if items.isEmpty then s
    else
      let a := { s.me.a with cells := a.cells }
      { s.draw with me := { s.me with a := a, stopped := some { r with cur := cur, parts := parts } } }

/-- The stopped pass of a snapshot. A materialisation is planned again by the instruction that required it (02 R68, R69). -/
def State.parseRun (s : State) (bs : List Byte) : State :=
  if bs.isEmpty || !s.me.a.csr.stripPend then s
  else
    let recs := parseRecords (numAt bs 4 4) (bs.drop 32)
    let carries := s.me.a.brood.filterMap fun e =>
      ((recs.find? fun r => r.1 == e.2.seq).bind fun d => parseCarry e.2.op d.2).map fun c => (e.1, c)
    match numAt bs 0 1 with
    | 0 => s.parseSinks bs carries
    | 1 =>
      let c := s.me.a.csr
      let x : Resume := { stage := numAt bs 2 2, num := field c.strip 0 25, faultel := c.faultel, carries := carries, due := none, strip := c.strip, el := c.faultel }
      { s with me := { s.me with resume := some x } }
    | _ => s

/-- Where a restore is to place the cell of the stage in which the pass of the moving context has stopped; none where that
stage holds nothing yet. -/
def State.replaced (s : State) : Option (CellRef × CellRef) :=
  s.me.stopped.bind fun r => match r.left with
    | [] => none
    | st :: _ =>
      let s := s.setArch Arch.rebuildCells
      if r.cur = 0 then none
      else (s.replan (r.slots.map fun x => x.1) (r.left.getLast?.map fun t => t.node)).bind fun p =>
        p.1.head?.map fun t => (st.cell, t.cell)

/-- The elements that a stopped stage has committed stand where a restore places its cell: the layout names no address for it
(19 R378; DESIGN CHOICE, assumption log 14). -/
def State.moveStage (s : State) : State :=
  match s.replaced with
  | none => s
  | some (old, new) =>
    if old.addr = new.addr then s
    else (List.range (cellBytes old.len old.fmt old.eg / 64)).foldl (fun s i =>
      match s.translate s.me (old.addr.toNat + 64 * i) .read, s.translate s.me (new.addr.toNat + 64 * i) .write with
      | .ok x, .ok y => s.performLogged s.me y.pa (s.readHome s.me x.pa 64) false
      | _, _ => s) s

/-- The units of the core as a snapshot sets them for the moving context's placement (11 R268, 12 R295, 13 R313, 10 R237). -/
def State.restoreUnits (s : State) (secs : List (Nat × List Byte)) (lprivPoison : List Nat) : State :=
  let pos := s.me.pos
  let comb := sectionOf secs 6
  let lp := sectionOf secs 10
  let bd := sectionOf secs 11
  let s := s.setMyCore fun k =>
    { k with
      combOwner := if comb.isEmpty then k.combOwner else some pos,
      tiles := if comb.isEmpty then k.tiles else sparseOf 0 ((List.range 16384).map fun i => BitVec.ofNat 32 (numAt comb (4 * i) 4)),
      binds := k.binds ++ (List.range (bd.length / 32)).map fun i =>
        { ctx := s.me.id, obj := wordAt bd (32 * i), base := wordAt bd (32 * i + 8), len := wordAt bd (32 * i + 16) } }
  let s := (sectionsOf secs 8).foldl (fun s b =>
    let n := numAt b 0 1 % 16
    let s := s.setMyCore fun k => { k with cbown := setField k.cbown (3 * n) 3 (4 + pos) }
    s.setBank n fun _ =>
      if numAt b 1 1 = 1 then
        { bytes := sparseOf 0 ((b.drop 8).take 4096), valid := BitVec.ofNat 256 (numAt b 4104 32),
          poison := BitVec.ofNat 512 (numAt b 4136 64), dirty := true }
      else Bank.reset) s
  let s := (sectionsOf secs 9).foldl (fun s b =>
    let j := numAt b 0 1 % 2
    let wt := numAt b 1 1 == 1
    let n := numAt b 4 4
    let words (off : Nat) : List (Nat × Word32) := sparseOf 0 ((List.range n).map fun i => BitVec.ofNat 32 (numAt b (off + 4 * i) 4))
    let pb := 32 + (if wt then 8 * n else 4 * n)
    let bits (off p : Nat) : List Nat := ((List.range ((n + 1) / 2)).filter fun i => (numAt b (off + i / 8) 1).testBit (i % 8)).map fun i => p + i
    let s := s.setMyCore fun k => { k with cvown := setField k.cvown (3 * j) 3 (4 + pos) }
    s.setCov j fun _ =>
      { words := words 32 ++ (if wt then (words (32 + 4 * n)).map fun e => (8192 + e.1, e.2) else []), n := n, wt := wt,
        gb := wordAt b 8,
        poison := bits pb 0 ++ (if wt then bits (pb + ((n + 1) / 2 + 7) / 8) 4096 else []) }) s
  let w := lp.length / 64
  s.setMyCore fun k => (List.range 64).foldl (fun k l =>
    { k with lpriv := Sparse.setRun 0 k.lpriv (16384 * l + 4096 * pos) ((lp.drop (l * w)).take w),
             lprivPoison := ((List.range (w / 8)).filter fun i => lprivPoison.contains (l * w / 8 + i)).foldl
               (fun p i => insertNat ((16384 * l + 4096 * pos) / 8 + i) p)
               (writePoison k.lprivPoison (16384 * l + 4096 * pos) w false) }) k

/-- The service request of a snapshot (22 R430). -/
def parseService (bs : List Byte) : Option Service :=
  if bs.isEmpty then none
  else some
    { token := BitVec.ofNat 32 (numAt bs 0 4),
      kind := match numAt bs 4 1 with | 0 => .read | 1 => .write | 2 => .fetch | _ => .atomic,
      answer := match numAt bs 5 1 with | 0 => none | 1 => some true | _ => some false,
      va := wordAt bs 8, cause := wordAt bs 16 }

end Sys2Proof.Machine
end

