-- ==== Sys2Proof/Machine/Die.lean ====
section
/-!
DEFINITION. The die (19): launches, their placement and their end (R355 to R361), freezes and restores (02 R71, R376 to R379),
tenants and their teardown (R353, R354), and what stops a die (R383, 21 R404).
-/

namespace Sys2Proof.Machine

/-! ## Kernel records (19 R356, R357) -/

/-- A kernel record from its bytes. -/
def parseKernel (bs : List Byte) : KernelRecord :=
  { entry := wordAt bs 0, argp := wordAt bs 8, cellb := wordAt bs 16, cells := wordAt bs 24, qset := wordAt bs 32,
    spill := wordAt bs 40, cbreq := wordAt bs 48, covreq := numAt bs 56 1, ctx := numAt bs 57 1, prio := numAt bs 58 1,
    mode := numAt bs 59 1, lpriv := numAt bs 60 2, tag := wordAt bs 64, snap := wordAt bs 72, nsnap := numAt bs 80 4,
    frzs := numAt bs 84 4, frzb := wordAt bs 88 }

/-- KIND: a restore. -/
def KernelRecord.restores (k : KernelRecord) : Bool := k.mode.testBit 1

/-- The quads of a launch, in order. -/
def KernelRecord.quads (k : KernelRecord) : List Nat := (List.range 36).filter fun q => bit k.qset q

/-- A field out of range, misaligned or reserved, or a TAG that does not name the die (code 2). A reserved field that is not zero is
refused, as R357 says for records, where 00 R7 has reserved fields ignored (DEDUCED, assumption log 101). -/
def badKernel (die : Nat) (k : KernelRecord) (bs : List Byte) : Bool :=
  !canonical k.entry || k.entry.toNat % 4 != 0 || k.cellb.toNat % 4096 != 0 || k.cells.toNat % 4096 != 0 ||
    decide (2 ^ 40 < k.cells.toNat) || decide (2 ^ 36 ≤ k.qset.toNat) || k.ctx == 0 || decide (4 < k.ctx) || decide (3 < k.prio) ||
    decide (4 ≤ k.mode) || k.lpriv % 64 != 0 || decide (16384 < k.lpriv) || numAt bs 62 2 != 0 ||
    (!k.restores && k.snap != 0) || k.frzs % 4096 != 0 || numAt bs 96 32 != 0 ||
    (field k.tag 60 4 != 0 && !bit k.tag (60 + die))

/-- The ascending choices of n of a list, in lexicographic order. -/
def choices : Nat → List Nat → List (List Nat)
  | 0, _ => [[]]
  | _ + 1, [] => []
  | n + 1, x :: r => (choices n r).map (fun c => x :: c) ++ choices (n + 1) r

/-- Two lane-private windows of a size overlap (10 R237). -/
def windowsOverlap (p n q m : Nat) : Bool := decide (0 < n) && decide (0 < m) && spansOverlap (4096 * p) n (4096 * q) m

/-- Positions whose windows end within 16 KiB and are apart (19 R358). -/
def windowsFit (lpriv : Nat) (ps : List Nat) : Bool :=
  (ps.all fun p => decide (4096 * p + lpriv ≤ 16384)) && ps.all fun p => ps.all fun q => p == q || !windowsOverlap p lpriv q lpriv

/-- The request masks of two positions overlap. -/
def masksClash (k : KernelRecord) : Bool :=
  (List.range k.ctx).any fun i => (List.range k.ctx).any fun j => i != j &&
    (field k.cbreq (16 * i) 16 &&& field k.cbreq (16 * j) 16 != 0 || (k.covreq / 4 ^ i % 4) &&& (k.covreq / 4 ^ j % 4) != 0)

/-- The snapshot addresses of a restore. -/
def KernelRecord.images (k : KernelRecord) : List Nat :=
  if k.restores then (List.range k.nsnap).map fun i => k.snap.toNat + i * k.frzs else []

/-- Bytes at their home in a tenant's plaintext (22 R433). -/
def State.homeFor (s : State) (tenant pa n : Nat) : List Byte := (List.range n).map fun i => s.plain tenant (pa + i)

/-- A snapshot whose header is good for a tenant (19 R379). -/
def State.goodSnapshot (s : State) (tenant pa : Nat) : Bool :=
  let h := s.homeFor tenant pa 64
  numAt h 0 4 == 0x4E535A42 && numAt h 4 2 == 0x0100 && numAt h 26 1 == tenant &&
    decide (64 + 16 * numAt h 6 2 ≤ numAt h 8 8)

/-- A context that a launch is to place: index, core, and what it asks of the core. -/
structure Seat where
  index : Nat
  core : Nat
  banks : Nat
  covs : Nat
  comb : Bool
  image : Option Nat
  deriving DecidableEq, Repr

/-- Two seats of one core want one unit. -/
def Seat.clashes (x y : Seat) : Bool :=
  x.index != y.index && x.core == y.core && ((x.banks &&& y.banks) != 0 || (x.covs &&& y.covs) != 0 || x.comb && y.comb)

/-- A snapshot's bytes. -/
def State.snapshotAt (s : State) (tenant pa : Nat) : List Byte := s.homeFor tenant pa (numAt (s.homeFor tenant pa 64) 8 8)

/-- The core of an index: its quad's rank in QSET, and QPOS. -/
def Launch.coreOf (l : Launch) (die index : Nat) : Nat :=
  144 * die + 4 * (l.kernel.quads[index / (4 * l.kernel.ctx)]?).getD 0 + index / l.kernel.ctx % 4

/-- The contexts that a launch places. -/
def State.seats (s : State) (die : Nat) (l : Launch) : List Seat :=
  let k := l.kernel
  if l.images.isEmpty && !k.restores && l.state != .frozen then
    (List.range (k.quads.length * 4 * k.ctx)).map fun i =>
      let j := i % k.ctx
      { index := i, core := l.coreOf die i, banks := field k.cbreq (16 * j) 16, covs := k.covreq / 4 ^ j % 4, comb := false, image := none }
  else l.images.map fun pa =>
    let snap := s.snapshotAt l.tenant pa
    let secs := parseSections snap
    let index := numAt snap 20 4
    { index := index, core := l.coreOf die index,
      banks := ((sectionsOf secs 8).map fun b => 2 ^ (numAt b 0 1 % 16)).foldl (fun m b => m ||| b) 0,
      covs := ((sectionsOf secs 9).map fun b => 2 ^ (numAt b 0 1 % 2)).foldl (fun m b => m ||| b) 0,
      comb := !(sectionOf secs 6).isEmpty, image := some pa }

/-! ## Messages to the nurse (19 R355, 22 R417, R418, R432) -/

/-- Fields of a message. -/
def messageType (msg : List Byte) : Nat := numAt msg 0 1
@[inherit_doc messageType] def messageSeq (msg : List Byte) : Word32 := BitVec.ofNat 32 (numAt msg 4 4)
@[inherit_doc messageType] def messageP0 (msg : List Byte) : Word := wordAt msg 8
@[inherit_doc messageType] def messageP1 (msg : List Byte) : Word := wordAt msg 16

/-- A NAK: a refusal code in 8 bytes (22 R418; DESIGN CHOICE, assumption log 11). -/
def State.nak (s : State) (die tenant : Nat) (msg : List Byte) (code : Nat) : State :=
  s.sendEvent die tenant 0x86 (messageSeq msg) (leBytes code 8)

/-- The tenant has an endpoint on a die that runs, and the message has its 256 bytes. -/
def State.endpoint (s : State) (die tenant : Nat) (msg : List Byte) : Bool :=
  !(s.die die).inReset && !(s.die die).lost && ((s.die die).tenant tenant).valid && msg.length == 256

/-- Who acts for a tenant on a die where no context does: its accesses translate through the tenant's tables. -/
def tenantAgent (die tenant : Nat) : Ctx :=
  let c := Ctx.vacant (1024 * die)
  { c with a := { c.a with csr := { c.a.csr with status := word (256 * tenant) } } }

/-- The lowest slot of an inbox that no message holds. -/
def Die.freeSlot (d : Die) (tenant : Nat) : Option Nat :=
  (List.range 64).find? fun k => !d.inbox.any fun m => m.tenant == tenant && m.slot == k

/-- SRAM or DRAM of this package. -/
def inMemory (pa : Nat) : Bool :=
  match region pa with
  | .dram _ | .sram _ _ => true
  | .nurse _ | .pod | .nothing => false

/-- Where a run of a tenant's virtual addresses stands, if its pages map one contiguous range of memory that is readable and writable
(R417). -/
def State.contiguous (s : State) (c : Ctx) (va n : Nat) : Option Nat :=
  let place (a : Nat) : Option Nat :=
    match s.translate c a .read, s.translate c a .write with
    | .ok x, .ok y => if x.pa = y.pa ∧ inMemory x.pa = true then some x.pa else none
    | _, _ => none
  match place va with
  | none => none
  | some base => if (pagePieces va n).all fun p => place p.1 == some (base + (p.1 + 2 ^ 64 - va) % 2 ^ 64) then some base else none

/-- Bytes of a tenant's code from a virtual address, as the firmware reads them; none where a page is not mapped. -/
def State.codeBytes (s : State) (die tenant va n : Nat) : Option (List Byte) :=
  (pagePieces va n).foldl (fun r p =>
    match r, s.translate (tenantAgent die tenant) p.1 .fetch with
    | some bs, .ok x => if region x.pa = .pod then (s.podRead (tenantAgent die tenant) p.1 x.pa p.2).map fun cs => bs ++ cs
        else some (bs ++ s.homeFor tenant x.pa p.2)
    | _, _ => none) (some [])

/-- Bytes with others in their place from an offset on. -/
def patch (bs : List Byte) (at_ : Nat) (new : List Byte) : List Byte := bs.take at_ ++ new ++ bs.drop (at_ + new.length)

/-- The kernel record that the firmware makes from the BODY of a LAUNCH: SNAP of a restore, and FRZB where FRZS is not 0, are the physical
addresses at which their slots stand; none where the slots are not contiguous memory, readable and writable (R417; the slots of one
array stand one behind the other: DESIGN CHOICE, assumption log 126). -/
def State.launchRecord (s : State) (die tenant : Nat) (body : List Byte) : Option (List Byte) :=
  let k := parseKernel body
  let place (use : Bool) (at_ : Nat) (va : Word) (slots : Nat) (bs : List Byte) : Option (List Byte) :=
    if use then (s.contiguous (tenantAgent die tenant) va.toNat (slots * k.frzs)).map fun pa => patch bs at_ (leBytes pa 8) else some bs
  (place k.restores 72 k.snap k.nsnap body).bind fun bs => place (k.frzs != 0) 88 k.frzb (k.quads.length * 4 * k.ctx) bs

/-- The digest of a checked image joins those of the last 16 (R432). -/
def State.checkedImage (s : State) (die tenant : Nat) (digest : BitVec 256) : State :=
  s.setDie die fun x => x.setTenant tenant fun r => { r with images := (r.images ++ [digest]).drop (r.images.length - 15) }

/-- A message stands with the firmware until it has been acted on or answered. -/
def State.keepMessage (s : State) (die tenant : Nat) (msg record : List Byte) : State :=
  s.setDie die fun x => { x with taken := x.taken ++ [{ tenant := tenant, msg := msg, record := record }] }

/-- A message that has been taken is this one. -/
def TakenMessage.of (m : TakenMessage) (tenant : Nat) (msg : List Byte) : Bool := m.tenant == tenant && m.msg == msg

/-- What the firmware does with a LAUNCH that it takes: it makes the kernel record, and slots that are not mapped as R417 asks are refused
with code 2; where the tenant has an image key, the digest of the code is computed and the signature checked, and a failure is
refused with code 6 (R432); the launch instruction answers the rest (DESIGN CHOICE, assumption log 58). -/
def State.receiveLaunch (s : State) (die tenant : Nat) (msg : List Byte) : State :=
  let body := (msg.drop 64).take 128
  let k := parseKernel body
  match s.launchRecord die tenant body with
  | none => s.nak die tenant msg 2
  | some record =>
    match ((s.die die).tenant tenant).imageKey with
    | none => s.keepMessage die tenant msg record
    | some key =>
      match s.codeBytes die tenant k.entry.toNat (messageP0 msg).toNat with
      | none => s.nak die tenant msg 6
      | some code =>
        if Config.verifies key (Config.digest code) ((msg.drop 192).take 64) then
          (s.checkedImage die tenant (Config.digest code)).keepMessage die tenant msg record
        else s.nak die tenant msg 6

/-- What the firmware does with a message that it takes: an unknown TYPE is refused with code 6 (R418). -/
def State.receive (s : State) (die tenant : Nat) (msg : List Byte) : State :=
  if messageType msg = 1 then s.receiveLaunch die tenant msg
  else if ([2, 3, 4, 5] : List Nat).contains (messageType msg) then s.keepMessage die tenant msg []
  else s.nak die tenant msg 6

/-- The tenants in rotation from the one after t, or from tenant 0. -/
def rotation (last : Option Nat) : List Nat :=
  (List.range 16).map fun i => match last with | some t => (t + 1 + i) % 16 | none => i

/-- lwait: the oldest message of the first tenant in rotation that has one, which the firmware then acts on; with none it waits
(R355). -/
def execLwait (d a : SReg) (s : State) : Res :=
  s.nurseOnly fun s => s.reading [a] fun s =>
    let die := s.die s.me.die
    let mask := field (s.reg a) 0 16
    let has (t : Nat) : Bool := mask.testBit t && die.inbox.any fun m => m.tenant == t
    match (rotation die.lastTaken).find? has with
    | none => .next s
    | some t =>
      match die.inbox.find? fun m => m.tenant == t with
      | none => .next s
      | some m =>
        let s := s.setDie s.me.die fun x => { x with inbox := x.inbox.erase m, lastTaken := some t }
        let s := s.setReg d (((die.tenant t).inbox + word (256 * m.slot)) ||| word t)
        .next ((s.acquire .die none).receive s.me.die t (s.home ((die.tenant t).inbox.toNat + 256 * m.slot) 256)).apart.retire


/-- A launch as it is queued. -/
def newLaunch (seq tenant : Nat) (k : KernelRecord) : Launch :=
  { seq := seq, tenant := tenant, kernel := k, state := .waiting, ctxs := [], members := [], images := k.images, fault := none,
    rserr := 0, freezing := none, old := [] }

/-- Two contexts of a restore whose snapshots name one unit of one core, so that no placement takes both (R357, R379). -/
def State.imagesClash (s : State) (die tenant : Nat) (k : KernelRecord) : Bool :=
  let seats := if k.restores then s.seats die { newLaunch 0 tenant k with images := k.images.filter fun pa => s.goodSnapshot tenant pa } else []
  seats.any fun x => seats.any fun y => x.clashes y

/-- The refusal code of a record, the lowest that applies (19 R357). -/
def State.refusal (s : State) (die tenant : Nat) (k : KernelRecord) (bs : List Byte) : Option Nat :=
  let t := (s.die die).tenant tenant
  if !t.valid || k.quads.isEmpty || k.quads.any fun q => !bit t.quads q then some 1
  else if badKernel die k bs then some 2
  else if ((choices k.ctx [0, 1, 2, 3]).any (windowsFit k.lpriv)) = false ∨ (masksClash k || s.imagesClash die tenant k) = true then some 3
  else if k.images.any fun pa => !s.goodSnapshot tenant pa then some 4
  else if 64 ≤ ((s.die die).launches.filter fun l => l.state == .waiting || l.state == .frozen).length then some 5
  else none

/-- The next launch sequence number: modulo 2^32, without 0. -/
def nextSeqAfter (n : Nat) : Nat := if (n + 1) % 2 ^ 32 = 0 then 1 else (n + 1) % 2 ^ 32

/-- The oldest LAUNCH of a tenant whose record has been launched gets its answer: ACCEPT with the sequence number, or NAK with the refusal
code (22 R418; DESIGN CHOICE, assumption log 58). -/
def State.answerLaunch (s : State) (die tenant : Nat) (record : List Byte) (answer : Except Nat Nat) : State :=
  match (s.die die).taken.find? fun m => m.tenant == tenant && messageType m.msg == 1 && m.record == record with
  | none => s
  | some m =>
    let s := s.setDie die fun x => { x with taken := x.taken.erase m }
    match answer with
    | .ok seq => s.sendEvent die tenant 0x87 (messageSeq m.msg) (leBytes seq 4)
    | .error r => s.nak die tenant m.msg r

/-- launch: the record is checked, and the launch is queued or refused (R357); the message that asked for it is answered. -/
def execLaunch (d a b : SReg) (s : State) : Res :=
  s.nurseOnly fun s => s.reading [a, b] fun s =>
    let va := s.reg a
    if va.toNat % 64 ≠ 0 then s.trapAtIssue .align va false
    else s.access va 64 .read fun x s => s.access (va + 64) 64 .read fun _ s =>
      if s.corePoison s.me.core x.pa 128 then s.trapAtIssue .poison va false
      else
        let bs := s.loadBytes x.pa 128
        let k := parseKernel bs
        let die := s.me.die
        let tenant := field (s.reg b) 0 4
        match s.refusal die tenant k bs with
        | some r => .next ((s.setReg d (word (2 ^ 63 + r))).answerLaunch die tenant bs (.error r)).apart.retire
        | none =>
          let seq := (s.die die).nextSeq
          let s := s.setDie die fun x => { x with launches := x.launches ++ [newLaunch seq tenant k], nextSeq := nextSeqAfter seq }
          .next ((s.setReg d (word seq)).answerLaunch die tenant bs (.ok seq)).apart.retire

/-! ## Where a launch may stand (19 R358, R379) -/

/-- The CTXID of a position of a core. -/
def ctxidOf (core pos : Nat) : Nat := core / 144 * 1024 + core % 144 / 4 * 16 + core % 4 * 4 + pos

/-- A position holds a placed context: one that runs, or has halted while its launch stands. -/
def State.occupied (s : State) (id : Nat) : Bool :=
  let c := s.ctx id
  match c.state with
  | .vacant | .stopped => false
  | .running => true
  | .halted => match (s.die c.die).launch? c.launch with | some l => l.state == .placed | none => false

/-- The positions that the seats of one core take: the first that fit, with some contexts thought away. -/
def State.placeOn (s : State) (gone : List Nat) (lpriv core : Nat) (seats : List Seat) : Option (List (Nat × Seat)) :=
  let here := (List.range 4).filter fun p => s.occupied (ctxidOf core p) && !gone.contains (ctxidOf core p)
  let k := gone.foldl (fun (k : Core) id => if (s.ctx id).core = core then k.release id else k) (s.core core)
  let free := (List.range 4).filter fun p => !here.contains p
  let unit (x : Seat) : Bool :=
    ((List.range 16).all fun b => !x.banks.testBit b || !bit k.cbown (3 * b + 2)) &&
      ((List.range 2).all fun j => !x.covs.testBit j || !bit k.cvown (3 * j + 2)) && (!x.comb || k.combOwner.isNone)
  let apart : Bool := seats.all fun x => seats.all fun y => !x.clashes y
  let fits (ps : List Nat) : Bool :=
    windowsFit lpriv ps && ps.all fun p => here.all fun q => !windowsOverlap p lpriv q (s.ctx (ctxidOf core q)).lpriv
  if (seats.all unit && apart) = true then
    ((choices seats.length free).find? fits).map fun ps => List.zip (ps.map fun p => ctxidOf core p) seats
  else none

/-- The cores of a launch. -/
def Launch.cores (l : Launch) (die : Nat) : List Nat :=
  l.kernel.quads.flatMap fun q => (List.range 4).map fun p => 144 * die + 4 * q + p

/-- The placement of a launch, with some contexts thought away: none where it is not placeable. -/
def State.placement (s : State) (gone : List Nat) (die : Nat) (l : Launch) : Option (List (Nat × Seat)) :=
  let seats := s.seats die l
  (l.cores die).foldl (fun r core =>
    match r, s.placeOn gone l.kernel.lpriv core (seats.filter fun x => x.core == core) with
    | some xs, some ys => some (xs ++ ys)
    | _, _ => none) (some [])

/-! ## Placing (19 R358, 01 R38) -/

/-- A context as the dispatcher places it (01 R38). -/
def freshContext (l : Launch) (id index : Nat) : Ctx :=
  let k := l.kernel
  let c := Ctx.vacant id
  let size := k.quads.length * 4 * k.ctx
  let regs := [(1, k.argp), (2, word index), (3, word size)].foldl (fun m (e : Nat × Word) => Sparse.set 0 m e.1 e.2) ([] : List (Nat × Word))
  { c with
    state := .running, launch := l.seq, index := index, size := size, lpriv := k.lpriv,
    a := { c.a with
      pc := k.entry, regs := regs,
      csr := { c.a.csr with cellbase := k.cellb + word index * k.cells, celllim := k.cells,
                            status := word (256 * l.tenant + 65536 * k.prio) } } }

/-- The units that a new context asked for, at their placement values (11 R247, 13 R296). -/
def State.grantUnits (s : State) (core pos : Nat) (x : Seat) : State :=
  s.setCore core fun k =>
    let k := ((List.range 16).filter fun b => x.banks.testBit b).foldl (fun (k : Core) b =>
      { k with cbown := setField k.cbown (3 * b) 3 (4 + pos), banks := Sparse.set Bank.reset k.banks b Bank.reset }) k
    ((List.range 2).filter fun j => x.covs.testBit j).foldl (fun (k : Core) j =>
      { k with cvown := setField k.cvown (3 * j) 3 (4 + pos), covs := Sparse.set Cov.reset k.covs j Cov.reset }) k

/-- A request of the moving context from before its freeze, which it posts again with its token: its launch was frozen, or moved
(22 R430). -/
def State.reposts (s : State) (token : Word32) (r : Outstanding) : Bool :=
  r.token == token && r.tenant == s.me.a.csr.tenant &&
    (r.launch == s.me.launch || (match (s.die s.me.die).launch? r.launch with | some l => l.state == .moved | none => false))

/-- The moving context, just placed, takes what a snapshot holds, and goes on from it (02 R71, 19 R379, 22 R430). -/
def State.restoreFrom (s : State) (pa : Nat) : State :=
  let snap := s.snapshotAt s.me.a.csr.tenant pa
  let secs := parseSections snap
  let poison := ((List.range (snap.length / 8)).filter fun w => s.poison.contains (pa / 8 + w)).map fun w =>
    w - (match ((List.range (numAt snap 6 2)).map fun i => 64 + 16 * i).find? fun o => numAt snap o 2 == 10 with
      | some o => numAt snap (o + 8) 4 / 8
      | none => 0)
  let a := s.parseArch secs
  let v := parseService (sectionOf secs 12)
  let s := { s with me := { s.me with a := a, nextUid := 128, service := v, event := (v.bind fun x => x.answer).isSome } }
  let s := (s.restoreUnits secs poison).decideSinks.parseRun (sectionOf secs 5)
  let s := match v with
    | some x => if x.answer.isNone then
        let s := s.setDie s.me.die fun d => { d with
          requests := (d.requests.filter fun r => !s.reposts x.token r) ++ [{ token := x.token, tenant := s.me.a.csr.tenant, launch := s.me.launch, from_ := .context s.me.id, va := x.va }] }
        s.sendEvent s.me.die s.me.a.csr.tenant 0x82 0
          (leBytes s.me.launch 4 ++ leBytes s.me.index 4 ++ leBytes x.va.toNat 8 ++ leBytes x.kind.code 4 ++ leBytes x.token.toNat 4 ++
            s.faultName s.me)
      else s
    | none => s
  if s.me.a.csr.sup || !s.me.a.csr.stripPend then s
  else if s.me.stopped.isNone && s.me.resume.isNone then s.setCsr fun c => { c with strip := 0 }
  else s.reforce s.me.a.pc

/-- One context placed. -/
def State.placeContext (s : State) (l : Launch) (id : Nat) (x : Seat) : State :=
  let s := (s.invalidate x.core fun _ => true).grantUnits x.core (id % 4) x
  let s := s.modifyCtx id fun _ => freshContext l id x.index
  match x.image with
  | some pa => s.at id fun s => s.restoreFrom pa
  | none => s

/-- A launch is placed: the maps of cores that held no context, then every context at once (10 R226), and the count of its
barriers' participants is fixed (15 R335). -/
def State.placeLaunch (s : State) (die : Nat) (l : Launch) (plan : List (Nat × Seat)) : State :=
  let empty := (l.cores die).filter fun core => (List.range 4).all fun p => !s.occupied (ctxidOf core p)
  let s := empty.foldl (fun s core => s.setCore core fun k => { k with pmap := 0xFFFFFFFF }) s
  let s := plan.foldl (fun s x => s.placeContext l x.1 x.2) s
  s.setDie die fun d =>
    { d.setLaunch l.seq (fun l => { l with state := .placed, ctxs := plan.map fun x => x.1, members := plan.map fun x => x.1, images := [] }) with
      lastPlaced := Sparse.set 16 d.lastPlaced l.kernel.prio l.tenant }

/-! ## Freezing (02 R71, 19 R376, R377) -/

/-- A context at its freeze, or one that the freeze still waits for. -/
inductive Settled where
  | ready (s : State)
  | waits
  deriving DecidableEq, Repr

/-- The issue of a pending sink, and everything after it, is discarded (02 R71). -/
def State.unissue (s : State) (p : Pend) : State :=
  { s with me := { s.me with
      a := { p.before with rep := none }, pend := [], run := none, held := s.me.held.filter fun h => decide (h.no < p.no) } }.settleComb

/-- The running pass stops at its strip boundary (02 R71). -/
def State.freezeRun (s : State) (r : Run) : State :=
  let el := r.work.elbase + word r.cur
  s.stopRun r fun a => { a with csr := { a.csr with faultel := el } }

/-- The strips of a freeze: those dispatched finish; a freeze waits until a resumed element has committed; then the pass stops,
or completes; sinks not taken are discarded (02 R70, R71). -/
def State.settleN : Nat → State → Settled
  | 0, _ => .waits
  | n + 1, s =>
    match s.me.run with
    | some r =>
      if r.strips.any fun t => !t.finished then
        match s.commitStrips { r with strips := r.strips.map fun t => { t with finished := true } } with
        | .next t => State.settleN n t
        | _ => .waits
      else if r.done then
        if r.isStep then (match r.items with | p :: _ => .ready (s.unissue p) | [] => .waits) else State.settleN n (s.completeRun r)
      else if (match r.mustCommit with | some m => decide (r.cur ≤ m) | none => false) then .waits
      else .ready (s.freezeRun r)
    | none =>
      let first := match s.me.pend with | p :: _ => p.no | [] => s.me.issueNo + 1
      match s.me.held with
      | h :: _ =>
        if h.no < first then (if h.isTransfer then .waits else State.settleN n s.performOldest)
        else (match s.me.pend with | p :: _ => .ready (s.unissue p) | [] => .waits)
      | [] => (match s.me.pend with | p :: _ => .ready (s.unissue p) | [] => .ready s)

/-- The instruction that a request to another package completes is an atomic. -/
def PodRequest.isAtomic (r : PodRequest) : Bool := match r.kind with | .atomic _ _ => true | _ => false

/-- What a freeze waits for at the moving context: an atomic or a write that has not performed, and a trap that is due (19
R377, 21 R392). -/
def State.freezeBlocked (s : State) : Bool :=
  let c := s.me
  c.lostWrite.isSome || c.softError.isSome || (s.myCore.path.any fun w => w.of c) ||
    (match c.wait with
    | .remote q => s.pkg.requests.any fun r => r.id == q && r.isAtomic
    | .link _ _ _ w => w
    | _ => false)

/-- The moving context stops where a freeze stops it. -/
def State.settle (s : State) : Settled :=
  match s.me.wait with
  | .remote _ | .link _ _ _ true => if s.freezeBlocked then .waits else State.settleN 65536 { s with me := { s.me with wait := .none } }
  | _ =>
    if s.me.lostWrite.isSome || s.me.softError.isSome || (s.me.resumeHere.isSome && !s.me.a.csr.sup) then .waits
    else match State.settleN 65536 s with
      | .waits => .waits
      | .ready t => if t.freezeBlocked then .waits else .ready { t with me := { t.me with wait := .none } }

/-- Bytes of a snapshot as the nurse writes them, through the tenant's key slot, with the poison that travels with them (R376). -/
def State.writeSnapshot (s : State) (tenant pa : Nat) (bs : List Byte) (poison : List Nat) : State :=
  let s := (s.takeLines tenant pa bs.length).performBytes pa bs false
  { s with poison := poison.foldl (fun p w => insertNat (pa / 8 + w) p) s.poison }

/-- One context is frozen into a buffer: its snapshot, and the position free. -/
def State.freezeOne (s : State) (id pa : Nat) : Option (State × Nat) :=
  match (s.focus id).settle with
  | .waits => none
  | .ready t =>
    let t := t.moveStage
    let tag := match (t.die t.me.die).launch? t.me.launch with | some l => l.kernel.tag | none => 0
    let bs := t.snapshot tag
    let poison := t.snapshotPoison bs
    let core := t.me.core
    let seq := t.me.launch
    let die := t.me.die
    let u := (t.writeSnapshot t.me.a.csr.tenant pa bs poison).focus s.me.id
    let u := (u.setCore core fun k => k.release id).modifyCtx id fun _ => Ctx.vacant id
    let u := { u with pkg := { u.pkg with requests := u.pkg.requests.filter fun r => !(r.ctx == id && r.launch == seq && (match r.kind with | .read _ => true | _ => false)) } }
    some (u.setDie die fun d => d.setLaunch seq fun l =>
      { l with ctxs := l.ctxs.filter fun i => decide (i ≠ id), images := l.images ++ [pa] }, bs.length)

/-- The running contexts of a launch, by index. -/
def State.runningOf (s : State) (l : Launch) : List Nat :=
  let ids := l.ctxs.filter fun id => (s.ctx id).state == .running
  ids.foldl (fun r id =>
    (r.filter fun x => decide ((s.ctx x).index ≤ (s.ctx id).index)) ++ [id] ++ r.filter fun x => decide ((s.ctx id).index < (s.ctx x).index)) []

/-- Every context of a launch is frozen, in ascending index, into its slot, and its positions are free, those of halted contexts
among them; the lengths of the snapshots. -/
def State.freezeLaunch (s : State) (die : Nat) (l : Launch) (slot : Nat → Nat) (fate : LaunchState) : Option (State × List Nat) :=
  let r := (s.runningOf l).foldl (fun (r : Option (State × List Nat)) id =>
    match r with
    | none => none
    | some (s, ns) => (s.freezeOne id (slot (s.ctx id).index)).map fun x => (x.1, ns ++ [x.2])) (some (s, []))
  r.map fun x =>
    let s := (l.ctxs.filter fun id => (x.1.ctx id).state == .halted).foldl (fun s id => s.modifyCtx id fun _ => Ctx.vacant id) x.1
    (s.setDie die fun d => d.setLaunch l.seq fun l => { l with state := fate, ctxs := [] }, x.2)

/-- A freeze of a context waits for something. -/
def State.settling (s : State) (id : Nat) : Bool := match (s.focus id).settle with | .waits => true | .ready _ => false

/-- What a freeze waits for moves next. -/
def State.freezeTurn (s : State) (id : Nat) : State :=
  let c := s.ctx id
  let t : Turn := if c.busy || !c.held.isEmpty || (s.core c.core).path.any fun w => w.of c then .advance id else .run id
  { s with turns := t :: s.turns }

/-- freeze (R376). -/
def execFreeze (d a b : SReg) (s : State) : Res :=
  s.nurseOnly fun s => s.reading [a, b] fun s =>
    let id := field (s.reg a) 0 12
    let pa := (s.reg b).toNat
    let answer (r : Nat) (s : State) : Res := .next (s.setReg d (word r)).apart.retire
    let c := s.ctx id
    if !positionExists id || id / 1024 != s.me.die || c.state == .vacant || c.state == .stopped ||
        (c.state == .halted && !s.occupied id) then answer (2 ^ 63 + 1) s
    else if pa % 64 ≠ 0 then answer (2 ^ 63 + 2) s
    else if c.state = .halted then answer (2 ^ 63 + 3) s
    else match region pa with
      | .nothing | .pod => s.trapAtIssue .perm (s.reg b) true
      | _ =>
        match s.freezeOne id pa with
        | none => .next (s.freezeTurn id)
        | some (t, n) =>
          let t := t.setDie t.me.die fun x => x.setLaunch c.launch fun l =>
            if l.ctxs.all fun i => (t.ctx i).state == .halted then { l with state := .moved } else l
          answer n (t.invalidate t.me.core fun l => decide (pa / 64 ≤ l) && decide (l < (pa + n + 63) / 64))

/-! ## The dispatcher (19 R359) -/

/-- The waiting launches of a die, in the order in which they are considered. -/
def Die.queue (d : Die) : List Launch :=
  ([3, 2, 1, 0] : List Nat).flatMap fun prio =>
    let last := Sparse.get 16 d.lastPlaced prio
    (rotation (if last < 16 then some last else none)).flatMap fun t =>
      d.launches.filter fun l => (l.state == .waiting || l.state == .frozen) && l.kernel.prio == prio && l.tenant == t

/-- A context holds a unit of its core that a seat asks for. -/
def State.holdsFor (s : State) (id : Nat) (x : Seat) : Bool :=
  let k := s.core x.core
  (s.ctx id).core == x.core &&
    (((List.range 16).any fun b => x.banks.testBit b && ownedBy k.cbown b (id % 4)) ||
      ((List.range 2).any fun j => x.covs.testBit j && ownedBy k.cvown j (id % 4)) || (x.comb && k.combOwner == some (id % 4)))

/-- The launches among some that stand in the way of the seats of a core: those that hold a unit that a seat asks for, and where the
positions do not fit without them, every one on the core (DESIGN CHOICE, assumption log 122). -/
def State.inTheWay (s : State) (lpriv core : Nat) (seats : List Seat) (vs : List Launch) : List Launch :=
  if (s.placeOn [] lpriv core seats).isSome then []
  else
    let here := vs.filter fun v => v.ctxs.any fun id => (s.ctx id).core == core
    let holders := here.filter fun v => v.ctxs.any fun id => seats.any (s.holdsFor id)
    if (s.placeOn (holders.flatMap fun v => v.ctxs) lpriv core seats).isSome then holders else here

/-- The launches that a priority freeze removes for a head: of lower priority, with slots, that stand in its way. -/
def State.victims (s : State) (die : Nat) (l : Launch) : List Launch :=
  let seats := s.seats die l
  let lower := (s.die die).launches.filter fun v => v.state == .placed && decide (v.kernel.prio < l.kernel.prio) && v.kernel.frzs != 0
  ((l.cores die).flatMap fun core => s.inTheWay l.kernel.lpriv core (seats.filter fun x => x.core == core) lower).eraseDups

/-- LAUNCH_PLACE: the head is placed, if need be after a priority freeze; otherwise the first launch that fits outside its
quads (R359). -/
def execLaunchPlace (die : DieId) (s : State) : Res :=
  let d := die.toNat
  match (s.die d).queue with
  | [] => .next s
  | h :: rest =>
    match s.placement [] d h with
    | some plan => .next (s.placeLaunch d h plan)
    | none =>
      let vs := s.victims d h
      if !vs.isEmpty && (s.placement (vs.flatMap fun v => v.ctxs) d h).isSome then
        let frozen := vs.foldl (fun (r : Option State) v => r.bind fun s =>
          (s.freezeLaunch d v (fun i => v.kernel.frzb.toNat + v.kernel.frzs * i) .frozen).map fun x => x.1) (some s)
        match frozen with
        | none => .next (match (vs.flatMap s.runningOf).find? fun id => s.settling id with | some id => s.freezeTurn id | none => s)
        | some t => match t.placement [] d h with
          | some plan => .next (t.placeLaunch d h plan)
          | none => .next s
      else
        let away (l : Launch) : Bool := l.kernel.quads.all fun q => !h.kernel.quads.contains q
        match (rest.filter away).findSome? fun l => (s.placement [] d l).map fun p => (l, p) with
        | some (l, plan) => .next (s.placeLaunch d l plan)
        | none => .next s

/-! ## Completion (19 R361, 22 R423) -/

/-- Transfers, pod-window writes on their way, or unanswered, of a launch. -/
def State.launchDrains (s : State) (die seq : Nat) : Bool :=
  (s.transfers.any fun t => t.quad / 36 == die && t.launch == seq) ||
    (s.pkg.requests.any fun r => r.die == die && r.launch == seq && (match r.kind with | .write _ => true | _ => false)) ||
    s.cores.any fun k => decide (k.1 < 576) && k.1 / 144 == die && k.2.path.any fun w => w.launch == seq && region w.pa == .pod

/-- A completion record (19 R361). -/
def Launch.record (l : Launch) (die : Nat) : List Byte :=
  let status := match l.fault with | some f => f.status | none => if l.rserr = 0 then 0 else 2
  let f : FaultReport := l.fault.getD { status := 0, index := 0, cause := 0, ctxid := 0, epc := 0, faultva := 0, faultel := 0, blamepc := 0, blameseq := 0 }
  leBytes l.kernel.tag.toNat 8 ++ leBytes l.seq 4 ++ leBytes status 1 ++ leBytes die 1 ++ zeros 2 ++ leBytes f.index 4 ++
    leBytes f.cause.toNat 2 ++ leBytes (f.ctxid % 4096) 2 ++ leBytes f.epc.toNat 8 ++ leBytes f.faultva.toNat 8 ++
    leBytes f.faultel.toNat 8 ++ leBytes f.blamepc.toNat 8 ++ leBytes f.blameseq.toNat 4 ++ leBytes (min l.rserr (2 ^ 32 - 1)) 4

/-- COMPLETE: the record of an ended launch is sent once its transfers and pod-window stores have drained (R361). -/
def execComplete (die : DieId) (seq : Word32) (s : State) : Res :=
  let d := die.toNat
  match (s.die d).launch? seq.toNat with
  | none => .next s
  | some l =>
    if l.state = .ended ∧ s.launchDrains d l.seq = false then
      .next ((s.sendEvent d l.tenant 0x81 0 (l.record d)).setDie d fun x => x.setLaunch l.seq fun l => { l with state := .done })
    else .next s

/-! ## Failures (19 R383, 21 R404) -/

/-- A report of a die that fails: STATUS 1, CAUSE POISON. -/
def dieFault : FaultReport :=
  { status := 1, index := 0, cause := word Cause.poison.code, ctxid := 0, epc := 0, faultva := 0, faultel := 0, blamepc := 0, blameseq := 0 }

/-- A die stops: its launches end, those of other dies do not, though a group holds them (R383; DEDUCED, assumption log 102), and
the package reports it lost, with what it has read of its monitors. -/
def State.loseDie (s : State) (d : Nat) (readings : List Nat) : State :=
  let s := (s.die d).launches.foldl (fun s l => match l.state with
    | .waiting | .placed | .frozen => s.endLaunch d l.seq dieFault
    | _ => s) s
  (s.setDie d fun x => { x with lost := true }).reportAt .dieLost d 0 0 noName readings

/-- The nurse core of a die runs no more. -/
def State.stopNurse (s : State) (d : Nat) : State := s.modifyCtx (4096 + d) fun c => if c.state = .vacant then c else c.stop

/-- NURSE_FAILURE: the die stops (R383). -/
def execNurseFailure (die : DieId) (s : State) : Res :=
  let d := die.toNat
  if (s.die d).lost then .next s
  else .next ((s.loseDie d []).stopNurse d)

/-! ## Tenants (19 R353, R354, 22 R416) -/

/-- A quad of a mask belongs to another tenant of the die. -/
def Die.quadsTaken (d : Die) (tenant : Nat) (mask : Nat) : Bool :=
  (List.range 16).any fun t => t != tenant && (d.tenant t).valid && ((d.tenant t).quads.toNat &&& mask) != 0

/-- The quads of a tenant's record are another's by now: it does not exist beside that one (15 R315). -/
def Die.quadsClash (d : Die) (tenant : Nat) : Bool := d.quadsTaken tenant (d.tenant tenant).quads.toNat

/-- A key slot that no other VALID tenant of the die names (19 R353). -/
def Die.slotFree (d : Die) (tenant : Nat) (slot : Word) : Bool :=
  (List.range 16).all fun t => t == tenant || !(d.tenant t).valid || (d.tenant t).keyslot != slot

/-- The key slot of a tenant that is to exist: its record's, or where another tenant has that one the lowest that none has (DESIGN
CHOICE, assumption log 35). -/
def Die.slotFor (d : Die) (tenant : Nat) : Word :=
  let k := (d.tenant tenant).keyslot
  if d.slotFree tenant k then k
  else (((List.range 16).map fun i => word i).find? fun i => d.slotFree tenant i).getD k

/-- A tenant comes to exist on a die: a key of its own stands in its key slot, one that no tenant has had, unless it has one already
(22 R433; DESIGN CHOICE, assumption log 35). -/
def State.validate (s : State) (d t : Nat) : State :=
  let slot := (s.die d).slotFor t
  let u := s.setDie d fun x => x.setTenant t fun r =>
    { r with valid := true, keyslot := slot, key := if r.key = 0 then word (s.freeCtr + 1) else r.key }
  u.draw

/-- The image key of a tenant that is to be created: the one that it has on another die, or a new one, or none (22 R432; DESIGN CHOICE,
assumption log 35). -/
def State.newImageKey (s : State) (t : Nat) : Option Word :=
  match (List.range 4).find? fun d => ((s.die d).tenant t).valid with
  | some d => ((s.die d).tenant t).imageKey
  | none => if Config.freeBit s.freeCtr then some (Config.freeWord s.freeCtr) else none

/-- TENANT_CREATE: the tenant exists on the dies named, but for one on which another owns its quads (15 R315), with a key for its
memory, the keys of its TSS domain, and one image key or none (22 R416, R432, R433; DESIGN CHOICE, assumption log 35). -/
def execTenantCreate (tenant : TenantId) (dies : BitVec 4) (s : State) : Res :=
  let t := tenant.toNat
  let image := s.newImageKey t
  .next (((List.range 4).filter fun d => dies.getLsbD d).foldl (fun s d =>
    if ((s.die d).tenant t).valid || (s.die d).quadsClash t then s
    else
      let u := s.setDie d fun x => x.setTenant t fun r =>
        { r with key := 0, tss := Config.freeWord s.freeCtr, images := [], imageKey := image }
      u.validate d t) s.draw)

/-- TENANT_RECORD_WRITE (R353). Each quad has at most one owner (15 R315): a mask that names another tenant's quad is not
taken, and a tenant whose record names one does not become VALID. KEYSLOT names another slot for the tenant's key, and none that another
tenant has (DESIGN CHOICE, assumption log 35). -/
def execTenantRecordWrite (die : DieId) (tenant : TenantId) (f : TenantField) (v : Word) (s : State) : Res :=
  let d := die.toNat
  let put (g : Tenant → Tenant) : Res := .next (s.setDie d fun x => x.setTenant tenant.toNat g)
  match f with
  | .valid =>
    if bit v 0 = false then put fun t => { t with valid := false }
    else if (s.die d).quadsClash tenant.toNat then .next s
    else .next (s.validate d tenant.toNat)
  | .quads =>
    let m := v.toNat % 2 ^ 36
    if (s.die d).quadsTaken tenant.toNat m then .next s else put fun t => { t with quads := word m }
  | .ptroot => put fun t => { t with ptroot := v }
  | .sidebase16 => put fun t => { t with side16 := v }
  | .sidebase32 => put fun t => { t with side32 := v }
  | .sidebase64 => put fun t => { t with side64 := v }
  | .keyslot => if (s.die d).slotFree tenant.toNat v then put fun t => { t with keyslot := v } else .next s
  | .inbox => put fun t => { t with inbox := v }
  | .events => put fun t => { t with events := v }
  | .dirtyb => put fun t => { t with dirtyb := v }

/-- A launch of a torn-down tenant: its contexts stop, and nothing is sent. -/
def State.abortLaunch (s : State) (d : Nat) (l : Launch) : State :=
  let s := if l.state = .placed then s.stopContexts l.ctxs else s
  s.setDie d fun x => x.setLaunch l.seq fun l => { l with state := .done, images := [] }

/-- Writes of a die's torn-down tenant that are on their way: those to other packages are dropped, the others perform. -/
def State.drainTenant (s : State) (d t : Nat) : State :=
  let s := (s.cores.filter fun k => decide (k.1 < 576) && k.1 / 144 == d).foldl (fun s k =>
    let mine := k.2.path.filter fun w => w.tenant == t && region w.pa != .pod
    (mine.foldl (fun s w => s.performLogged w.agent w.pa w.data w.poison) s).setCore k.1 fun q =>
      { q with path := q.path.filter fun w => decide (w.tenant ≠ t) }) s
  { s with pkg := { s.pkg with requests := s.pkg.requests.filter fun r => !(r.die == d && r.tenant == t) } }

/-- TENANT_TEARDOWN, in the order of R354. -/
def execTenantTeardown (die : DieId) (tenant : TenantId) (s : State) : Res :=
  let d := die.toNat
  let t := tenant.toNat
  let quads := (List.range 36).filter fun q => bit ((s.die d).tenant t).quads q
  let s := ((s.die d).launches.filter fun l => l.tenant == t).foldl (fun s l => s.abortLaunch d l) s
  let s := { s with transfers := s.transfers.filter fun x => !(x.quad / 36 == d && x.tenant == t) }
  let s := s.drainTenant d t
  let s := s.dropTlbs d fun e => e.tenant == t
  let s := quads.foldl (fun s q =>
    let lo := 0x3000000000 + d * 0x40000000 + 4 * q * 0x400000
    { s with mem := Sparse.clearRun s.mem lo 0x1000000, keys := Sparse.clearRun s.keys (lo / 64) 0x40000,
             poison := s.poison.filter fun w => decide (8 * w < lo) || decide (lo + 0x1000000 ≤ 8 * w) }) s
  .next (s.setDie d fun x =>
    { x.setTenant t (fun r => { r with keyslot := 0, key := 0, tss := 0, valid := false }) with requests := x.requests.filter fun r => decide (r.tenant ≠ t) })

end Sys2Proof.Machine
end

