-- ==== Sys2Proof/Machine/Events.lean ====
section
/-!
DEFINITION. The happenings of a core: the sequencer's and the lane groups' (02 R43, R47, 10 R228, R229, R236, 12 R281, R286,
R287), and the core's soft errors (10 R242).
-/

namespace Sys2Proof.Machine

/-- The instruction that a pass runs for. -/
def Ctx.passPc (c : Ctx) : Word := match c.items with | p :: _ => p.pc | [] => c.a.pc

/-- SEQ of that instruction's sink. -/
def Ctx.passSeq (c : Ctx) : Word32 :=
  match c.items with
  | p :: _ => (match broodEntry p.after.brood p.entry with | some e => e.seq | none => -1)
  | [] => -1

/-! ## The sequencer and the lane groups -/

/-- PASS_TAKE (02 R47). -/
def execPassTake (c : CtxId) (s : State) : Res := s.onCtx c.toNat fun s => .next s.takePass

/-- The dispatch gate of a core's die is closed: no strip and no step is dispatched (21 R401). -/
def State.gateShut (s : State) (core : Nat) : Bool := (s.die (core / 144)).gate == 0

/-- STRIP_DISPATCH (10 R229): the group takes a strip, which a sketch of strips counts. -/
def execStripDispatch (core : CoreId) (g : BitVec 3) (s : State) : Res :=
  let k := core.toNat
  let g := g.toNat
  if s.gateShut k || (s.busyGroups k).contains g then .next s
  else
    let t := s.dispatchStrip k g
    match t.onGroup k g with
    | some c => .next (t.sketchEvent c c.passPc 1 1)
    | none => .next t

/-- STRIP_FINISH (10 R228). -/
def execStripFinish (core : CoreId) (g : BitVec 3) (s : State) : Res := s.finishStrip core.toNat g.toNat

/-- SINK_COMPLETE (10 R236). -/
def execSinkComplete (c : CtxId) (s : State) : Res := s.onCtx c.toNat State.completeSink

/-- COMB_STEP_COMMIT (12 R281): a sketch of comb steps counts the step. -/
def execCombStepCommit (c : CtxId) (s : State) : Res :=
  s.onCtx c.toNat fun s =>
    if s.gateShut s.me.core then .next s
    else match s.commitComb with
      | .next t =>
        if t.me.items.length < s.me.items.length ∧ t.me.a.csr.sup = s.me.a.csr.sup then .next (t.sketchEvent s.me s.me.passPc 5 1)
        else .next t
      | r => r

/-- STREAM_ROW_FETCH (12 R286). -/
def execStreamRowFetch (c : CtxId) (v : VReg) (s : State) : Res := s.onCtx c.toNat fun s => .next (s.fetchRow v)

/-- STREAM_ROW_ARRIVE (12 R287). -/
def execStreamRowArrive (c : CtxId) (v : VReg) (s : State) : Res := s.onCtx c.toNat fun s => .next (s.arriveRow v)

/-- IMPLICIT_MATERIALISATION: the brood table of a context is full; the oldest pass runs, or the oldest live node is
materialised (02 R43). -/
def execImplicitMaterialisation (c : CtxId) (s : State) : Res :=
  s.onCtx c.toNat fun s =>
    if s.me.state ≠ .running ∨ s.me.wait ≠ .none ∨ s.me.a.freeEntry.isSome = true then .next s
    else if s.me.busy then .next s.takePass
    else match s.me.a.oldestFirst ((s.me.a.brood.filter fun e => e.2.kind != .sink).map fun e => e.1) with
      | [] => .next s
      | n :: _ => match s.me.a.inOrder.stagesFor [n] with
        | none => .next s
        | some _ => s.materialise noCells [n]

/-! ## Soft errors (10 R242) -/

/-- A parity error in held effects or run-ahead state: the context returns to the oldest held instruction that stands after
every sink of the running pass, and stops there once every earlier sink has completed. -/
def Ctx.loseHeld (c : Ctx) : Ctx :=
  let ran : List Nat := match c.run with | some r => r.items.map fun p => p.no | none => []
  match c.held.find? fun h => ran.all fun n => decide (n < h.no) with
  | none => { c with softError := some 0 }
  | some h =>
    { c with a := { h.before with rep := none }, pend := c.pend.filter fun p => decide (p.no < h.no),
             held := c.held.filter fun x => decide (x.no < h.no), wait := .none, ahead := [], softError := some 0 }

/-- An 8-byte word of a bank is lost (11 R247). -/
def Bank.lose (b : Bank) (w : Nat) : Bank := { b with poison := b.poison ||| BitVec.ofNat 512 (2 ^ w) }

/-- A pair of words of an accumulator is lost (13 R296). -/
def Cov.lose (c : Cov) (p : Nat) : Cov := { c with poison := insertNat p c.poison }

/-- The context that a core error concerns: the one whose strip runs, whose window or unit is hit, or whose held effects are lost. -/
def State.errorContext (s : State) (k : Nat) (e : CoreError) : Option Ctx :=
  let at_ (pos : Nat) : Option Ctx := if s.occupied (ctxidOf k pos) then some (s.ctx (ctxidOf k pos)) else none
  let owner (w : Word) (n : Nat) : Option Ctx := if bit w (3 * n + 2) then at_ (field w (3 * n) 2) else none
  match e with
  | .strip g => s.onGroup k g.toNat
  | .lanePrivateCorrected _ o | .lanePrivateLost _ o =>
    (List.range 4).findSome? fun pos => (at_ pos).bind fun c =>
      if 4096 * pos ≤ o.toNat ∧ o.toNat < 4096 * pos + c.lpriv then some c else none
  | .bankLost b _ => owner (s.core k).cbown b.toNat
  | .covLost j _ => owner (s.core k).cvown j.toNat
  | .cacheLine _ => none
  | .held pos => at_ pos.toNat

/-- The strip of a context that a core error hits. -/
def Ctx.stripOn (c : Ctx) (g : Nat) : Option Nat := c.run.bind fun r => (r.strips.find? fun t => t.group == g && !t.finished).map fun t => t.num

/-- The RAS record of a core error: the core, the context by its CTXID, the strip; 0xFFFF where there is none (R242; DESIGN CHOICE,
assumption log 11). -/
def State.coreRecord (s : State) (k : Nat) (e : CoreError) : State :=
  let c := s.errorContext k e
  let strip := match e, c with | .strip g, some c => (c.stripOn g.toNat).getD 0xFFFF | _, _ => 0xFFFF
  let name := match e, c with
    | .strip _, some c => s.nameOf c c.passPc c.passSeq
    | _, some c => s.nameOf c c.a.pc (-1)
    | _, none => noName
  s.reportAt .coreError (k / 144) k 0 name [k, match c with | some c => c.id | none => 0xFFFF, strip]

/-- CORE_PARITY_ERROR (R242). -/
def execCoreParityError (core : CoreId) (e : CoreError) (s : State) : Res :=
  let k := core.toNat
  let s := s.coreRecord k e
  match e with
  | .strip g => .next (s.stripError k g.toNat)
  | .lanePrivateCorrected _ _ => .next s
  | .lanePrivateLost l o =>
    .next (s.setCore k fun q => { q with lprivPoison := insertNat ((16384 * l.toNat + o.toNat) / 8) q.lprivPoison })
  | .bankLost b w =>
    .next (s.setCore k fun q =>
      { q with banks := Sparse.set Bank.reset q.banks b.toNat ((Sparse.get Bank.reset q.banks b.toNat).lose w.toNat) })
  | .covLost j p =>
    .next (s.setCore k fun q =>
      { q with covs := Sparse.set Cov.reset q.covs j.toNat ((Sparse.get Cov.reset q.covs j.toNat).lose p.toNat) })
  | .cacheLine n => .next (s.invalidate k fun l => l == n.toNat)
  | .held pos =>
    let id := ctxidOf k pos.toNat
    if (s.ctx id).state = .running then
      .next ((s.modifyCtx id Ctx.loseHeld).notify .coreError (k / 144) k 0 (s.nameOf (s.ctx id) (s.ctx id).a.pc (-1)))
    else .next s

end Sys2Proof.Machine
end

