-- ==== Sys2Proof/Machine/Fabric.lean ====
section
/-!
DEFINITION. The fabric (22): host messages and the events that answer them (R417, R418, 19 R367), migration (R429), identity
(R432), and the pod window seen from both ends (R419 to R423, 15 R316).
-/

namespace Sys2Proof.Machine

/-! ## Host messages (R417, R418) -/

/-- LAUNCH_MESSAGE: a host message, a LAUNCH or one of another TYPE, lands in the next free slot of the inbox, where lwait takes
it; it is dropped with NAK 7 where all 64 are taken (R417). -/
def execLaunchMessage (die : DieId) (tenant : TenantId) (msg : List Byte) (s : State) : Res :=
  let d := die.toNat
  let t := tenant.toNat
  if s.endpoint d t msg = false then .next s
  else
    let s := s.setDie d fun x => x.count 7 256
    match (s.die d).freeSlot t with
    | none => .next (s.nak d t msg 7)
    | some k =>
      .next ((s.performBytes (((s.die d).tenant t).inbox.toNat + 256 * k) msg false).setDie d fun x =>
        { x with inbox := x.inbox ++ [{ tenant := t, slot := k }] })

/-- A message of a TYPE that lwait has given to the firmware, which has still to act on it. -/
def State.acting (s : State) (die tenant type : Nat) (msg : List Byte) : Bool :=
  s.endpoint die tenant msg && messageType msg == type && (s.die die).taken.any fun m => m.of tenant msg

/-- The firmware has acted on a message. -/
def State.dropMessage (s : State) (die tenant : Nat) (msg : List Byte) : State :=
  s.setDie die fun x => { x with taken := x.taken.eraseP fun m => m.of tenant msg }

/-! ## ANSWER (19 R367) -/

/-- A request that the tenant still has outstanding: its launch goes on, or it is a transfer's. -/
def State.requestOf (s : State) (die tenant : Nat) (p0 : Word) : Option Outstanding :=
  (s.die die).requests.find? fun r =>
    r.token.toNat == p0.toNat && r.tenant == tenant &&
      (match (s.die die).launch? r.launch with
      | some l => (match l.state, r.from_ with
        | .done, _ => false
        | .ended, .transfer _ => true
        | .ended, _ => false
        | _, _ => true)
      | none => false)

/-- The answer written into the SERVICE section of a snapshot that holds the request (19 R378, R384). -/
def State.answerImage (s : State) (tenant : Nat) (token : Word32) (verdict : Nat) (pa : Nat) : State :=
  let snap := s.snapshotAt tenant pa
  match ((List.range (numAt snap 6 2)).map fun i => 64 + 16 * i).find? fun o => numAt snap o 2 == 12 with
  | none => s
  | some o =>
    let at_ := numAt snap (o + 8) 4
    if numAt snap at_ 4 = token.toNat ∧ numAt snap (at_ + 5) 1 = 0 then (s.takeLines tenant (pa + at_ + 5) 1).performBytes (pa + at_ + 5) (leBytes verdict 1) false else s

/-- The verdict reaches who asked. -/
def State.deliverAnswer (s : State) (die : Nat) (r : Outstanding) (resume : Bool) : State :=
  match r.from_ with
  | .context id =>
    let c := s.ctx id
    let waits : Bool := c.launch == r.launch && c.state == .running &&
      (match c.service with | some v => v.token == r.token && v.answer.isNone | none => false)
    if waits = true then
      if resume then
        s.modifyCtx id fun c => { c with event := true, service := c.service.map fun v => { v with answer := some true } }
      else s.endGroup die r.launch (c.faultReport 1 c.a.csr.cause)
    else match (s.die die).launch? r.launch with
      | some l => l.images.foldl (fun s pa => s.answerImage r.tenant r.token (if resume then 1 else 2) pa) s
      | none => s
  | .stream id uid row =>
    s.modifyCtx id fun c =>
      if c.launch = r.launch then
        { c with rows := c.rows.map fun x =>
            if x.uid = uid ∧ x.row = row ∧ x.asked = some r.token then { x with asked := none, arrived := !resume } else x }
      else c
  | .transfer id =>
    match s.transfers.find? fun t => t.id == id with
    | none => s
    | some t =>
      match t.stalled with
      | some (_, c, va) =>
        if resume then { s with transfers := s.transfers.map fun x => if x.id = id then { x with stalled := none } else x }
        else s.endTransfer t c.code va
      | none => s

/-- ANSWER, once taken: a token that names nothing is refused with NAK 8; before a RESUME the nurse's tlbinv of FAULTVA completes (R367,
R418). -/
def execAnswer (die : DieId) (tenant : TenantId) (msg : List Byte) (s : State) : Res :=
  let d := die.toNat
  let t := tenant.toNat
  if s.acting d t 2 msg = false then .next s
  else match s.requestOf d t (messageP0 msg) with
    | none => .next ((s.dropMessage d t msg).nak d t msg 8)
    | some r =>
      let resume := decide (messageP1 msg = 0)
      let drop := fun (e : TlbEntry) => e.dropped t false r.va.toNat
      if resume && (s.tlbBlocker d t ((s.dieTlbs d).filter drop)).isSome then .next s
      else
        let s := if resume then s.dropTlbs d drop else s
        let s := s.setDie d fun x => { x with requests := x.requests.erase r }
        .next ((s.dropMessage d t msg).deliverAnswer d r resume)

/-! ## FREEZE, DIRTY and ATTEST (R429, R432) -/

/-- FROZEN: the launch's number and the lengths of its snapshots, once its transfers and its writes to other packages have
drained; until then the message stands with the firmware. -/
def State.sendFrozen (s : State) (d t : Nat) (msg : List Byte) (seq : Nat) (ns : List Nat) : State :=
  if s.launchDrains d seq then s
  else
    let s := (s.dropMessage d t msg).setDie d fun x => x.setLaunch seq fun l => { l with freezing := none }
    s.sendEvent d t 0x84 (messageSeq msg) (leBytes seq 4 ++ leBytes ns.length 4 ++ ns.flatMap fun n => leBytes n 8)

/-- FREEZE, once taken: the launch's contexts are frozen into their slots, then the nurse waits and answers (R429). -/
def execFreezeMessage (die : DieId) (tenant : TenantId) (msg : List Byte) (s : State) : Res :=
  let d := die.toNat
  let t := tenant.toNat
  let refuse (code : Nat) : Res := .next ((s.dropMessage d t msg).nak d t msg code)
  if s.acting d t 3 msg = false then .next s
  else match (s.die d).launches.find? fun l => l.seq == (messageP0 msg).toNat && l.tenant == t with
    | none => refuse 8
    | some l =>
      match l.freezing with
      | some (h, ns) => if h = messageSeq msg then .next (s.sendFrozen d t msg l.seq ns) else refuse 8
      | none =>
        if l.state ≠ .placed then refuse 8
        else if l.kernel.frzs = 0 then refuse 2
        else
          let slot (i : Nat) : Option Nat :=
            s.contiguous (tenantAgent d t) ((messageP1 msg).toNat + l.kernel.frzs * i) l.kernel.frzs
          let indices := (s.runningOf l).map fun id => (s.ctx id).index
          if (indices.any fun i => match slot i with | some pa => decide (pa % 64 ≠ 0) | none => true) = true then refuse 2
          else match s.freezeLaunch d l (fun i => (slot i).getD 0) .moved with
            | none => .next (match (s.runningOf l).find? fun id => s.settling id with | some id => s.freezeTurn id | none => s)
            | some (u, ns) =>
              .next ((u.setDie d fun x => x.setLaunch l.seq fun l => { l with freezing := some (messageSeq msg, ns) }).sendFrozen d t msg l.seq ns)

/-- Bytes of a dirty bitmap (19 R380). -/
def dirtyBytes : Nat := 397824

/-- DIRTY, once taken: the bitmap is swapped with zeros, and its old words stand in the buffer (R429); a buffer that is not mapped, or does not stand
in memory of this package, is refused with NAK 2 (DESIGN CHOICE, assumption log 67). -/
def execDirty (die : DieId) (tenant : TenantId) (msg : List Byte) (s : State) : Res :=
  let d := die.toNat
  let t := tenant.toNat
  if s.acting d t 5 msg = false then .next s
  else
    let s := s.dropMessage d t msg
    let va := (messageP1 msg).toNat
    let places := (pagePieces va dirtyBytes).map fun p => (p.1, p.2, s.translate (tenantAgent d t) p.1 .write)
    if (places.any fun p => match p.2.2 with | .ok x => !inMemory x.pa | .error _ => true) = true then .next (s.nak d t msg 2)
    else
      let bitmap := ((s.die d).tenant t).dirtyb.toNat
      let old := Sparse.getRun 0 s.mem bitmap dirtyBytes
      let s := { s with mem := Sparse.clearRun s.mem bitmap dirtyBytes }
      let s := places.foldl (fun s p => match p.2.2 with
        | .ok x => (s.takeLines t x.pa p.2.1).performBytes x.pa ((old.drop ((p.1 + 2 ^ 64 - va) % 2 ^ 64)).take p.2.1) false
        | .error _ => s) s
      .next (s.sendEvent d t 0x87 (messageSeq msg) (leBytes (messageP0 msg).toNat 4))

/-- ATTEST, once taken: a REPORT with the nonce, the package number, the digest of the firmware that the die runs, the tenant, the digests
of its last checked images, and the signature, which is a free value (R432, DESIGN CHOICE, assumption log 35). -/
def execAttest (die : DieId) (tenant : TenantId) (msg : List Byte) (s : State) : Res :=
  let d := die.toNat
  let t := tenant.toNat
  if s.acting d t 4 msg = false then .next s
  else
    let s := s.dropMessage d t msg
    let signature : List Byte := (List.range 8).flatMap fun k => leBytes (Config.freeWord (s.freeCtr + k)).toNat 8
    let images := ((s.die d).tenant t).images.flatMap fun x => leBytes x.toNat 32
    let body := (msg.drop 16).take 32 ++ leBytes (field s.pkg.podid 0 12) 2 ++ leBytes (s.die d).firmware.toNat 32 ++ leBytes t 2 ++
      images ++ signature
    .next ({ s with freeCtr := s.freeCtr + 8 }.sendEvent d t 0x85 (messageSeq msg) body)

/-! ## Pod tables (R419, R420, R424) -/

/-- PODID_WRITE (R419). -/
def execPodidWrite (v : Word) (s : State) : Res := .next { s with pkg := { s.pkg with podid := v &&& 0x1FFF } }

/-- Changes a tenant's pod entry. -/
def State.setPod (s : State) (t : Nat) (f : PodEntry → PodEntry) : State :=
  { s with pkg := { s.pkg with pods := Sparse.set PodEntry.reset s.pkg.pods t (f (Sparse.get PodEntry.reset s.pkg.pods t)) } }

/-- GRANT_WRITE: the pod entry, or an entry of the grant table: base and length multiples of 64, the length not 0 (R420). -/
def execGrantWrite (tenant : TenantId) (cmd : GrantCmd) (s : State) : Res :=
  match cmd with
  | .ptid v => .next (s.setPod tenant.toNat fun p => { p with ptid := v })
  | .entry slot base len ptid perm =>
    if base.toNat % 64 ≠ 0 ∨ len.toNat % 64 ≠ 0 ∨ len = 0 then .next s
    else .next (s.setPod tenant.toNat fun p =>
      { p with grants := Sparse.set Grant.empty p.grants slot.toNat { base := base, len := len, ptid := ptid, perm := perm } })

/-- A format that a link graph admits (R424). -/
def graphFmt (n : Nat) : Bool := decide (n ≤ 4) || n == 11

/-- A link graph that may be configured (R424). -/
def goodGraph (g : List Byte) : Bool :=
  let i := graphByte g 1
  let o := graphByte g 2
  decide (graphByte g 0 ≤ 1) && graphFmt i && graphFmt o && (i == 11) == (o == 11) && decide (graphByte g 3 ≤ 3) &&
    decide (graphByte g 4 % 8 ≤ 4) && decide (graphByte g 4 < 32) && (List.range 3).all (fun k => graphByte g (5 + k) == 0) &&
    (List.range 16).all fun k => graphByte g (16 + k) == 0

/-- LINK_GRAPH_WRITE: graphs 1 to 15; one that is not valid is never made EN = 1 (R424). -/
def execLinkGraphWrite (tenant : TenantId) (graph : BitVec 4) (bytes : List Byte) (s : State) : Res :=
  if graph = 0 ∨ bytes.length ≠ 32 ∨ (graphByte bytes 0 ≠ 0 ∧ goodGraph bytes = false) then .next s
  else .next { s with pkg := { s.pkg with graphs := Sparse.set [] s.pkg.graphs (16 * tenant.toNat + graph.toNat) bytes } }

/-! ## Requests of other packages (R420, R422) -/

end Sys2Proof.Machine

namespace Sys2Proof

/-- The new value of an atomic (05 R153). -/
def AtomicOp.apply (op : AtomicOp) (w old x e : Nat) : Nat :=
  match op with
  | .add => old + x | .swp => x | .cas => if old = e then x else old
  | .minS => Machine.atomicPick true false w old x | .minZ => Machine.atomicPick false false w old x
  | .maxS => Machine.atomicPick true true w old x | .maxZ => Machine.atomicPick false true w old x
  | .and => old &&& x | .or => old ||| x | .xor => old ^^^ x

end Sys2Proof

namespace Sys2Proof.Machine

/-- An access that a tenant's grant covers performs at its home as the tenant's: what it reads, where it may be read (R420, R422). -/
def State.performGranted (s : State) (t off : Nat) (access : PodAccess) : Option (State × List Byte) :=
  let c := tenantAgent ((region off).die?.getD 0) t
  match access with
  | .read n => if s.homePoison off n then none else some (s, s.homeFor t off n)
  | .write data => some (s.performLogged c off data false, [])
  | .atomic op wide x e =>
    let n := if wide then 8 else 4
    if off % n ≠ 0 ∨ s.homePoison off n = true then none
    else
      let old := leNat (s.homeFor t off n)
      let new := op.apply (8 * n) old (x.toNat % 2 ^ (8 * n)) (e.toNat % 2 ^ (8 * n))
      some (s.performLogged c off (leBytes (new % 2 ^ (8 * n)) n) false, leBytes old n)

/-- POD_REQUEST_ACCEPT: an access of another package, which no grant covers and is refused, or which performs (R420, R422); its
bytes are counted as received and sent (21 R406). -/
def execPodRequestAccept (ptid : BitVec 16) (offset : Word) (access : PodAccess) (s : State) : Res :=
  let off := offset.toNat
  match (s.granting ptid off access).bind fun t => s.performGranted t off access with
  | none => .next s
  | some (u, data) =>
    let got := match access with | .read _ => 0 | .write d => d.length | .atomic .. => 16
    .next (u.setDie ((region off).die?.getD 0) fun x => (x.count 7 got).count 6 data.length)

/-! ## Answers of other packages (R421 to R423) -/

/-- The operation of an atomic instruction. -/
def atomicOpOf (i : Instr) : AtomicOp × Bool :=
  match i with
  | .amoadd _ _ w _ _ _ => (.add, w) | .amoswp _ _ w _ _ _ => (.swp, w) | .amocas _ _ w _ _ _ => (.cas, w)
  | .amominS _ _ w _ _ _ => (.minS, w) | .amominZ _ _ w _ _ _ => (.minZ, w)
  | .amomaxS _ _ w _ _ _ => (.maxS, w) | .amomaxZ _ _ w _ _ _ => (.maxZ, w)
  | .amoand _ _ w _ _ _ => (.and, w) | .amoor _ _ w _ _ _ => (.or, w) | .amoxor _ _ w _ _ _ => (.xor, w)
  | _ => (.add, true)

/-- The access that a request makes at its target. -/
def PodRequest.access (r : PodRequest) : PodAccess :=
  match r.kind with
  | .read n => .read n
  | .write d => .write d
  | .atomic x e => .atomic (atomicOpOf r.instr).1 (atomicOpOf r.instr).2 x e

/-- The answer to a request: an offset outside the physical map of R362 is refused; a request that names this package comes back to
it, and its own grants decide (R419, R420); the answer of another package is what arrives. -/
def State.answerOf (s : State) (r : PodRequest) (ok : Bool) (data : List Byte) : Option (State × List Byte) :=
  let off := podOffset r.pa
  if 0x3800000000 ≤ off then none
  else if s.ownPackage r.pa then (s.granting r.ptid off r.access).bind fun t => s.performGranted t off r.access
  else if ok then some (s, data) else none

/-- A request of this package is over. -/
def State.dropRequest (s : State) (id : Nat) : State :=
  { s with pkg := { s.pkg with requests := s.pkg.requests.filter fun r => decide (r.id ≠ id) } }

/-- A store error of a launch (R423). -/
def State.storeError (s : State) (die launch : Nat) : State :=
  s.setDie die fun d => d.setLaunch launch fun l => { l with rserr := l.rserr + 1 }

/-- A load or an atomic of the moving context completes on its answer. -/
def State.remoteDone (s : State) (r : PodRequest) (data : List Byte) : Res :=
  let s := { s with me := { s.me with wait := .none } }
  let v (n : Nat) : Nat := leNat (data.take n)
  let atomic (o : AmoOrder) (sc : Scope) (wd : Bool) (d : SReg) (signed : Bool) : Res :=
    let n := if wd then 8 else 4
    s.atomicDone o sc d (atomicResult signed n (v n)) r.va
  match r.instr with
  | .ldb sx acq _ _ d => s.loadDone d (extend sx 1 (v 1)) acq r.va
  | .ldh sx acq _ _ d => s.loadDone d (extend sx 2 (v 2)) acq r.va
  | .ldw sx acq _ _ d => s.loadDone d (extend sx 4 (v 4)) acq r.va
  | .ldd acq _ _ d => s.loadDone d (extend false 8 (v 8)) acq r.va
  | .amoadd o sc wd _ _ d | .amoswp o sc wd _ _ d | .amocas o sc wd _ _ d | .amominZ o sc wd _ _ d | .amomaxZ o sc wd _ _ d
  | .amoand o sc wd _ _ d | .amoor o sc wd _ _ d | .amoxor o sc wd _ _ d => atomic o sc wd d false
  | .amominS o sc wd _ _ d | .amomaxS o sc wd _ _ d => atomic o sc wd d true
  | _ => .next s

/-- A request ends without its effect: a store counts an error, a load or an atomic traps REMOTE (R421). -/
def State.requestFails (s : State) (r : PodRequest) : Res :=
  match r.kind with
  | .write _ => .next ((s.dropRequest r.id).storeError r.die r.launch)
  | _ =>
    let c := s.ctx r.ctx
    if c.wait ≠ .remote r.id then .next (s.dropRequest r.id)
    else if c.busy then .next s
    else (s.dropRequest r.id).onCtx r.ctx fun s =>
      { s with me := { s.me with wait := .none } }.takeTrap { cause := .remote, va := r.va, write := r.isAtomic, pass := none }

/-- A request ends with its answer. -/
def State.requestDone (s : State) (r : PodRequest) (data : List Byte) : Res :=
  let s := s.setDie r.die fun x => x.count 7 data.length
  match r.kind with
  | .write _ => .next (s.dropRequest r.id)
  | _ => if (s.ctx r.ctx).wait ≠ .remote r.id then .next (s.dropRequest r.id) else (s.dropRequest r.id).onCtx r.ctx fun s => s.remoteDone r data

/-- The outstanding request of a number. -/
def State.requestAt (s : State) (id : Nat) : Option PodRequest := s.pkg.requests.find? fun r => r.id == id

/-- POD_ACK: the acknowledgement, the data or the error of a request returns (R422). -/
def execPodAck (req : Nat) (ok : Bool) (data : List Byte) (s : State) : Res :=
  match s.requestAt req with
  | none => .next s
  | some r =>
    match s.answerOf r ok data with
    | some (u, bs) => u.requestDone r bs
    | none => s.requestFails r

/-- POD_TIMEOUT: no answer within 10 ms (R421). -/
def execPodTimeout (req : Nat) (s : State) : Res :=
  match s.requestAt req with
  | none => .next s
  | some r => s.requestFails r

end Sys2Proof.Machine
end

