-- ==== Sys2Proof/Machine/Package.lean ====
section
/-!
DEFINITION. The package (21): die-to-die links and their flow control (R387 to R391), the writes that travel to their homes
(15 R316, R397, 22 R422), memory errors (19 R382), power and ageing (R399 to R404), waggle samples, sketch units and debug
registers (R405 to R412), and the boot of a die (22 R432).
-/

namespace Sys2Proof.Machine

/-! ## Flow control (R387 to R390) -/

/-- LINK_CRC_ERROR: the flits are replayed in their order, each exactly once; only time passes (R388). -/
def execLinkCrcError (_l : LinkDir) (_seq : Nat) (s : State) : Res := .next s

/-- FLIT_ACKNOWLEDGEMENT: the retry buffer gives up the flits up to one (R388). -/
def execFlitAcknowledgement (l : LinkDir) (seq : Nat) (s : State) : Res :=
  .next (s.setLink l.src.toNat l.dst.toNat fun x => { x with retry := x.retry.filter fun n => decide (seq < n) })

/-- A channel's counts stand under their parities, or the link retrains (R389). -/
def State.soundChannel (s : State) (l : LinkDir) (ch : Channel) (k : State → Res) : Res :=
  if ((s.link l.src.toNat l.dst.toNat).channel ch).sound then k s else .next (s.setLink l.src.toNat l.dst.toNat Link.startRetrain)

/-- SLOT_RETURN: a return that is on its way arrives, and one that an audit counts arrives before it; one that would lift the credit
above the capacity starts a retrain (R389). -/
def execSlotReturn (l : LinkDir) (ch : Channel) (k : Nat) (s : State) : Res :=
  s.soundChannel l ch fun s =>
    let c := (s.link l.src.toNat l.dst.toNat).channel ch
    let know := fun (x : Link) => x.setChannel ch fun c => c.know (c.fk + BitVec.ofNat 32 k)
    if k ≤ ((c.audit.getD c.freed) - c.fk).toNat then .next (s.setLink l.src.toNat l.dst.toNat know)
    else if (c.sent - c.fk).toNat < k then .next (s.setLink l.src.toNat l.dst.toNat fun x => (know x).startRetrain)
    else .next s

/-- AUDIT_SEND: the receiver sends FREED on SIDE, once it holds a credit there (R389). -/
def execAuditSend (l : LinkDir) (ch : Channel) (s : State) : Res :=
  s.soundChannel l ch fun s =>
    let a := l.src.toNat
    let b := l.dst.toNat
    if ((s.link a b).channel ch).audit.isSome = true ∨ s.linkUp a b = false ∨ (s.link b a).maySend .side = false then .next s
    else .next (((s.setLink b a fun x => x.sendFlit .side).setDie b fun x => x.count (2 + a) 256).setLink a b fun x =>
      x.setChannel ch fun c => { c with audit := some c.freed })

/-- AUDIT_RECEIVE: FK := FREED, and the audit's slot is free again; a parity error starts a retrain (R389). -/
def execAuditReceive (l : LinkDir) (ch : Channel) (parityOk : Bool) (s : State) : Res :=
  s.soundChannel l ch fun s =>
    let a := l.src.toNat
    let b := l.dst.toNat
    match ((s.link a b).channel ch).audit with
    | none => .next s
    | some f =>
      let s := s.setLink b a fun x => x.freeSlots .side 1
      .next (s.setLink a b fun x =>
        let x := x.setChannel ch fun c => { (if parityOk then c.know f else c) with audit := none }
        if parityOk then x else x.startRetrain)

/-- RETRAIN (R390). -/
def execRetrain (l : LinkDir) (s : State) : Res := .next (s.setLink l.src.toNat l.dst.toNat Link.startRetrain)

/-- Every channel's SENT, FK and FREED exchanged afresh, with their parities; an audit that was on its way has nothing to add. -/
def Link.exchange (l : Link) : Link :=
  [Channel.req, .rsp, .bulk, .side].foldl (fun (x : Link) c => x.setChannel c ChannelCounts.exchanged) l

/-- The audits of a link direction that are on their way. -/
def Link.audits (l : Link) : Nat := (([Channel.req, .rsp, .bulk, .side]).filter fun c => (l.channel c).audit.isSome).length

/-- RETRAIN_COMPLETE: the counts are exchanged afresh, the retry buffer is replayed in its order, and traffic goes on; slots that are
held reserved stay so (R390). -/
def execRetrainComplete (l : LinkDir) (s : State) : Res :=
  let a := l.src.toNat
  let b := l.dst.toNat
  let x := s.link a b
  if x.state = .retraining then
    .next ((s.setLink a b fun x => { x.exchange with state := .up }).setLink b a fun y => y.freeSlots .side x.audits)
  else .next s

/-- SLOT_RECLAIM: the receiver of a lost link takes back the slots reserved on it (R391). -/
def execSlotReclaim (l : LinkDir) (ch : Channel) (s : State) : Res :=
  .next (s.setLink l.src.toNat l.dst.toNat fun x => if x.state = .lost then x.setChannel ch fun c => { c with reserved := 0 } else x)

/-! ## A write reaches its home (15 R316, R397, 22 R422) -/

/-- A write of a core leaves the store path. -/
def State.dropPath (s : State) (core k : Nat) : State :=
  s.setCore core fun q => { q with path := q.path.eraseIdx k }

/-- A write is lost: its context learns of the first (R391). -/
def State.loseWrite (s : State) (w : PathWrite) : State :=
  s.modifyCtx w.ctx fun c => if c.state = .running ∧ w.of c = true then { c with lostWrite := some (c.lostWrite.getD w.va) } else c

/-- A write leaves for another package: not before the last of its context to its line has been answered (22 R422). -/
def State.sendRemote (s : State) (core k : Nat) (w : PathWrite) : State :=
  if s.pkg.requests.any fun r => r.ctx == w.ctx && r.launch == w.launch && r.pa / 64 == w.pa / 64 then s
  else (s.dropPath core k).sendPod w.agent w.va w.pa (.write w.data) (.nop 0)

/-- A write that its links have a credit for performs at its home: a flit on REQ over each link of the way, whose slots are then
freed, and the acknowledgement on RSP (R387, R389). -/
def State.performOver (s : State) (a d : Nat) (w : PathWrite) : State :=
  let s := ((s.route a d).getD []).foldl (fun s h =>
    (s.setLink h.1 h.2 fun l => (l.sendFlit .req).freeSlots .req 1).setDie h.1 fun x => x.count (2 + h.2) 256) s
  (if a = d then s else s.carry d a .rsp).performLogged w.agent w.pa w.data w.poison

/-- PERFORM_AT_HOME: the k-th write on a core's store path, if it is the first there to its home, performs at its home (R316). -/
def execPerformAtHome (core : CoreId) (k : Nat) (s : State) : Res :=
  let q := core.toNat
  let path := (s.core q).path
  match path[k]? with
  | none => .next s
  | some w =>
    if (path.take k).any fun x => homeOf x.pa == homeOf w.pa then .next s
    else
      let c := w.agent
      match s.reach c w.pa with
      | .waits _ _ => .next s
      | .fails f =>
        let s := s.dropPath q k
        .next (if region w.pa = .pod then s.storeError c.die c.launch else if f = .linkLost then s.loseWrite w else s)
      | .here =>
        if region w.pa = .pod then .next (s.sendRemote q k w)
        else
          let d := (region w.pa).die?.getD c.die
          if ((s.route c.die d).getD []).all fun h => (s.link h.1 h.2).maySend .req then .next ((s.dropPath q k).performOver c.die d w)
          else .next s

/-! ## A lost link (R391) -/

/-- A link in one state, in both directions. -/
def State.setPair (s : State) (a b : Nat) (x : LinkState) : State :=
  (s.setLink a b fun l => { l with state := x }).setLink b a fun l => { l with state := x }

/-- The rows of a context that waited on the link record LINK_LOST (12 R288); cut is the machine in which the link fails. -/
def State.loseRows (s cut : State) (id : Nat) : State :=
  (s.ctx id).a.vh.foldl (fun s e =>
    let v : VReg := BitVec.ofNat 7 e.1
    match (s.ctx id).rowInFlight v with
    | none => s
    | some r =>
      let still : Bool := match ((s.focus id).arriveRow v).me.row? r.uid r.row with | some x => x == r | none => false
      match ((cut.focus id).arriveRow v).me.row? r.uid r.row with
      | some x => if still && x.faults.any fun f => f.2.1 == .linkLost then s.modifyCtx id fun c => c.setRow x else s
      | none => s) s

/-- The lowest strip, from strip n on, that has not been dispatched, waits for memory, and meets LINK_LOST in the machine in which the
link fails: below any strip that has met an event. -/
def State.lostStrip (s cut : State) (r : Run) (w : Work) : Nat → Nat → Option (StripEval × Nat × Nat)
  | 0, _ => none
  | k + 1, n =>
    let lo := max r.cur (128 * n)
    let hi := min (128 * n + 128) w.len
    if hi ≤ lo then none
    else match r.strips.find? fun t => t.num == n with
      | some t => if t.event.isSome then none else s.lostStrip cut r w k (n + 1)
      | none =>
        match r.carriesInto w n lo with
        | none => none
        | some carries =>
          let x := w.run cut r.view.seq (hi - lo) lo carries
          if ((w.run s r.view.seq (hi - lo) lo carries).stall && x.event.any fun e => e.cause == .linkLost) = true then some (x, n, lo)
          else if w.carried then none
          else s.lostStrip cut r w k (n + 1)

/-- A strip of the moving context that waited on the link meets LINK_LOST at its element (02 R64). -/
def State.loseStrip (s : State) (a b : Nat) : Res :=
  match s.me.run with
  | none => .next s
  | some r =>
    let s := s.decideFormats r
    match s.me.run with
    | none => .next s
    | some r =>
      match s.lostStrip (s.setPair a b .failing) r r.work (r.stripCount - r.cur / 128) (r.cur / 128) with
      | none => .next s
      | some (x, num, lo) =>
        (s.readStrip x).commitStrips { r with strips := insertStrip (s.stripOf x num lo 0 true) r.strips }

/-- A transfer that waited on the link ends on LINK_LOST (15 R320). -/
def State.loseTransfer (s cut : State) (t : Transfer) : State :=
  match t.chunks.find? fun k => !t.landed.contains k with
  | none => s
  | some j =>
    let vas := (s.chunkSources t j).map t.sourceVa
    match (s.gather t.agent vas []).2, (cut.gather t.agent vas []).2 with
    | .waits, .fault .linkLost va => s.endTransfer t Cause.linkLost.code (word va)
    | _, _ => s

/-- The writes of a core whose way goes over the link are lost, the first of each context with a trap. -/
def State.losePath (s : State) (a b core : Nat) : State :=
  let die := dieOfCore core
  let crosses (w : PathWrite) : Bool :=
    ((s.route die ((region w.pa).die?.getD die)).getD []).any fun h => h == (a, b) || h == (b, a)
  (((s.core core).path.filter crosses).foldl State.loseWrite s).setCore core fun q => { q with path := q.path.filter fun w => !crosses w }

/-- LINK_LOST: what waits on the link fails as R391 says, then its traffic takes another way; the package reports it. -/
def execLinkLost (l : LinkDir) (s : State) : Res :=
  let a := l.src.toNat
  let b := l.dst.toNat
  if (s.link a b).state ≠ .retraining ∨ a = b then .next s
  else
    let ids := (s.contexts.filter fun c => !c.nurse && c.state == .running).map fun c => c.id
    let r := ids.foldl (fun s id => s.loseRows (s.setPair a b .failing) id) s
    let r := (r.transfers.filter fun t => t.stalled.isNone).foldl (fun s t => s.loseTransfer (s.setPair a b .failing) t) r
    match r.onEach ids fun s => s.loseStrip a b with
    | .next s =>
      let s := s.cores.foldl (fun s k => s.losePath a b k.1) s
      .next ((s.setPair a b .lost).report .linkLost a (4 * a + b))
    | r => r

/-! ## Memory errors (19 R382) -/

/-- The tenant whose word an address is: the owner of the slice's quad (15 R315), or in DRAM the one under whose key its line stands. -/
def State.ownerOf (s : State) (d pa : Nat) : Option Nat :=
  match region pa with
  | .sram _ n => (List.range 16).find? fun t => ((s.die d).tenant t).valid && bit ((s.die d).tenant t).quads (n / 4)
  | .dram _ =>
    let k := Sparse.get 0 s.keys (pa / 64)
    if k = 0 then none else (List.range 16).find? fun t => ((s.die d).tenant t).valid && ((s.die d).tenant t).key == k
  | _ => none

/-- ECC_ERROR: a corrected error is rewritten in place; an uncorrectable one marks the word poisoned, is logged, and a RAS record
reaches the driver of the tenant whose word it is; the record of a slice's word names its quad (15 R340). -/
def execEccError (pa : Word) (uncorrectable : Bool) (s : State) : Res :=
  let a := pa.toNat
  let at_ := word (a / 8 * 8)
  match (region a).die? with
  | none => .next s
  | some d =>
    if uncorrectable then
      let s := { s with poison := insertNat (a / 8) s.poison }.reportAt .memoryPoisoned d (errorPlace a) at_ noName []
      .next (match s.ownerOf d a with | some t => s.sendRas d t at_ noName | none => s)
    else .next (s.reportAt .memoryCorrected d (errorPlace a) at_ noName [])

/-- SCRUB: every word is read and, where need be, rewritten in place (R382). -/
def execScrub (_die : DieId) (s : State) : Res := .next s

/-! ## Power (R399 to R401) -/

/-- A change of a setting is logged with the new clock, MVLCAP and gate; a change of the gate is reported (R400, R401). -/
def State.powerLog (s : State) (d : Nat) (k : ReportKind) : State :=
  let x := s.die d
  s.reportAt k d 0 0 noName [x.clock, x.mvlcap, x.gate]

/-- POWER_SAMPLE: one step down where a limit is exceeded, one step up where there is room and 50 µs have passed (R400). -/
def execPowerSample (die : DieId) (exceeds riseOk : Bool) (s : State) : Res :=
  let d := die.toNat
  let x := s.die d
  let put (k : ReportKind) (f : Die → Die) : Res := .next ((s.setDie d f).powerLog d k)
  let rise (k : ReportKind) (f : Die → Die) : Res := put k fun y => { f y with lastRise := some s.pkg.tick }
  if exceeds then
    if 16 < x.mvlcap then put .powerStep fun y => { y with mvlcap := y.mvlcap - 16 }
    else if 2000 < x.clock then put .powerStep fun y => { y with clock := y.clock - 100 }
    else if 0 < x.gate then put .gate fun y => { y with gate := y.gate - 1 }
    else .next s
  else if riseOk && (match x.lastRise with | some t => decide (50000 ≤ (s.pkg.tick - t).toNat) | none => true) then
    if x.gate < 16 then rise .gate fun y => { y with gate := y.gate + 1 }
    else if x.clock < x.topClock then rise .powerStep fun y => { y with clock := y.clock + 100 }
    else if x.mvlcap < 64 then rise .powerStep fun y => { y with mvlcap := y.mvlcap + 16 }
    else .next s
  else .next s

/-- RAIL_CUT: every clock of the package stops, and the package reports a power fault (R401). -/
def execRailCut (s : State) : Res := .next ({ s with pkg := { s.pkg with powerCut := true } }.report .powerFault 0 0)

/-! ## Ageing (R402 to R404) -/

/-- A monitor keeps its margin at a clock step of f MHz: one period less its delay, in femtoseconds, is at least 25 ps (R402). -/
def hasMargin (f delay : Nat) : Bool := decide ((delay + 25000) * f ≤ 1000000000)

/-- A reading of a die's 64 monitors: for each voltage, in 5 mV steps, their delays in femtoseconds (R402; DESIGN CHOICE, assumption
log 103). -/
abbrev Readings : Type := List (Nat × List Nat)

/-- All monitors keep their margin at a clock step and a voltage of the rail, 0.50 V to 0.75 V (R399, R402). -/
def Readings.allow (r : Readings) (f v : Nat) : Bool :=
  r.any fun e => e.1 == v && e.2.length == 64 && e.2.all (hasMargin f)

/-- V(f): the lowest voltage at which every monitor keeps its margin, in 5 mV steps (R402). -/
def Readings.voltage (r : Readings) (f : Nat) : Option Nat :=
  ((List.range 51).map fun i => 100 + i).find? fun v => r.allow f v

/-- The plan: V(f) for each clock step from the top clock down to 2.0 GHz that a voltage reaches, the highest first (R402). -/
def Readings.plan (r : Readings) (top : Nat) : List (Nat × Nat) :=
  ((List.range ((top - 2000) / 100 + 1)).map fun i => top - 100 * i).filterMap fun f => (r.voltage f).map fun v => (f, v)

/-- MONITOR_READING: the plan; a lower top clock where no voltage reaches it; or the die is lost and held in reset (R402 to R404). What the
monitors read at each voltage is the event's parameter (DESIGN CHOICE, assumption log 103). -/
def execMonitorReading (die : DieId) (readings : List (Nat × List Nat)) (s : State) : Res :=
  let d := die.toNat
  if (s.die d).inReset then .next s
  else
    let plan := Readings.plan readings (s.die d).topClock
    let s := s.setDie d fun x => { x with plan := plan }
    match plan with
    | [] => .next (((s.loseDie d (readings.flatMap fun e => e.1 :: e.2)).stopNurse d).setDie d fun x => { x with inReset := true })
    | (t, _) :: _ =>
      if t < (s.die d).topClock then
        .next ((s.setDie d fun x => { x with topClock := t, clock := min x.clock t }).report .topClock d t)
      else .next s

/-! ## Waggle samples (R405 to R407) -/

/-- WGCTL as it is written: reserved bits read 0, and a K outside 10 to 24 leaves EN 0. -/
def waggleControl (v : Word) : Word :=
  let v := v &&& 0x11F
  if field v 0 5 < 10 ∨ 24 < field v 0 5 then v &&& 0x1F else v

/-- WAGGLE_CONFIGURE: the waggle registers of every die (R405); ticks up to now are not sampled under them. -/
def execWaggleConfigure (ctl start base slots : Word) (s : State) : Res :=
  .next ((List.range 4).foldl (fun s d => s.setDie d fun x =>
    { x with wgctl := waggleControl ctl, wgstart := start, wgbase := base &&& ~~~0xFFF, wgslots := slots, sampled := some s.pkg.tick }) s)

/-- n bytes of free words, from draw i. -/
def freeBytes (i n : Nat) : List Byte := (List.range n).map fun j => (Config.freeWord (i + j)).setWidth 8

/-- The block of core n: counts of cycles, which are time and free, but for ISSUE, which is 0 where none issued; the name of the context
with the most ISSUE cycles, of those that issued, or all ones (R407; DESIGN CHOICE, assumption log 70). -/
def State.coreBlock (s : State) (d n i : Nat) : List Byte :=
  let ids := (List.range 4).filterMap fun pos =>
    if (s.die d).issuers.contains (ctxidOf (144 * d + n) pos) then some (ctxidOf (144 * d + n) pos) else none
  match ids[Config.freeMember i % (max 1 ids.length)]? with
  | none => zeros 4 ++ freeBytes i 28 ++ List.replicate 32 0xFF
  | some id => leBytes (max 1 ((Config.freeWord i).toNat % 2 ^ 32)) 4 ++ freeBytes (i + 4) 28 ++ s.nameOf (s.ctx id) (s.ctx id).a.pc (-1)

/-- The record of a tick (R406): bytes counted since the last sample in units of 64; the mean power is a free value. -/
def State.waggleRecord (s : State) (d tick i : Nat) : List Byte :=
  let x := s.die d
  let count (k : Nat) : List Byte := leBytes (Sparse.get 0 x.traffic k / 64 % 2 ^ 64) 8
  leBytes tick 8 ++ leBytes d 1 ++ leBytes (field x.wgctl 0 5) 1 ++ leBytes x.topClock 2 ++ zeros 52 ++ count 0 ++ count 1 ++
    ((List.range 4).filter fun e => decide (e ≠ d)).flatMap (fun e => count (2 + e)) ++ count 6 ++ count 7 ++ freeBytes i 4 ++
    leBytes x.clock 2 ++ leBytes x.mvlcap 1 ++ zeros 1 ++ (List.range 144).flatMap fun n => s.coreBlock d n (i + 4 + 32 * n)

/-- The next tick that a die samples: a multiple of 2^K, not below WGSTART, after the last (R406). -/
def Die.sampleDue (x : Die) : Option Nat :=
  if bit x.wgctl 8 then
    let least := max x.wgstart.toNat (match x.sampled with | some t => t.toNat + 1 | none => 0)
    let k := field x.wgctl 0 5
    some ((least + 2 ^ k - 1) / 2 ^ k * 2 ^ k)
  else none

/-- Bytes of a die's DRAM (19 R362). -/
def dieDram : Nat := 0xC00000000

/-- One die's sample of a tick: the record, in its own DRAM at the place that WGBASE names there (DESIGN CHOICE, assumption log 123), and
its counters from 0, with what is less than a unit of 64 bytes kept. -/
def State.sampleDie (s : State) (d tick : Nat) : State :=
  let x := s.die d
  if x.sampleDue = some tick then
    let at_ := d * dieDram + (x.wgbase.toNat + tick / 2 ^ field x.wgctl 0 5 % x.wgslots.toNat * 9344) % dieDram
    let bs := if x.wgslots = 0 then [] else s.waggleRecord d tick s.freeCtr
    { s with mem := Sparse.setRun 0 s.mem at_ bs, poison := writePoison s.poison at_ bs.length false, freeCtr := s.freeCtr + 4612 }.setDie d
      fun x => { x with sampled := some (word tick), issuers := [],
                        traffic := x.traffic.filterMap fun (e : Nat × Nat) => if e.2 % 64 = 0 then none else some (e.1, e.2 % 64) }
  else s

/-- WAGGLE_SAMPLE: every die that samples a tick writes its record, once that tick has come (R406). -/
def execWaggleSample (tick : Word) (s : State) : Res :=
  if tick.toNat ≤ s.pkg.tick.toNat then .next ((List.range 4).foldl (fun s d => s.sampleDie d tick.toNat) s) else .next s

/-! ## Sketch control and the other registers (R408 to R412) -/

/-- SKCTL_WRITE: the array and TOTAL are cleared, and new hash constants are drawn, each a_j odd (R408, R409). -/
def execSkctlWrite (die : DieId) (unit : BitVec 1) (v : Word) (s : State) : Res :=
  let n := s.freeCtr
  let u : Sketch :=
    { ctl := v &&& 0xFF03, counts := [], total := 0,
      consts := (List.range 4).map fun j => (Config.freeWord (n + 2 * j) ||| 1, Config.freeWord (n + 2 * j + 1)) }
  .next ({ s with freeCtr := n + 8 }.setDie die.toNat fun x => { x with sketches := Sparse.set Sketch.reset x.sketches unit.toNat u })

/-- An ownership register as the nurse hands units over: a field changes only when its owner does not run (11 R250, 13 R297);
the units that changed hands. -/
def State.handOver (s : State) (core n : Nat) (old new : Word) : Word × List Nat :=
  let moved := (List.range n).filter fun j =>
    field old (3 * j) 3 != field new (3 * j) 3 &&
      (!bit old (3 * j + 2) || (s.ctx (ctxidOf core (field old (3 * j) 2))).state != .running)
  (moved.foldl (fun w j => setField w (3 * j) 3 (field new (3 * j) 3)) old, moved)

/-- Changes a debug slot. -/
def Die.setSlot (d : Die) (n : Nat) (f : DebugSlot → DebugSlot) : Die :=
  { d with debug := Sparse.set DebugSlot.reset d.debug n (f (Sparse.get DebugSlot.reset d.debug n)) }

/-- A debug slot may be enabled: not for a launch whose MODE.DEBUG is 0 (R410). -/
def Die.mayDebug (d : Die) (ctl : Word) : Bool :=
  !bit ctl 0 || field ctl 12 32 == 0 ||
    d.launches.any fun l => l.seq == field ctl 12 32 && l.kernel.mode.testBit 0

/-- REGISTER_WRITE: the ownership registers (11 R249, 13 R297), the debug slots (R410) and the trace ring (R412). -/
def execRegisterWrite (die : DieId) (reg : HwReg) (v : Word) (s : State) : Res :=
  let d := die.toNat
  match reg with
  | .cbown k =>
    if k.toNat / 144 ≠ d then .next s
    else
      let (w, moved) := s.handOver k.toNat 16 (s.core k.toNat).cbown v
      .next (s.setCore k.toNat fun q =>
        { q with cbown := w, banks := moved.foldl (fun m j => Sparse.set Bank.reset m j Bank.reset) q.banks })
  | .cvown k =>
    if k.toNat / 144 ≠ d then .next s
    else
      let (w, moved) := s.handOver k.toNat 2 (s.core k.toNat).cvown v
      .next (s.setCore k.toNat fun q =>
        { q with cvown := w, covs := moved.foldl (fun m j => Sparse.set Cov.reset m j Cov.reset) q.covs })
  | .wpctl n => if (s.die d).mayDebug v then .next (s.setDie d fun x => x.setSlot n.toNat fun w => { w with ctl := v &&& 0xFFFFFFFFF1F }) else .next s
  | .wpbase n => .next (s.setDie d fun x => x.setSlot n.toNat fun w => { w with base := v })
  | .wplen n => .next (s.setDie d fun x => x.setSlot n.toNat fun w => { w with len := v })
  | .trbase => .next (s.setDie d fun x => { x with trbase := v })
  | .trslots => .next (s.setDie d fun x => { x with trslots := v })

/-! ## Boot (22 R432) -/

/-- A nurse core at the start of its firmware; where that is the spec does not say (DESIGN CHOICE, assumption log 36). -/
def bootNurse (d : Nat) (pc : Word) : Ctx :=
  let c := Ctx.vacant (4096 + d)
  { c with state := .running, a := { c.a with pc := pc } }

/-- A digest that nothing constrains, from draw i. -/
def freeDigest (i : Nat) : BitVec 256 := Config.freeWord i ++ Config.freeWord (i + 1) ++ Config.freeWord (i + 2) ++ Config.freeWord (i + 3)

/-- BOOT: the boot ROM of a die in reset checks the firmware; a die whose check fails stays in reset and is reported (R432). -/
def execBoot (die : DieId) (ok : Bool) (s : State) : Res :=
  let d := die.toNat
  if (s.die d).inReset = false then .next s
  else if ok then
    let s1 := s.setDie d fun x =>
      { x with inReset := false, lost := false, topClock := 3600, clock := 3600, fwRoot := Config.freeWord (s.freeCtr + 1),
               firmware := freeDigest (s.freeCtr + 2) }
    .next ({ s1 with freeCtr := s.freeCtr + 6 }.modifyCtx (4096 + d) fun _ => bootNurse d (Config.freeWord s.freeCtr))
  else .next (s.report .bootFailed d 0)

end Sys2Proof.Machine
end

