-- ==== Sys2Proof/Machine/Scalar.lean ====
section
/-!
DEFINITION. Integer arithmetic on scalar registers (05 R126 to R133).
-/

namespace Sys2Proof.Machine

/-! ## Shapes (05 R126) -/

/-- d := f of a and b. -/
def State.scalar3 (s : State) (d a b : SReg) (f : Word → Word → Word) : Res :=
  s.reading [a, b] fun s => .next (s.setReg d (f (s.reg a) (s.reg b))).retire

/-- d := f of a. -/
def State.scalar2 (s : State) (d a : SReg) (f : Word → Word) : Res :=
  s.reading [a] fun s => .next (s.setReg d (f (s.reg a))).retire

/-- d := f of the old d, and of a. -/
def State.scalarOld (s : State) (d a : SReg) (f : Word → Word → Word) : Res :=
  s.reading [d, a] fun s => .next (s.setReg d (f (s.reg d) (s.reg a))).retire

/-! ## The three-register instructions (05 R129) -/

/-- The shift amount of a register: its six low bits. -/
def shiftOf (y : Word) : Nat := y.toNat % 64

/-- Left, logical right and arithmetic right shifts. -/
def shlWord (x : Word) (n : Nat) : Word := x <<< n
@[inherit_doc shlWord] def shrWord (x : Word) (n : Nat) : Word := x >>> n
@[inherit_doc shlWord] def sraWord (x : Word) (n : Nat) : Word := x.sshiftRight n

/-- Bits 127 to 64 of the signed product. -/
def mulhSigned (x y : Word) : Word := wordOfInt (x.toInt * y.toInt / (2 ^ 64 : Nat))

/-- Bits 127 to 64 of the unsigned product. -/
def mulhUnsigned (x y : Word) : Word := word (x.toNat * y.toNat / 2 ^ 64)

/-- div.s: the quotient of -2^63 by -1 wraps to -2^63. -/
def divSigned (x y : Word) : Word := if y = 0 then -1 else wordOfInt (x.toInt.tdiv y.toInt)

/-- div.z. -/
def divUnsigned (x y : Word) : Word := if y = 0 then -1 else word (x.toNat / y.toNat)

/-- rem.s: the remainder has the sign of the dividend. -/
def remSigned (x y : Word) : Word := if y = 0 then x else wordOfInt (x.toInt.tmod y.toInt)

/-- rem.z. -/
def remUnsigned (x y : Word) : Word := if y = 0 then x else word (x.toNat % y.toNat)

/-- add (R129). -/
def execAdd (d a b : SReg) (s : State) : Res := s.scalar3 d a b fun x y => x + y
/-- sub (R129). -/
def execSub (d a b : SReg) (s : State) : Res := s.scalar3 d a b fun x y => x - y
/-- and (R129). -/
def execAnd (d a b : SReg) (s : State) : Res := s.scalar3 d a b fun x y => x &&& y
/-- or (R129). -/
def execOr (d a b : SReg) (s : State) : Res := s.scalar3 d a b fun x y => x ||| y
/-- xor (R129). -/
def execXor (d a b : SReg) (s : State) : Res := s.scalar3 d a b fun x y => x ^^^ y
/-- shl (R129). -/
def execShl (d a b : SReg) (s : State) : Res := s.scalar3 d a b fun x y => shlWord x (shiftOf y)
/-- shr (R129). -/
def execShr (d a b : SReg) (s : State) : Res := s.scalar3 d a b fun x y => shrWord x (shiftOf y)
/-- sra (R129). -/
def execSra (d a b : SReg) (s : State) : Res := s.scalar3 d a b fun x y => sraWord x (shiftOf y)
/-- slt (R129). -/
def execSlt (d a b : SReg) (s : State) : Res := s.scalar3 d a b fun x y => wordOfBool (x.slt y)
/-- sltn (R129). -/
def execSltn (d a b : SReg) (s : State) : Res := s.scalar3 d a b fun x y => wordOfBool (x.ult y)
/-- min.s (R129). -/
def execMinS (d a b : SReg) (s : State) : Res := s.scalar3 d a b fun x y => if x.slt y then x else y
/-- min.z (R129). -/
def execMinZ (d a b : SReg) (s : State) : Res := s.scalar3 d a b fun x y => if x.ult y then x else y
/-- max.s (R129). -/
def execMaxS (d a b : SReg) (s : State) : Res := s.scalar3 d a b fun x y => if x.slt y then y else x
/-- max.z (R129). -/
def execMaxZ (d a b : SReg) (s : State) : Res := s.scalar3 d a b fun x y => if x.ult y then y else x
/-- mul (R129). -/
def execMul (d a b : SReg) (s : State) : Res := s.scalar3 d a b fun x y => x * y
/-- mulh.s (R129). -/
def execMulhS (d a b : SReg) (s : State) : Res := s.scalar3 d a b mulhSigned
/-- mulh.z (R129). -/
def execMulhZ (d a b : SReg) (s : State) : Res := s.scalar3 d a b mulhUnsigned
/-- div.s (R129). -/
def execDivS (d a b : SReg) (s : State) : Res := s.scalar3 d a b divSigned
/-- div.z (R129). -/
def execDivZ (d a b : SReg) (s : State) : Res := s.scalar3 d a b divUnsigned
/-- rem.s (R129). -/
def execRemS (d a b : SReg) (s : State) : Res := s.scalar3 d a b remSigned
/-- rem.z (R129). -/
def execRemZ (d a b : SReg) (s : State) : Res := s.scalar3 d a b remUnsigned

/-! ## Immediates (05 R130, R133) -/

/-- addi (R130). -/
def execAddi (d a : SReg) (imm : BitVec 11) (s : State) : Res := s.scalar2 d a fun x => x + imm.signExtend 64
/-- andi (R130). -/
def execAndi (d a : SReg) (imm : BitVec 11) (s : State) : Res := s.scalar2 d a fun x => x &&& imm.setWidth 64
/-- ori (R130). -/
def execOri (d a : SReg) (imm : BitVec 11) (s : State) : Res := s.scalar2 d a fun x => x ||| imm.setWidth 64
/-- xori (R130). -/
def execXori (d a : SReg) (imm : BitVec 11) (s : State) : Res := s.scalar2 d a fun x => x ^^^ imm.setWidth 64
/-- shli (R130). -/
def execShli (d a : SReg) (sh : BitVec 6) (s : State) : Res := s.scalar2 d a fun x => shlWord x sh.toNat
/-- shri (R130). -/
def execShri (d a : SReg) (sh : BitVec 6) (s : State) : Res := s.scalar2 d a fun x => shrWord x sh.toNat
/-- srai (R130). -/
def execSrai (d a : SReg) (sh : BitVec 6) (s : State) : Res := s.scalar2 d a fun x => sraWord x sh.toNat

/-- sext(imm) times 2^11 (R133). -/
def upperImm (imm : BitVec 18) : Word := imm.signExtend 64 <<< 11

/-- lui (R133). -/
def execLui (d : SReg) (imm : BitVec 18) (s : State) : Res := .next (s.setReg d (upperImm imm)).retire
/-- pcadd: PC is the address of the pcadd itself (R133). -/
def execPcadd (d : SReg) (imm : BitVec 18) (s : State) : Res := .next (s.setReg d (s.me.a.ipc + upperImm imm)).retire

/-! ## Unary instructions and fsh (05 R131) -/

/-- Leading zero bits, 64 for zero. -/
def leadingZeros (x : Word) : Word := if x = 0 then 64 else word (63 - Nat.log2 x.toNat)

/-- Trailing zero bits, 64 for zero. -/
def trailingZeros (x : Word) : Word := word (((List.range 64).find? fun i => x.getLsbD i).getD 64)

/-- Bytes in reverse order. -/
def byteSwap (x : Word) : Word := word (leNat (leBytes x.toNat 8).reverse)

/-- fsh: 64 bits of the pair a:d from a bit on. -/
def funnel (old a b : Word) : Word := word ((a.toNat * 2 ^ 64 + old.toNat) / 2 ^ shiftOf b)

/-- clz (R131). -/
def execClz (d a : SReg) (s : State) : Res := s.scalar2 d a leadingZeros
/-- ctz (R131). -/
def execCtz (d a : SReg) (s : State) : Res := s.scalar2 d a trailingZeros
/-- popc (R131). -/
def execPopc (d a : SReg) (s : State) : Res := s.scalar2 d a fun x => word (popCount 64 x.toNat)
/-- bswap (R131). -/
def execBswap (d a : SReg) (s : State) : Res := s.scalar2 d a byteSwap
/-- fsh (R131). -/
def execFsh (d a b : SReg) (s : State) : Res :=
  s.reading [d, a, b] fun s => .next (s.setReg d (funnel (s.reg d) (s.reg a) (s.reg b))).retire

/-! ## Bit fields (05 R132) -/

/-- bfx.z (R132). -/
def execBfxZ (d a : SReg) (pos : BitVec 6) (len : BitVec 5) (s : State) : Res :=
  s.scalar2 d a fun x => word (field x pos.toNat (len.toNat + 1))
/-- bfx.s (R132). -/
def execBfxS (d a : SReg) (pos : BitVec 6) (len : BitVec 5) (s : State) : Res :=
  s.scalar2 d a fun x => wordOfInt (signedOf (len.toNat + 1) (field x pos.toNat (len.toNat + 1)))
/-- bfi (R132). -/
def execBfi (d a : SReg) (pos : BitVec 6) (len : BitVec 5) (s : State) : Res :=
  s.scalarOld d a fun old x => setField old pos.toNat (len.toNat + 1) x.toNat

end Sys2Proof.Machine
end

