-- ==== Sys2Proof/Machine/Dispatch.lean ====
section
/-!
DEFINITION. Which meaning each instruction and each happening has: one arm for each constructor of Instr.
-/

namespace Sys2Proof.Machine

/-- The meaning of an instruction or happening. -/
def exec (i : Instr) (s : State) : Host.Outcome State Fault Refusal :=
  match i with
  | .add d a b => Sys2Proof.Machine.execAdd d a b s
  | .sub d a b => Sys2Proof.Machine.execSub d a b s
  | .and d a b => Sys2Proof.Machine.execAnd d a b s
  | .or d a b => Sys2Proof.Machine.execOr d a b s
  | .xor d a b => Sys2Proof.Machine.execXor d a b s
  | .shl d a b => Sys2Proof.Machine.execShl d a b s
  | .shr d a b => Sys2Proof.Machine.execShr d a b s
  | .sra d a b => Sys2Proof.Machine.execSra d a b s
  | .slt d a b => Sys2Proof.Machine.execSlt d a b s
  | .sltn d a b => Sys2Proof.Machine.execSltn d a b s
  | .minS d a b => Sys2Proof.Machine.execMinS d a b s
  | .minZ d a b => Sys2Proof.Machine.execMinZ d a b s
  | .maxS d a b => Sys2Proof.Machine.execMaxS d a b s
  | .maxZ d a b => Sys2Proof.Machine.execMaxZ d a b s
  | .mul d a b => Sys2Proof.Machine.execMul d a b s
  | .mulhS d a b => Sys2Proof.Machine.execMulhS d a b s
  | .mulhZ d a b => Sys2Proof.Machine.execMulhZ d a b s
  | .divS d a b => Sys2Proof.Machine.execDivS d a b s
  | .divZ d a b => Sys2Proof.Machine.execDivZ d a b s
  | .remS d a b => Sys2Proof.Machine.execRemS d a b s
  | .remZ d a b => Sys2Proof.Machine.execRemZ d a b s
  | .clz d a => Sys2Proof.Machine.execClz d a s
  | .ctz d a => Sys2Proof.Machine.execCtz d a s
  | .popc d a => Sys2Proof.Machine.execPopc d a s
  | .bswap d a => Sys2Proof.Machine.execBswap d a s
  | .fsh d a b => Sys2Proof.Machine.execFsh d a b s
  | .addi d a imm => Sys2Proof.Machine.execAddi d a imm s
  | .andi d a imm => Sys2Proof.Machine.execAndi d a imm s
  | .ori d a imm => Sys2Proof.Machine.execOri d a imm s
  | .xori d a imm => Sys2Proof.Machine.execXori d a imm s
  | .shli d a sh => Sys2Proof.Machine.execShli d a sh s
  | .shri d a sh => Sys2Proof.Machine.execShri d a sh s
  | .srai d a sh => Sys2Proof.Machine.execSrai d a sh s
  | .bfxZ d a pos len => Sys2Proof.Machine.execBfxZ d a pos len s
  | .bfxS d a pos len => Sys2Proof.Machine.execBfxS d a pos len s
  | .bfi d a pos len => Sys2Proof.Machine.execBfi d a pos len s
  | .lui d imm => Sys2Proof.Machine.execLui d imm s
  | .pcadd d imm => Sys2Proof.Machine.execPcadd d imm s
  | .fadd d a b => Sys2Proof.Machine.execFadd d a b s
  | .fsub d a b => Sys2Proof.Machine.execFsub d a b s
  | .fmul d a b => Sys2Proof.Machine.execFmul d a b s
  | .fdiv d a b => Sys2Proof.Machine.execFdiv d a b s
  | .fmin d a b => Sys2Proof.Machine.execFmin d a b s
  | .fmax d a b => Sys2Proof.Machine.execFmax d a b s
  | .fsqrt d a => Sys2Proof.Machine.execFsqrt d a s
  | .fma d a b => Sys2Proof.Machine.execFma d a b s
  | .fcmpEq d a b => Sys2Proof.Machine.execFcmpEq d a b s
  | .fcmpLt d a b => Sys2Proof.Machine.execFcmpLt d a b s
  | .fcmpLe d a b => Sys2Proof.Machine.execFcmpLe d a b s
  | .fcmpUn d a b => Sys2Proof.Machine.execFcmpUn d a b s
  | .fcvtFromF32 t d a => Sys2Proof.Machine.execFcvtFromF32 t d a s
  | .fcvtToF32 t d a => Sys2Proof.Machine.execFcvtToF32 t d a s
  | .ldb sx acq off base d => Sys2Proof.Machine.execLdb sx acq off base d s
  | .ldh sx acq off base d => Sys2Proof.Machine.execLdh sx acq off base d s
  | .ldw sx acq off base d => Sys2Proof.Machine.execLdw sx acq off base d s
  | .ldd acq off base d => Sys2Proof.Machine.execLdd acq off base d s
  | .stb rel off base d => Sys2Proof.Machine.execStb rel off base d s
  | .sth rel off base d => Sys2Proof.Machine.execSth rel off base d s
  | .stw rel off base d => Sys2Proof.Machine.execStw rel off base d s
  | .std rel off base d => Sys2Proof.Machine.execStd rel off base d s
  | .fence o sc => Sys2Proof.Machine.execFence o sc s
  | .amoadd o sc wd val base d => Sys2Proof.Machine.execAmoadd o sc wd val base d s
  | .amoswp o sc wd val base d => Sys2Proof.Machine.execAmoswp o sc wd val base d s
  | .amocas o sc wd val base d => Sys2Proof.Machine.execAmocas o sc wd val base d s
  | .amominS o sc wd val base d => Sys2Proof.Machine.execAmominS o sc wd val base d s
  | .amominZ o sc wd val base d => Sys2Proof.Machine.execAmominZ o sc wd val base d s
  | .amomaxS o sc wd val base d => Sys2Proof.Machine.execAmomaxS o sc wd val base d s
  | .amomaxZ o sc wd val base d => Sys2Proof.Machine.execAmomaxZ o sc wd val base d s
  | .amoand o sc wd val base d => Sys2Proof.Machine.execAmoand o sc wd val base d s
  | .amoor o sc wd val base d => Sys2Proof.Machine.execAmoor o sc wd val base d s
  | .amoxor o sc wd val base d => Sys2Proof.Machine.execAmoxor o sc wd val base d s
  | .beq a b off => Sys2Proof.Machine.execBeq a b off s
  | .bne a b off => Sys2Proof.Machine.execBne a b off s
  | .blt a b off => Sys2Proof.Machine.execBlt a b off s
  | .bge a b off => Sys2Proof.Machine.execBge a b off s
  | .bltn a b off => Sys2Proof.Machine.execBltn a b off s
  | .bgen a b off => Sys2Proof.Machine.execBgen a b off s
  | .jal d off => Sys2Proof.Machine.execJal d off s
  | .jalr d a imm => Sys2Proof.Machine.execJalr d a imm s
  | .wcall n off => Sys2Proof.Machine.execWcall n off s
  | .wret n => Sys2Proof.Machine.execWret n s
  | .winb n => Sys2Proof.Machine.execWinb n s
  | .rep st cnt fm => Sys2Proof.Machine.execRep st cnt fm s
  | .bkany k off => Sys2Proof.Machine.execBkany k off s
  | .bknone k off => Sys2Proof.Machine.execBknone k off s
  | .csrr d n => Sys2Proof.Machine.execCsrr d n s
  | .csrw d a n => Sys2Proof.Machine.execCsrw d a n s
  | .csrset d a n => Sys2Proof.Machine.execCsrset d a n s
  | .csrclr d a n => Sys2Proof.Machine.execCsrclr d a n s
  | .trap a => Sys2Proof.Machine.execTrap a s
  | .wfe a => Sys2Proof.Machine.execWfe a s
  | .tlbinv a b => Sys2Proof.Machine.execTlbinv a b s
  | .dcinv a b => Sys2Proof.Machine.execDcinv a b s
  | .freeze d a b => Sys2Proof.Machine.execFreeze d a b s
  | .launch d a b => Sys2Proof.Machine.execLaunch d a b s
  | .lwait d a => Sys2Proof.Machine.execLwait d a s
  | .vadd f m d a b => Sys2Proof.Machine.execVadd f m d a b s
  | .vsub f m d a b => Sys2Proof.Machine.execVsub f m d a b s
  | .vmul f m d a b => Sys2Proof.Machine.execVmul f m d a b s
  | .vdiv f m d a b => Sys2Proof.Machine.execVdiv f m d a b s
  | .vmin f m d a b => Sys2Proof.Machine.execVmin f m d a b s
  | .vmax f m d a b => Sys2Proof.Machine.execVmax f m d a b s
  | .vfma f m d a b => Sys2Proof.Machine.execVfma f m d a b s
  | .vfms f m d a b => Sys2Proof.Machine.execVfms f m d a b s
  | .vsqrt m d a => Sys2Proof.Machine.execVsqrt m d a s
  | .vabs m d a => Sys2Proof.Machine.execVabs m d a s
  | .vneg m d a => Sys2Proof.Machine.execVneg m d a s
  | .vrcp m d a => Sys2Proof.Machine.execVrcp m d a s
  | .vrsq m d a => Sys2Proof.Machine.execVrsq m d a s
  | .vexp2 m d a => Sys2Proof.Machine.execVexp2 m d a s
  | .vlog2 m d a => Sys2Proof.Machine.execVlog2 m d a s
  | .vtanh m d a => Sys2Proof.Machine.execVtanh m d a s
  | .vsigm m d a => Sys2Proof.Machine.execVsigm m d a s
  | .vand f m d a b => Sys2Proof.Machine.execVand f m d a b s
  | .vor f m d a b => Sys2Proof.Machine.execVor f m d a b s
  | .vxor f m d a b => Sys2Proof.Machine.execVxor f m d a b s
  | .vshl f m d a b => Sys2Proof.Machine.execVshl f m d a b s
  | .vshr f m d a b => Sys2Proof.Machine.execVshr f m d a b s
  | .vsra f m d a b => Sys2Proof.Machine.execVsra f m d a b s
  | .vmulh f m d a b => Sys2Proof.Machine.execVmulh f m d a b s
  | .vcmp f m cc kd a b => Sys2Proof.Machine.execVcmp f m cc kd a b s
  | .vsel f d a b => Sys2Proof.Machine.execVsel f d a b s
  | .vcvt t m d a => Sys2Proof.Machine.execVcvt t m d a s
  | .vscl f m d a b => Sys2Proof.Machine.execVscl f m d a b s
  | .vblk g m d a => Sys2Proof.Machine.execVblk g m d a s
  | .vrngRaw m d a => Sys2Proof.Machine.execVrngRaw m d a s
  | .vrngUnif m d a => Sys2Proof.Machine.execVrngUnif m d a s
  | .setvli d a req => Sys2Proof.Machine.execSetvli d a req s
  | .setvl d a b => Sys2Proof.Machine.execSetvl d a b s
  | .setel a => Sys2Proof.Machine.execSetel a s
  | .vforce d => Sys2Proof.Machine.execVforce d s
  | .deadScalar d a => Sys2Proof.Machine.execDeadScalar d a s
  | .deadVector d a => Sys2Proof.Machine.execDeadVector d a s
  | .deadMask d a => Sys2Proof.Machine.execDeadMask d a s
  | .kmeet d a b => Sys2Proof.Machine.execKmeet d a b s
  | .kjoin d a b => Sys2Proof.Machine.execKjoin d a b s
  | .kdiff d a b => Sys2Proof.Machine.execKdiff d a b s
  | .kless d a b => Sys2Proof.Machine.execKless d a b s
  | .kflip d a => Sys2Proof.Machine.execKflip d a s
  | .kcopy d a => Sys2Proof.Machine.execKcopy d a s
  | .kmsk d a => Sys2Proof.Machine.execKmsk d a s
  | .kset d a => Sys2Proof.Machine.execKset d a s
  | .kpop d a => Sys2Proof.Machine.execKpop d a s
  | .kfirst d a => Sys2Proof.Machine.execKfirst d a s
  | .vld m d base x => Sys2Proof.Machine.execVld m d base x s
  | .vlds m d base x => Sys2Proof.Machine.execVlds m d base x s
  | .vldx m d base x => Sys2Proof.Machine.execVldx m d base x s
  | .vldb m d base x => Sys2Proof.Machine.execVldb m d base x s
  | .vst m d base x => Sys2Proof.Machine.execVst m d base x s
  | .vsts m d base x => Sys2Proof.Machine.execVsts m d base x s
  | .vstx m d base x => Sys2Proof.Machine.execVstx m d base x s
  | .vext d a b => Sys2Proof.Machine.execVext d a b s
  | .vslup m d a b => Sys2Proof.Machine.execVslup m d a b s
  | .vsldn m d a b => Sys2Proof.Machine.execVsldn m d a b s
  | .vperm m d a b => Sys2Proof.Machine.execVperm m d a b s
  | .vcmpr m d a => Sys2Proof.Machine.execVcmpr m d a s
  | .vexpd m d a => Sys2Proof.Machine.execVexpd m d a s
  | .vscan op m d a => Sys2Proof.Machine.execVscan op m d a s
  | .vrsumo m d a => Sys2Proof.Machine.execVrsumo m d a s
  | .vrsumt m d a => Sys2Proof.Machine.execVrsumt m d a s
  | .vrmax m d a => Sys2Proof.Machine.execVrmax m d a s
  | .vrmin m d a => Sys2Proof.Machine.execVrmin m d a s
  | .vrargx m d a => Sys2Proof.Machine.execVrargx m d a s
  | .vrbit op m d a => Sys2Proof.Machine.execVrbit op m d a s
  | .vpart d a => Sys2Proof.Machine.execVpart d a s
  | .vlpld m d a b => Sys2Proof.Machine.execVlpld m d a b s
  | .vlpst m d a b => Sys2Proof.Machine.execVlpst m d a b s
  | .vlpstB m d b => Sys2Proof.Machine.execVlpstB m d b s
  | .cbld d a b => Sys2Proof.Machine.execCbld d a b s
  | .cbst d a b => Sys2Proof.Machine.execCbst d a b s
  | .cbwr d a b => Sys2Proof.Machine.execCbwr d a b s
  | .cbrd d a b => Sys2Proof.Machine.execCbrd d a b s
  | .cbval d a b => Sys2Proof.Machine.execCbval d a b s
  | .cbselB d => Sys2Proof.Machine.execCbselB d s
  | .cbselM d => Sys2Proof.Machine.execCbselM d s
  | .vcbx d a b => Sys2Proof.Machine.execVcbx d a b s
  | .comba c acc a b => Sys2Proof.Machine.execComba c acc a b s
  | .combs c acc a b => Sys2Proof.Machine.execCombs c acc a b s
  | .combi acc a b => Sys2Proof.Machine.execCombi acc a b s
  | .msetvl d a => Sys2Proof.Machine.execMsetvl d a s
  | .mzero d => Sys2Proof.Machine.execMzero d s
  | .mrdr d a b => Sys2Proof.Machine.execMrdr d a b s
  | .mrdc d a b => Sys2Proof.Machine.execMrdc d a b s
  | .mwrr d a b => Sys2Proof.Machine.execMwrr d a b s
  | .mld d a b => Sys2Proof.Machine.execMld d a b s
  | .mst d a b => Sys2Proof.Machine.execMst d a b s
  | .smode d a => Sys2Proof.Machine.execSmode d a s
  | .sexit d => Sys2Proof.Machine.execSexit d s
  | .sprog d a => Sys2Proof.Machine.execSprog d a s
  | .cvset d a b => Sys2Proof.Machine.execCvset d a b s
  | .cvwt d a => Sys2Proof.Machine.execCvwt d a s
  | .cvprb d a b => Sys2Proof.Machine.execCvprb d a b s
  | .cvprbb d a n b => Sys2Proof.Machine.execCvprbb d a n b s
  | .cvcom d a => Sys2Proof.Machine.execCvcom d a s
  | .cvsel d a b => Sys2Proof.Machine.execCvsel d a b s
  | .cvrd d a b => Sys2Proof.Machine.execCvrd d a b s
  | .bxfer g d a b => Sys2Proof.Machine.execBxfer g d a b s
  | .bbini a b => Sys2Proof.Machine.execBbini a b s
  | .bbexp a b => Sys2Proof.Machine.execBbexp a b s
  | .bbarv a b => Sys2Proof.Machine.execBbarv a b s
  | .bbwait d a b => Sys2Proof.Machine.execBbwait d a b s
  | .bbtest d a b => Sys2Proof.Machine.execBbtest d a b s
  | .vldc m d base x => Sys2Proof.Machine.execVldc m d base x s
  | .bar sc => Sys2Proof.Machine.execBar sc s
  | .bind d a b => Sys2Proof.Machine.execBind d a b s
  | .unbind a => Sys2Proof.Machine.execUnbind a s
  | .nop h => Sys2Proof.Machine.execNop h s
  | .passTake c => Sys2Proof.Machine.execPassTake c s
  | .stripDispatch core g => Sys2Proof.Machine.execStripDispatch core g s
  | .stripFinish core g => Sys2Proof.Machine.execStripFinish core g s
  | .sinkComplete c => Sys2Proof.Machine.execSinkComplete c s
  | .implicitMaterialisation c => Sys2Proof.Machine.execImplicitMaterialisation c s
  | .coreParityError core e => Sys2Proof.Machine.execCoreParityError core e s
  | .combStepCommit c => Sys2Proof.Machine.execCombStepCommit c s
  | .streamRowFetch c v => Sys2Proof.Machine.execStreamRowFetch c v s
  | .streamRowArrive c v => Sys2Proof.Machine.execStreamRowArrive c v s
  | .pageWalk c va write => Sys2Proof.Machine.execPageWalk c va write s
  | .foragerLaunch c => Sys2Proof.Machine.execForagerLaunch c s
  | .foragerChunkLand x chunk => Sys2Proof.Machine.execForagerChunkLand x chunk s
  | .barEpisodeComplete c => Sys2Proof.Machine.execBarEpisodeComplete c s
  | .bbwaitComplete c => Sys2Proof.Machine.execBbwaitComplete c s
  | .wfeWake c => Sys2Proof.Machine.execWfeWake c s
  | .wfeTimeout c => Sys2Proof.Machine.execWfeTimeout c s
  | .yieldComplete c => Sys2Proof.Machine.execYieldComplete c s
  | .meshFlitResend core dir => Sys2Proof.Machine.execMeshFlitResend core dir s
  | .meshLinkFail core dir => Sys2Proof.Machine.execMeshLinkFail core dir s
  | .foragerBufferParity x chunk => Sys2Proof.Machine.execForagerBufferParity x chunk s
  | .barrierWireParity c => Sys2Proof.Machine.execBarrierWireParity c s
  | .eccError pa uncorrectable => Sys2Proof.Machine.execEccError pa uncorrectable s
  | .launchPlace die => Sys2Proof.Machine.execLaunchPlace die s
  | .complete die seq => Sys2Proof.Machine.execComplete die seq s
  | .nurseFailure die => Sys2Proof.Machine.execNurseFailure die s
  | .launchMessage die tenant msg => Sys2Proof.Machine.execLaunchMessage die tenant msg s
  | .answer die tenant msg => Sys2Proof.Machine.execAnswer die tenant msg s
  | .freezeMessage die tenant msg => Sys2Proof.Machine.execFreezeMessage die tenant msg s
  | .tenantCreate tenant dies => Sys2Proof.Machine.execTenantCreate tenant dies s
  | .tenantTeardown die tenant => Sys2Proof.Machine.execTenantTeardown die tenant s
  | .tenantRecordWrite die tenant field value => Sys2Proof.Machine.execTenantRecordWrite die tenant field value s
  | .podRequestAccept ptid offset access => Sys2Proof.Machine.execPodRequestAccept ptid offset access s
  | .podAck req ok data => Sys2Proof.Machine.execPodAck req ok data s
  | .podTimeout req => Sys2Proof.Machine.execPodTimeout req s
  | .performAtHome core k => Sys2Proof.Machine.execPerformAtHome core k s
  | .scrub die => Sys2Proof.Machine.execScrub die s
  | .dirty die tenant msg => Sys2Proof.Machine.execDirty die tenant msg s
  | .attest die tenant msg => Sys2Proof.Machine.execAttest die tenant msg s
  | .podidWrite value => Sys2Proof.Machine.execPodidWrite value s
  | .grantWrite tenant cmd => Sys2Proof.Machine.execGrantWrite tenant cmd s
  | .linkGraphWrite tenant graph bytes => Sys2Proof.Machine.execLinkGraphWrite tenant graph bytes s
  | .waggleConfigure ctl start base slots => Sys2Proof.Machine.execWaggleConfigure ctl start base slots s
  | .skctlWrite die unit value => Sys2Proof.Machine.execSkctlWrite die unit value s
  | .registerWrite die reg value => Sys2Proof.Machine.execRegisterWrite die reg value s
  | .waggleSample tick => Sys2Proof.Machine.execWaggleSample tick s
  | .linkCrcError l seq => Sys2Proof.Machine.execLinkCrcError l seq s
  | .slotReturn l ch k => Sys2Proof.Machine.execSlotReturn l ch k s
  | .auditSend l ch => Sys2Proof.Machine.execAuditSend l ch s
  | .auditReceive l ch parityOk => Sys2Proof.Machine.execAuditReceive l ch parityOk s
  | .retrain l => Sys2Proof.Machine.execRetrain l s
  | .retrainComplete l => Sys2Proof.Machine.execRetrainComplete l s
  | .linkLost l => Sys2Proof.Machine.execLinkLost l s
  | .slotReclaim l ch => Sys2Proof.Machine.execSlotReclaim l ch s
  | .powerSample die exceeds riseOk => Sys2Proof.Machine.execPowerSample die exceeds riseOk s
  | .monitorReading die readings => Sys2Proof.Machine.execMonitorReading die readings s
  | .boot die signatureOk => Sys2Proof.Machine.execBoot die signatureOk s
  | .flitAcknowledgement l seq => Sys2Proof.Machine.execFlitAcknowledgement l seq s
  | .eret => Sys2Proof.Machine.execEret s
  | .yield => Sys2Proof.Machine.execYield s
  | .brk => Sys2Proof.Machine.execBrk s
  | .dcwb => Sys2Proof.Machine.execDcwb s
  | .halt => Sys2Proof.Machine.execHalt s
  | .cbselNb => Sys2Proof.Machine.execCbselNb s
  | .cbselNm => Sys2Proof.Machine.execCbselNm s
  | .cbfence => Sys2Proof.Machine.execCbfence s
  | .railCut => Sys2Proof.Machine.execRailCut s
  | .undefinedWord => Sys2Proof.Machine.execUndefinedWord s
  | .fetchFault => Sys2Proof.Machine.execFetchFault s

end Sys2Proof.Machine
end

