-- ==== Sys2Proof/Machine/Sequence.lean ====
section
/-!
DEFINITION. What one step does: the agent that moves issues an instruction, or goes on with what it waits for; or the turn
that is listed is taken (DESIGN CHOICE, assumption log 3). The fetch stands here (04 R102, 05 R127, R152, 21 R411).
-/

namespace Sys2Proof.Machine

/-! ## Issue -/

/-- The word at the address that issues: under a rep, the prefixed word with its fields moved on (04 R119). -/
def State.issueWord (s : State) (w : Nat) : Nat :=
  match s.me.a.rep with
  | none => w
  | some r => repWord w r.st r.fm s.me.a.csr.repDone

/-- A fetch that a draw decided (05 R152, 22 R421). -/
def State.fetchDrew (s : State) (pa : Nat) : Bool :=
  let old := match (s.die s.me.die).launch? s.me.launch with | some l => l.old | none => []
  region pa == .pod || (List.range 4).any fun j => (oldByte old (pa + j)).isSome

/-- What a fetch leaves beside its word, once for each instruction that issues: a trace record where it hits a slot (21 R411, R412), and
the traffic of a read at the word's home (21 R387, R406; no instruction cache: DESIGN CHOICE, assumption log 124). -/
def State.noteFetch (s : State) (x : Xlat) : State :=
  if s.me.fetched = some (s.me.issueNo, word x.va) then s
  else
    let t := if (s.traceSlots [] x.va 4 .fetch).isEmpty then s else s.traceOne x.va .fetch (-1) (word x.va) (-1)
    let u := t.readsAtHome x.pa 4 (word x.va) .rsp
    { u with me := { u.me with fetched := some (s.me.issueNo, word x.va) } }

/-- The machine once an instruction word has been fetched through a translation. -/
def State.fetchDone (s : State) (x : Xlat) : State :=
  let t := (s.use s.me x .fetch).noteFetch x
  if s.fetchDrew x.pa then t.draw else t

/-- Marks the contexts whose yield another context's issue completes (19 R373). -/
def Ctx.yieldReady (core : Nat) (c : Ctx) : Ctx :=
  match c.wait with
  | .yield false => if c.core = core ∧ c.nurse = false then { c with wait := .yield true } else c
  | _ => c

/-- A yield of a core waits for another context to issue. -/
def Ctx.yields (core : Nat) (c : Ctx) : Bool := c.wait == .yield false && c.core == core

/-- The instruction at which a restored materialisation was to be forced again has issued without it: nothing is stopped any
more (02 R69; DEDUCED, assumption log 14). -/
def State.forgetResume (s : State) : State :=
  ({ s with me := { s.me with resume := none } }.setArch fun a => { a.countCells with csr := { a.countCells.csr with strip := 0 } }).collect

/-- The registers that a plain load or store reads, and the one that a load writes; none of any other instruction. -/
def plainAccess (i : Instr) : Option (List SReg × Option SReg) :=
  match i with
  | .ldb _ none _ b d | .ldh _ none _ b d | .ldw _ none _ b d | .ldd none _ b d => some ([sregOfBase b], some d)
  | .stb none _ b d | .sth none _ b d | .stw none _ b d | .std none _ b d => some ([sregOfBase b, d], none)
  | _ => none

/-- No load has performed ahead any more: what issues next issues after what the context has waited for (10 R245). -/
def State.noAhead (s : State) : State := if s.me.ahead.isEmpty then s else { s with me := { s.me with ahead := [], fresh := [] } }

/-- Loads that have performed ahead stand across plain loads and stores alone, and not across one that reads what a load since
then has written: a load performs after its own issue (10 R245). -/
def State.keepAhead (s : State) (i : Instr) : State :=
  if s.me.ahead.isEmpty then s
  else match plainAccess i with
    | none => s.noAhead
    | some (rs, d) =>
      if rs.any fun n => s.me.fresh.contains (s.me.a.phys n) then s.noAhead
      else match d with
        | some d => { s with me := { s.me with fresh := s.me.a.phys d :: s.me.fresh } }
        | none => s

/-- The context has issued since the last waggle sample of its die (21 R407). -/
def State.noteIssuer (s : State) : State :=
  if s.me.nurse || !bit (s.die s.me.die).wgctl 8 then s else s.setDie s.me.die fun d => { d with issuers := insertNat s.me.id d.issuers }

/-- An instruction has issued and has still to complete; one that waits for a link has not issued. -/
def Wait.issued : Wait → Bool
  | .none | .link .. => false
  | .wfe .. | .yield _ | .bar .. | .bbwait .. | .remote _ => true

/-- What an issue does beside its meaning, whether its instruction has completed or waits for what completes it: sketches of
instructions count it, its die's waggle names it, and yields of the core's other contexts are ready (19 R373, 21 R407, R408). -/
def State.afterIssue (s : State) (va : Word) (t : State) : State :=
  let waits := t.me.wait.issued
  if t.me.id ≠ s.me.id ∨ (t.me.issueNo = s.me.issueNo ∧ waits = false) then t.noAhead
  else
    let t := if waits then t.noAhead else if s.me.resumeHere.isSome && t.me.resume.isSome then t.forgetResume else t
    let u := (if (t.die s.me.die).sketches.isEmpty then t else t.sketchEvent s.me va 0 1).noteIssuer
    if u.others.any (Ctx.yields s.me.core) then { u with others := u.others.map (Ctx.yieldReady s.me.core) } else u

/-- An outcome's next state changed. -/
def mapNext (f : State → State) : Res → Res
  | .next s => .next (f s)
  | .fault e => .fault e
  | .refused r => .refused r

/-- The agent that moves issues the instruction at its PC: a breakpoint, the fetch and its faults, then the decoded instruction's
meaning (05 R127, 21 R411). -/
def State.issue (s : State) : Res :=
  let va := s.me.a.ipc
  match s.lookup s.me va.toNat .fetch with
  | .fault _ => exec .fetchFault s
  | .waits a b => .next (s.waitLink a b va false)
  | .ok _ =>
    if s.watched s.me va.toNat 4 .fetch then s.trapAtIssue .brk va false
    else match s.fetch va with
      | .fault _ => exec .fetchFault s
      | .waits a b => .next (s.waitLink a b va false)
      | .ok x w =>
        let t := s.fetchDone x
        match decode (s.issueWord w) with
        | .ok i => mapNext (s.afterIssue va) (exec i (t.keepAhead i))
        | .error _ => exec .undefinedWord t

/-! ## An agent's step -/

/-- The barrier has participants in other packages, whose signal is an event of its own (22 R427). -/
def State.barBeyond (s : State) (sc : Scope) : Bool :=
  sc == .pod && (match (s.die s.me.die).launch? s.me.launch with | some l => s.podGroup l | none => false)

/-- Nothing issues: a pass stands that returns to scalar code, the run-ahead limit is reached, or a held transfer waits for its
quad's engine (02 R45, 10 R235, 15 R317). -/
def State.mustWait (s : State) : Bool := (s.me.items.any fun p => p.resync) || s.me.aheadFull || s.transferWaits

/-! ## A restored materialisation (02 R69, R71) -/

/-- The bytes that an instruction writes at its issue, for the source guard (02 R58). -/
def State.writesAt (s : State) (i : Instr) : List Range :=
  let one (va : Word) (n : Nat) : List Range := [{ base := va.toNat, len := n }]
  let at_ (b : BaseReg) : Word := s.reg (sregOfBase b)
  match i with
  | .stb _ off b _ => one (at_ b + scaledOff off 1) 1
  | .sth _ off b _ => one (at_ b + scaledOff off 2) 2
  | .stw _ off b _ => one (at_ b + scaledOff off 4) 4
  | .std _ off b _ => one (at_ b + scaledOff off 8) 8
  | .amoadd _ _ w _ b _ | .amoswp _ _ w _ b _ | .amocas _ _ w _ b _ | .amominS _ _ w _ b _ | .amominZ _ _ w _ b _ | .amomaxS _ _ w _ b _
  | .amomaxZ _ _ w _ b _ | .amoand _ _ w _ b _ | .amoor _ _ w _ b _ | .amoxor _ _ w _ b _ => one (at_ b) (if w then 8 else 4)
  | .cbst _ a b => one (s.reg a) (16 * min (s.reg b).toNat 256)
  | .mst _ a b => (List.range 64).map fun r => { base := (tileRowVa (s.reg a) (s.reg b) r).toNat, len := 256 }
  | .bbini a _ | .bbexp a _ | .bbarv a _ => one (s.reg a) 64
  | .bxfer g d a _ => one (s.reg d) (s.transferBytes g (s.reg (a + 2)).toNat (s.reg (a + 3)).toNat)
  | _ => []

/-- An instruction that releases (02 R61). -/
def releasesAt (i : Instr) : Bool :=
  match i with
  | .stb (some _) .. | .sth (some _) .. | .stw (some _) .. | .std (some _) .. | .bbarv .. | .bar _ | .cbfence => true
  | .amoadd o .. | .amoswp o .. | .amocas o .. | .amominS o .. | .amominZ o .. | .amomaxS o .. | .amomaxZ o .. | .amoand o .. | .amoor o ..
  | .amoxor o .. => o.releases
  | .fence o _ => o != .acq
  | _ => false

/-- The handles that an instruction forces at its issue (02 R60). -/
def Arch.forcesAt (a : Arch) (i : Instr) : List Nat :=
  let rs : List Ref := match i with
    | .vstx _ _ _ x => [a.vref x]
    | .vldx m d _ x => [a.vref x, (a.maskOperand m).ref, (a.mergeOperand m d).ref]
    | _ => []
  (rs.filterMap Ref.node?).eraseDups

/-- The nodes that an instruction has materialised before it goes on: those of its guards, its release or its forcing, or the oldest
where it wants an entry of a full brood table (02 R43, R58, R60, R61, 11 R256). -/
def State.needs (s : State) (i : Instr) : List Nat :=
  let a := s.me.a.inOrder
  let bank : List Nat := match i with
    | .cbld d _ _ | .cbwr d _ _ | .cbval d _ _ => s.bankGuarded d
    | _ => []
  let full : List Nat := if a.freeEntry.isSome then [] else
    (a.oldestFirst ((a.brood.filter fun e => e.2.kind != .sink).map fun e => e.1)).take 1
  (([s.guarded (s.writesAt i), if releasesAt i then a.reachedLoads .none else [], bank, a.forcesAt i, full]).find? fun ns => !ns.isEmpty).getD []

/-- A materialisation that a snapshot held as stopped runs on before anything issues, for the instruction that required it (02 R69, R71);
where that word cannot be read, its fetch faults first. -/
def State.forceAgain (s : State) : State × List Nat :=
  if s.me.resumeHere.isNone then (s, [])
  else
    let u := s.atStopped
    match (u.peek u.me.a.ipc).map fun w => decode (u.issueWord w) with
    | some (.ok i) => (u, u.needs i)
    | _ => (s, [])

/-- A context at an instruction boundary: a lost write or a soft error is taken once every earlier sink has completed; it
waits for a pass that it must wait for, or at the run-ahead limit; otherwise it issues (10 R235, R242, 21 R391). -/
def State.boundary (s : State) : Res :=
  match s.me.lostWrite with
  | some va =>
    if s.me.busy then .next s.noAhead.wait
    else { s.noAhead with me := { s.noAhead.me with lostWrite := none } }.takeTrap { cause := .linkLost, va := va, write := true, pass := none }
  | none =>
    match s.me.softError with
    | some va =>
      if s.me.busy then .next s.noAhead.wait
      else { s.noAhead with me := { s.noAhead.me with softError := none } }.takeTrap { cause := .poison, va := va, write := false, pass := none }
    | none =>
      if s.mustWait then .next s.noAhead.wait
      else
        match s.forceAgain with
        | (u, n :: ns) => u.materialise noCells (n :: ns)
        | _ => (if s.me.closed.isEmpty then s else { s with me := { s.me with closed := [] } }).issue

/-- An access that waited on a link: it faults with the link's loss, issues again once the link is up, or goes on waiting
(21 R390, R391). -/
def State.linkWait (s : State) (a b : Nat) (va : Word) (write : Bool) : Res :=
  let t := { s with me := { s.me with wait := .none } }
  if s.linkGone a b then
    if s.me.busy then .next { s with turns := .advance s.me.id :: s.turns } else t.trapAtIssue .linkLost va write
  else if s.linkUp a b || (s.die b).lost then t.boundary
  else .next s

/-- The step of the agent that moves. -/
def State.agentStep (s : State) : Res :=
  let id := BitVec.ofNat 12 s.me.id
  match s.me.state with
  | .vacant | .halted | .stopped => .next s
  | .running =>
    match s.me.wait with
    | .none => s.boundary
    | .wfe _ woken => if s.me.event || woken then s.wfeWake else s.wfeTimeout
    | .yield _ => s.yieldDone
    | .bar sc _ => if s.barBeyond sc then .next s else exec (.barEpisodeComplete id) s
    | .bbwait _ _ _ => exec (.bbwaitComplete id) s
    | .remote _ => .next s
    | .link a b va w => s.linkWait a.toNat b.toNat va w

/-! ## Turns -/

/-- What is on its way on the links from one die to another arrives: slot returns and acknowledgements (21 R388, R389). -/
def State.serviceLinks (s : State) (a d : Nat) : State :=
  ((s.route a d).getD []).foldl (fun s h => s.setLink h.1 h.2 Link.settle) s

/-- The first write on a core's store path goes to its home, after what its links wait for. -/
def State.pushPath (s : State) (core : CoreId) : Res :=
  match (s.core core.toNat).path with
  | [] => .next s
  | w :: _ =>
    let a := w.agent.die
    let d := (region w.pa).die?.getD a
    let s := if ((s.route a d).getD []).all fun h => (s.link h.1 h.2).maySend .req then s else s.serviceLinks a d
    exec (.performAtHome core 0) s

/-- The first happening that the pending work of the moving context waits for. -/
def State.advance (s : State) : Res :=
  match s.nextHappening with
  | none => .next s
  | some (.happen (.foragerLaunch c)) =>
    if s.myCore.path.any fun w => w.of s.me then s.pushPath (BitVec.ofNat 10 s.me.core)
    else if 32 ≤ (s.inFlight s.me.quad).length then
      (match s.landTurn s.me.quad with
      | some (.happen i) => exec i s
      | _ => .next s)
    else exec (.foragerLaunch c) s
  | some (.happen (.performAtHome k _)) => s.pushPath k
  | some (.happen i) => exec i s
  | some (.performHeld _) => .next s.performOldest
  | some _ => .next s

/-- The moving context can issue its next instruction now: a load that it is to issue may perform. -/
def State.issuing (s : State) : Bool :=
  s.me.state == .running && s.me.wait == .none && s.me.lostWrite.isNone && s.me.softError.isNone && !s.mustWait

/-- A load of the moving context performs ahead of its turn: of plain memory, away from the writes before it, and never while the context
waits before the instruction that it is to issue (10 R245). -/
def State.runAhead (s : State) (va : Word) (size : Nat) : State :=
  let r : Range := { base := va.toNat, len := size }
  if s.me.nurse || !s.issuing || !([1, 2, 4, 8] : List Nat).contains size || va.toNat % size != 0 ||
      s.me.sinkStores r || (s.me.held.any fun h => h.footprint.any fun f => f.overlaps r) then s
  else match s.lookup s.me va.toNat .read with
    | .fault _ | .waits _ _ => s
    | .ok x =>
      if region x.pa = .pod ∨ s.reach s.me x.pa ≠ .here ∨ s.corePoison s.me.core x.pa size ∨ s.watched s.me va.toNat size .read = true ∨
          s.heldOverlaps x.pa size then s
      else
        let c := s.me.useAhead x.pa size
        { s with me := { c with ahead := c.ahead ++ [(x.pa, s.coreBytes s.me.core x.pa size)],
                                fresh := if c.ahead.isEmpty then [] else c.fresh } }

/-- The access kind of a request, from the faulting instruction (19 R367). -/
def requestKind (i : Instr) : Access :=
  match i with
  | .amoadd .. | .amoswp .. | .amocas .. | .amominS .. | .amominZ .. | .amomaxS .. | .amomaxZ .. | .amoand .. | .amoor .. | .amoxor ..
  | .bbexp .. | .bbarv .. => .atomic
  | .stb .. | .sth .. | .stw .. | .std .. | .bbini .. | .cbst .. | .mst .. => .write
  | _ => .read

/-- The word at a trap's EPC, or past a rep there the word that it repeats: the instruction that faulted, or none where it is that word
whose fetch faults (04 R120). -/
def State.faultingWord (s : State) : Option Nat :=
  let at_ := s.me.a.csr.epc
  match s.peek at_ with
  | none => none
  | some w => match decode w with
    | .ok (.rep ..) => s.peek (at_ + 4)
    | _ => some w

/-- The node or sink that the trap of the moving context's stopped pass blames is a sink that stores to memory. -/
def Ctx.blamesStore (c : Ctx) : Bool :=
  match c.stopped with
  | none => false
  | some r => r.sinks.any fun e => e.seq.setWidth 64 == c.a.csr.blameseq && (match e.op with | .vst .. | .vsts .. | .vstx .. => true | _ => false)

/-- The destination of the bxfer at which the moving context has trapped. -/
def State.transferDest (s : State) (g : BitVec 4) (d a : SReg) : Range :=
  { base := (s.reg d).toNat, len := s.transferBytes g (s.reg (a + 2)).toNat (s.reg (a + 3)).toNat }

/-- The access kind of the moving context's fault, from the instruction or node at fault: of a bxfer, write for its destination and
read for its object (19 R367; DEDUCED, assumption log 104). -/
def State.faultKind (s : State) : Access :=
  let c := s.me.a.csr
  if bit c.cause 8 then (if s.me.blamesStore then .write else .read)
  else match s.faultingWord with
    | none => .fetch
    | some w => match decode w with
      | .ok (.bxfer g d a _) => if (s.transferDest g d a).overlaps { base := c.faultva.toNat, len := 1 } then .write else .read
      | .ok i => requestKind i
      | .error _ => .fetch

/-- The supervisor posts a service request for a PAGE or PERM fault outside its region, or for a breakpoint of a launch under
debug (19 R367, R369). -/
def State.post (s : State) : State :=
  let c := s.me.a.csr
  let code := field c.cause 0 8
  let served : Bool := (code == Cause.page.code || code == Cause.perm.code) && !supervisorRegion c.faultva.toNat ||
    code == Cause.brk.code && s.debugging s.me
  if s.me.nurse || s.me.state != .running || !c.sup || s.me.service.isSome || !served then s
  else
    let k := s.faultKind
    let (token, s) := s.ask s.me.die c.tenant s.me.launch s.me.index (.context s.me.id) c.faultva k (s.faultName s.me)
    { s with me := { s.me with service := some { token := token, kind := k, answer := none, va := c.faultva, cause := c.cause } } }

/-- The supervisor has the launch end on its trap (19 R369). -/
def State.giveUp (s : State) : State :=
  if s.me.nurse || s.me.state != .running || !s.me.a.csr.sup then s
  else (s.endGroup s.me.die s.me.launch (s.me.faultReport 1 s.me.a.csr.cause)).poisonRas s.me (s.faultName s.me) (field s.me.a.csr.cause 0 8)
    s.me.a.csr.faultva

/-! ## The window's spill area (19 R369) -/

/-- The spill area of the moving context: 64 KiB for each index. -/
def State.spillArea (s : State) : Nat :=
  match (s.die s.me.die).launch? s.me.launch with
  | some l => (l.kernel.spill.toNat + 65536 * s.me.index) % 2 ^ 64
  | none => 0

/-- Slot k of the area, from 1. -/
def State.spillSlot (s : State) (k : Nat) : Nat := (s.spillArea + 128 * k) % 2 ^ 64

/-- A physical register of a block of 16, numbered modulo the 32 blocks of the file. -/
def blockReg (b r : Nat) : Nat := 16 * (b % 32) + r

/-- The 16 registers of a block as they are spilled: a dead one reads 0. -/
def Arch.blockBytes (a : Arch) (b : Nat) : List Byte :=
  (List.range 16).flatMap fun r =>
    leBytes (if a.dead.getLsbD (blockReg b r) then 0 else Sparse.get 0 a.regs (blockReg b r) : Word).toNat 8

/-- The 16 registers of a block refilled; none is dead. -/
def Arch.fillBlock (a : Arch) (b : Nat) (bs : List Byte) : Arch :=
  (List.range 16).foldl (fun a r => a.setPhys (blockReg b r) (wordAt bs (8 * r))) a

/-- The supervisor reads a range of the context's memory. -/
def State.readSpan (s : State) (va n : Nat) (go : List Byte → State → Res) : Res :=
  s.spanAccess (word va) n .read fun s =>
    let pieces := (pagePieces va n).map fun p => (p.1, (s.physAt (word p.1) .read).toNat, p.2)
    match pieces.find? fun p => s.corePoison s.me.core p.2.1 p.2.2 with
    | some p => s.trapAtIssue .poison (word p.1) false
    | none => go (pieces.flatMap fun p => s.unitBytes p.1 p.2.1 p.2.2) (s.useSpan va n .read)

/-- The supervisor writes a range of the context's memory. -/
def State.writeSpan (s : State) (va : Nat) (data : List Byte) (go : State → Res) : Res :=
  s.spanAccess (word va) data.length .write fun s => go ((s.useSpan va data.length .write).storeSpan va data)

/-- WDEPTH is set. -/
def State.setDepth (s : State) (n : Nat) : State := s.setCsr fun c => { c with win := setField c.win 8 6 n }

/-- The k oldest resident blocks are pushed, and WDEPTH is lowered; beyond 511 blocks the launch ends. -/
def State.pushBlocks (s : State) (k : Nat) : Res :=
  s.readSpan s.spillArea 8 fun bs s =>
    let count := leNat bs
    let c := s.me.a.csr
    if 511 < count + k then .next s.giveUp
    else s.writeSpan (s.spillSlot (count + 1)) ((List.range k).flatMap fun j => s.me.a.blockBytes (c.winb + 64 - c.wdepth + j)) fun s =>
      s.writeSpan s.spillArea (leBytes (count + k) 8) fun s => .next (s.setDepth (c.wdepth - k))

/-- The k blocks spilled last are refilled below the resident ones, and WDEPTH is raised; with too few the launch ends. -/
def State.refillBlocks (s : State) (k : Nat) : Res :=
  s.readSpan s.spillArea 8 fun bs s =>
    let count := leNat bs
    let c := s.me.a.csr
    if count < k then .next s.giveUp
    else s.readSpan (s.spillSlot (count - k + 1)) (128 * k) fun bs s =>
      s.writeSpan s.spillArea (leBytes (count - k) 8) fun s =>
        .next ((s.setArch fun a => (List.range k).foldl (fun a j => a.fillBlock (c.winb + 64 - c.wdepth - k + j) (bs.drop (128 * j))) a).setDepth
          (c.wdepth + k))

/-- The blocks by which a window instruction moves (05 R142 to R144). -/
def windowStep (i : Instr) : Nat :=
  match i with
  | .wcall n _ => n.toNat
  | .wret n => n.toNat
  | .winb n => n.toInt.natAbs
  | _ => 0

/-- The supervisor serves a WIN_OVF or a WIN_UNF of the moving context, after which its eret issues the instruction again (R369). -/
def State.serveWindow (s : State) : Res :=
  let c := s.me.a.csr
  if s.me.nurse || s.me.state != .running || !c.sup || s.me.wait != .none then .next s
  else match s.faultingWord.map decode with
    | some (.ok i) =>
      let n := windowStep i
      if field c.cause 0 9 = Cause.winOvf.code ∧ 32 < c.wdepth + n + 8 then s.pushBlocks (c.wdepth + n + 8 - 32)
      else if field c.cause 0 9 = Cause.winUnf.code ∧ c.wdepth < n then s.refillBlocks (n - c.wdepth)
      else .next s
    | _ => .next s

/-! ## Turns of the fabric and of time -/

/-- The report of a launch whose pod group has ended on a fault on another package (22 R428). -/
def podFault (pkg : Nat) : FaultReport :=
  { status := 1, index := 0, cause := word Cause.remote.code, ctxid := 0, epc := 0, faultva := word (pkg % 4096), faultel := 0, blamepc := 0,
    blameseq := 0 }

/-- A launch of a pod group ends on a fault on another package, and every launch of the group here ends with it (22 R428). -/
def State.endPodGroup (s : State) (ptid : BitVec 16) (tag : Word) (pkg : Nat) : State :=
  (List.range 4).foldl (fun s d => (s.die d).launches.foldl (fun s l =>
    if s.podGroup l && s.ptid l.tenant == ptid && l.kernel.tag == tag && l.state != .moved then s.endLaunch d l.seq (podFault pkg) else s) s) s

/-- The fabric has a route to a package, or none (22 R421). -/
def Package.setRoute (p : Package) (pkg : Nat) (on : Bool) : Package :=
  { p with noRoute := if on then p.noRoute.filter fun x => decide (x ≠ pkg) else insertNat pkg p.noRoute }

/-- The time base advances, up to the next tick that a die has still to sample (21 R393, R406). -/
def State.passTime (s : State) (n : Nat) : State :=
  let due := (List.range 4).filterMap fun d => (s.die d).sampleDue
  let t := due.foldl min (s.pkg.tick.toNat + n)
  { s with pkg := { s.pkg with tick := word (max s.pkg.tick.toNat t) } }

/-- Removes the n-th entry of a list. -/
def dropNth {α : Type} : List α → Nat → List α
  | [], _ => []
  | _ :: r, 0 => r
  | x :: r, n + 1 => x :: dropNth r n

/-- A listed turn is taken. -/
def State.takeTurn (s : State) (t : Turn) : Res :=
  match t with
  | .run id => s.onCtx id State.agentStep
  | .happen .undefinedWord | .happen .fetchFault => .next s
  | .happen i => if (encode i).isNone then exec i s else .next s
  | .advance id => s.onCtx id State.advance
  | .evictLine k n => .next (s.invalidate k fun l => l == n)
  | .evictTlb k n => .next (s.setCore k fun q => { q with tlb := dropNth q.tlb n })
  | .evictDieTlb d n => .next (s.setDie d fun x => { x with tlb := dropNth x.tlb n })
  | .lag id on => s.onCtx id fun s =>
      let u := { s with me := { s.me with lag := on } }
      .next (if on then u else u.drain)
  | .performHeld id => s.onCtx id fun s => .next s.performOldest
  | .loadAhead id va size => s.onCtx id fun s => .next (s.runAhead va size)
  | .post id => s.onCtx id fun s => .next s.post
  | .fatal id => s.onCtx id fun s => .next s.giveUp
  | .window id => s.onCtx id State.serveWindow
  | .podFault ptid tag pkg => .next (s.endPodGroup ptid tag pkg)
  | .route pkg on => .next { s with pkg := s.pkg.setRoute pkg on }
  | .time n => .next (s.passTime n)

/-- One step: nothing after a power cut (21 R401); the turn that is listed first; with none, the agent that moves. -/
def State.step (s : State) : Res :=
  if s.pkg.powerCut then .next s
  else match s.turns with
    | [] => s.agentStep
    | t :: r => { s with turns := r }.takeTurn t

end Sys2Proof.Machine
end

