-- ==== Sys2Proof/Machine/Step.lean ====
section
/-!
DEFINITION. The machine's step, and the placing of one instruction word where the next step fetches.
-/

namespace Sys2Proof.Machine

/-- One step (Sequence.lean). -/
def step (s : State) : Host.Outcome State Fault Refusal := s.step

/-- A page that the first-level TLB maps for any access, readable, writable and executable. -/
def fetchPage (tenant va pa : Nat) : TlbEntry :=
  { tenant := tenant, va := va / 4096 * 4096, pa := pa / 4096 * 4096, bits := 12, r := true, w := true, x := true, d := true,
    attr := { fe := false, fmt := 0, geo := 0 }, pte := 0 }

/-- A PC at which an agent may fetch: aligned, and for a context canonical and outside the supervisor region. -/
def Ctx.mayFetchAt (c : Ctx) (pc : Word) : Bool :=
  pc.toNat % 4 == 0 && (if c.nurse then region pc.toNat == .dram c.die else canonical pc && !supervisorRegion pc.toNat)

/-- Where the instruction is placed: the PC, or the first address that the agent can fetch from. -/
def Ctx.fetchAt (c : Ctx) : Word :=
  if c.mayFetchAt c.a.pc then c.a.pc else if c.nurse then word (c.die * 0xC00000000) else 0

/-- The agent that moves, running at an instruction boundary with nothing pending. -/
def Ctx.readyAt (c : Ctx) (pc : Word) : Ctx :=
  { c with a := { c.a with pc := pc, rep := none }, state := .running, pend := [], run := none, held := [], wait := .none,
           lostWrite := none, softError := none }

/-- A launch with no written bytes of its text in doubt (05 R152). -/
def Launch.settled (l : Launch) : Launch := { l with old := [] }

/-- The instruction of a table word, stored where the next step fetches: a page of the agent's own die holds the PC, no debug
slot and no poison stands there, and the agent runs at a boundary (DESIGN CHOICE, assumption log 37). -/
def State.withFetchWord (s : State) (nbits w : Nat) : State :=
  let pc := s.me.fetchAt
  let pa := if s.me.nurse then pc.toNat else s.me.die * 0xC00000000 + pc.toNat % 4096
  let c := s.me.readyAt pc
  let k := s.core c.core
  let d := s.die c.die
  { s with
    me := c, turns := [],
    mem := Sparse.setRun 0 s.mem pa (bytesOfWord (w % 2 ^ nbits)),
    poison := s.poison.filter fun x => decide (x ≠ pa / 8), keys := Sparse.set 0 s.keys (pa / 64) 0,
    cores := Sparse.set Core.reset s.cores c.core { k with tlb := [fetchPage c.a.csr.tenant pc.toNat pa] },
    dies := Sparse.set Die.reset s.dies c.die { d with inReset := false, lost := false, debug := [], launches := d.launches.map Launch.settled },
    pkg := { s.pkg with powerCut := false } }

end Sys2Proof.Machine
end

