-- ==== Sys2Proof/Safety.lean ====
section
/-!
DEFINITION. What counts as a safe outcome, a safe run and a well-formed machine, and the words in which the statements speak:
what an instruction leaves as it was, what it is to write a register, to trap, to make a node, to issue a sink.
-/

namespace Sys2Proof.Machine

/-- The machine goes on. -/
def Res.goesOn : Res → Bool
  | .next _ => true
  | _ => false

/-- A step that ends neither in a fault nor in a refusal. -/
def State.Safe (s : State) : Prop := ∃ t, step s = .next t

/-- Every step of a number of steps is safe. -/
def State.SafeFor : Nat → State → Prop
  | 0, _ => True
  | n + 1, s => ∃ t, step s = .next t ∧ t.SafeFor n

/-- Memory, and every map of the machine that software reaches by a number, is in its canonical form. -/
def State.wf (s : State) : Bool :=
  Memory.wf s.mem && Sparse.wf 0 s.keys && Sparse.wf Core.reset s.cores && Sparse.wf Die.reset s.dies && Sparse.wf Link.reset s.pkg.links

/-- The PC of every context that runs is a multiple of 4 (04 R103). -/
def State.aligned (s : State) : Bool :=
  s.contexts.all fun c => c.state != .running || c.a.pc.toNat % 4 == 0


/-! ## The words of the statements -/

/-- No scalar register of a list traps when it is read (01 R15). -/
def State.readable (s : State) (ns : List SReg) : Prop := ∀ n ∈ ns, s.me.a.deadRead n = false

/-- Every byte reads as before: at its home, and as every core reads it. -/
def State.SameBytes (s t : State) : Prop :=
  (∀ a, Sparse.get 0 t.mem a = Sparse.get 0 s.mem a) ∧ ∀ k a, t.coreByte k a = s.coreByte k a

/-- Only the moving context has changed, and in it only its registers; one more instruction has issued. -/
def State.OnlyRegisters (s t : State) : Prop :=
  t = { s with me := { s.me with a := t.me.a, issueNo := s.me.issueNo + 1 } }

/-- Control has gone to the next instruction: PC + 4, no rep (04 R119 gives the other case). -/
def State.Advanced (s t : State) : Prop :=
  s.me.a.rep = none → t.me.a.pc = s.me.a.pc + 4 ∧ t.me.a.rep = none ∧ t.me.a.csr.repc = s.me.a.csr.repc

/-- Among the registers of the moving context, the instruction wrote v to sD and ORed fl into FLAGS: s0 keeps reading 0; every other
physical register keeps its value and its dead bit; handles, brood table, cells and every other CSR are as before, but for REPC
under a rep. PC is another matter. -/
structure State.RegisterValue (s t : State) (d : SReg) (v fl : Word) : Prop where
  result : t.reg d = if d = 0 then 0 else v
  live : d ≠ 0 → t.me.a.dead.getLsbD (s.me.a.phys d) = false
  others : ∀ p, d = 0 ∨ p ≠ s.me.a.phys d →
    Sparse.get 0 t.me.a.regs p = Sparse.get 0 s.me.a.regs p ∧ t.me.a.dead.getLsbD p = s.me.a.dead.getLsbD p
  csr : t.me.a.csr = { s.me.a.csr with repc := t.me.a.csr.repc, flags := s.me.a.csr.flags ||| fl }
  rest : t.me.a = { s.me.a with pc := t.me.a.pc, rep := t.me.a.rep, regs := t.me.a.regs, dead := t.me.a.dead, csr := t.me.a.csr }

/-- A register result, after which control goes to the next instruction. -/
structure State.RegisterResult (s t : State) (d : SReg) (v fl : Word) : Prop extends s.RegisterValue t d v fl where
  next : s.Advanced t

/-- The instruction wrote v to sD, ORed fl into FLAGS and changed nothing else of the machine. -/
structure State.Wrote (s t : State) (d : SReg) (v fl : Word) : Prop extends s.RegisterResult t d v fl where
  frame : s.OnlyRegisters t
  bytes : s.SameBytes t

/-- The instruction completes with a register result and no flag. -/
def State.Writes (s : State) (i : Instr) (d : SReg) (v : Word) : Prop := ∃ t, exec i s = .next t ∧ s.Wrote t d v 0

/-- The instruction completes with the pattern of x in the low bits of sD, zeros above it, and the flags of x ORed into FLAGS. -/
def State.WritesFloat (s : State) (i : Instr) (d : SReg) (x : Nat × List Flag) : Prop :=
  ∃ t, exec i s = .next t ∧ s.Wrote t d (BitVec.ofNat 64 x.1) (flagMask x.2)

/-- An exact result with the flags of its operation, rounded once into FP32 under a mode. -/
def roundedOnce (mode : Nat) (x : FV × List Flag) : Nat × List Flag :=
  let y := roundTo Fmt.f32.layout { mode := mode, sat := false, w := 0 } x.1
  (y.1, x.2 ++ y.2)

/-- A binary32 pattern that is a NaN, and one that is a signalling NaN (03 R73, R74). -/
def nan32 (v : Nat) : Bool := v / 2 ^ 23 % 256 == 255 && v % 2 ^ 23 != 0
@[inherit_doc nan32] def signalling32 (v : Nat) : Bool := nan32 v && decide (v % 2 ^ 23 < 2 ^ 22)

/-- The place of a binary32 pattern that is no NaN in the order of values; both zeros stand at 0. -/
def key32 (v : Nat) : Int := if v / 2 ^ 31 % 2 = 1 then -((v % 2 ^ 31 : Nat) : Int) else (v % 2 ^ 31 : Nat)

/-- The instruction changes PC alone. -/
def State.Goes (s : State) (i : Instr) (pc : Word) : Prop :=
  exec i s = .next { s with me := { s.me with a := { s.me.a with pc := pc }, issueNo := s.me.issueNo + 1 } }

/-- The instruction writes v to sD and jumps to a target. -/
def State.Links (s : State) (i : Instr) (d : SReg) (v target : Word) : Prop :=
  ∃ t, exec i s = .next t ∧ s.RegisterValue t d v 0 ∧ t.me.a.pc = target ∧ t.me.a.rep = s.me.a.rep ∧
    t.me.a.csr.repc = s.me.a.csr.repc ∧ s.OnlyRegisters t ∧ s.SameBytes t

/-- A context in user mode with no sink pending, on a die whose trace ring is off: a trap at issue is taken at once, and no trace
record is written. -/
structure State.TrapsNow (s : State) : Prop where
  context : s.me.nurse = false
  user : s.me.a.csr.sup = false
  quiet : s.me.busy = false
  ring : (s.die s.me.die).trslots = 0

/-- Trap entry at issue (01 R33): EPC is the PC, CAUSE the code with WR, FAULTEL all ones, SUP set with PSUP clear, PC the supervisor
entry point; every other register, BLAMEPC and BLAMESEQ among them, and everything else of the machine are as before. -/
structure State.Trapped (s t : State) (code : Nat) (va : Word) (write : Bool) : Prop where
  regs : t.me.a = { s.me.a with
    pc := 0xFFFFFF0000000000, rep := none,
    csr := { s.me.a.csr with
      status := t.me.a.csr.status, epc := s.me.a.pc, cause := BitVec.ofNat 64 (code + if write then 2 ^ 12 else 0), faultva := va,
      faultel := 0xFFFFFFFFFFFFFFFF } }
  sup : t.me.a.csr.status.getLsbD 0 = true ∧ t.me.a.csr.status.getLsbD 1 = false
  status : ∀ k, 2 ≤ k → t.me.a.csr.status.getLsbD k = s.me.a.csr.status.getLsbD k
  frame : t = { s with me := { s.me with a := t.me.a } }

/-- The instruction takes a trap at issue. -/
def State.Traps (s : State) (i : Instr) (code : Nat) (va : Word) (write : Bool) : Prop :=
  ∃ t, exec i s = .next t ∧ s.Trapped t code va write

/-- The window moves by a number of blocks: WINB modulo 32, WDEPTH, and no other bit of WIN. -/
def windowMoved (w v : Word) (n : Int) : Prop :=
  ((v.toNat % 32 : Nat) : Int) = ((w.toNat % 32 : Nat) + n) % 32 ∧ ((v.toNat / 2 ^ 8 % 64 : Nat) : Int) = (w.toNat / 2 ^ 8 % 64 : Nat) + n ∧
    ∀ k, ¬(k < 5 ∨ (8 ≤ k ∧ k < 14)) → v.getLsbD k = w.getLsbD k

/-- The CSR map (01 R36): number, rights, the register, and the bits that a write stores (01 R13 to R34). -/
def csrMap : List (Nat × Rights × (Csrs → Word) × Word) := [
  (0x000, .ur, fun c => c.vl, 0xFFFFFFFF), (0x001, .ur, fun c => c.vtype, 0x8000FB1F), (0x002, .u, fun c => c.vmode, 0xFF),
  (0x003, .ur, fun c => c.elbase, -1), (0x004, .ur, fun c => c.strip, 0x81FFFFFF), (0x008, .u, fun c => c.flags, 0x7F),
  (0x010, .ur, fun c => c.feInv, -1), (0x011, .ur, fun c => c.feDz, -1), (0x012, .ur, fun c => c.feOvf, -1),
  (0x013, .ur, fun c => c.feUnf, -1), (0x014, .ur, fun c => c.feInx, -1), (0x015, .ur, fun c => c.feSat, -1),
  (0x016, .ur, fun c => c.feCbi, -1)] ++ [
  (0x020, .u, fun c => c.srseed, -1), (0x021, .u, fun c => c.srsalt, 0xFFFFFFFF), (0x022, .u, fun c => c.rngkey, -1),
  (0x028, .ur, fun c => c.repc, 0xFF), (0x029, .u, fun c => c.deadm, 1), (0x030, .ur, fun c => c.cellbase, 0xFFFFFFFFFFFFF000),
  (0x031, .ur, fun c => c.celllim, 0xFFFFFFFFFFFFF000), (0x032, .ur, fun c => c.celluse, -1), (0x033, .ur, fun c => c.cellcnt, -1),
  (0x038, .u, fun c => c.cbsel, 0x1F1F), (0x040, .ur, fun c => c.mvl, 0x7F), (0x041, .ur, fun c => c.mprog, 0x800003FF),
  (0x048, .ur, fun c => c.win, 0x3F1F), (0x050, .ro, fun c => c.ctxid, 0)] ++ [
  (0x100, .s, fun c => c.status, 3), (0x101, .s, fun c => c.epc, -1), (0x102, .s, fun c => c.cause, 0x1FFF),
  (0x103, .s, fun c => c.faultva, -1), (0x104, .s, fun c => c.faultel, -1), (0x105, .s, fun c => c.blamepc, -1),
  (0x106, .s, fun c => c.blameseq, -1)]

/-- The registers of a context that stops for good: MVL is 0, since the comb that it may have owned is free (01 R32). -/
def Arch.combless (a : Arch) : Arch := { a with csr := { a.csr with mvl := 0 } }

/-- A context, or a nurse core, with no sink pending, no pass running or stopped, nothing held, and an empty brood table. -/
structure State.Quiet (s : State) : Prop where
  pend : s.me.pend = []
  run : s.me.run = none
  held : s.me.held = []
  stopped : s.me.stopped = none
  brood : s.me.a.brood = []

/-- No earlier write of the agent is on its way: none on its core's store path, and no request to another package unanswered. -/
structure State.WritesDone (s : State) : Prop where
  path : ∀ w ∈ s.myCore.path, w.of s.me = false
  pod : ∀ r ∈ s.pkg.requests, r.ctx ≠ s.me.id ∨ r.launch ≠ s.me.launch

/-- A scalar access of a size translates, with no link that its walk waits on, hits no debug slot, and reaches a home in this package. -/
structure State.Reaches (s : State) (va : Word) (size : Nat) (k : Access) (x : Xlat) : Prop where
  aligned : va.toNat % size = 0
  translates : s.lookup s.me va.toNat k = .ok x
  watch : s.slotHits s.me va.toNat size k = []
  reach : s.reach s.me x.pa = .here
  home : region x.pa ≠ .pod

/-- The bytes that an access may change beside its own: the A and D bits of the table entry that a walk used (19 R365), and the
dirty bit of a write (19 R380). -/
def State.touches (s : State) (x : Xlat) (dirty : Bool) (a : Nat) : Prop :=
  (x.found = 2 ∧ a = x.entry.pte) ∨
    (dirty = true ∧ ∃ g, granule x.pa = some g ∧ a = ((s.die s.me.die).tenant s.me.a.csr.tenant).dirtyb.toNat + g / 8)

/-- An access changes no byte on which the reading of an address rests: beside its own, under a key those of its 16-byte block (22
R433, assumption log 100). -/
def State.spared (s : State) (x : Xlat) (dirty : Bool) (a : Nat) : Prop :=
  ∀ b, b = a ∨ (Sparse.get 0 s.keys (a / 64) ≠ 0 ∧ b / 16 = a / 16) → ¬s.touches x dirty b

/-- Byte k of a word. -/
def byteOf (v : Word) (k : Nat) : Byte := BitVec.ofNat 8 (v.toNat / 256 ^ k)

/-- The registers of every other context are as before. -/
def State.OthersKept (s t : State) : Prop := ∀ id, id ≠ s.me.id → (t.ctx id).a = (s.ctx id).a

/-- A load of a size completes: sD holds the bytes that read at the home, or as the core sees them, the low address in the low bits,
with zeros or copies of the top bit above. -/
def State.Loads (s : State) (i : Instr) (d : SReg) (size : Nat) (sx : Bool) (read : Nat → Byte) (x : Xlat) : Prop :=
  ∃ t v, exec i s = .next t ∧ s.RegisterResult t d v 0 ∧
    (∀ k, k < size → byteOf v k = read (x.pa + k)) ∧
    (∀ k, size ≤ k → k < 8 → byteOf v k = if sx = true ∧ (read (x.pa + size - 1)).getLsbD 7 = true then 0xFF else 0) ∧
    (∀ a, ¬s.touches x false a → Sparse.get 0 t.mem a = Sparse.get 0 s.mem a) ∧ s.OthersKept t ∧ t.me.held = [] ∧
    (∀ k, (t.core k).path = (s.core k).path)

/-- A store of a size completes: it performs at its core, where every byte of the access reads as the low bytes of the register and
every other byte as before; the bytes at the homes change later. -/
def State.Stores (s : State) (i : Instr) (d : SReg) (size : Nat) (x : Xlat) : Prop :=
  ∃ t, exec i s = .next t ∧
    (∀ k a, s.spared x false a → t.coreByte k a =
      if k = s.me.core ∧ x.pa ≤ a ∧ a < x.pa + size then byteOf (s.reg d) (a - x.pa) else s.coreByte k a) ∧
    (∀ a, ¬s.touches x false a → Sparse.get 0 t.mem a = Sparse.get 0 s.mem a) ∧
    (t.core s.me.core).path = (s.core s.me.core).path ++
      [{ ctx := s.me.id, tenant := s.me.a.csr.tenant, launch := s.me.launch, pc := s.me.a.ipc, va := word x.va,
         pa := x.pa, data := (List.range size).map (byteOf (s.reg d)), poison := false }] ∧
    t.me.a = { s.me.a with pc := t.me.a.pc, rep := t.me.a.rep, csr := { s.me.a.csr with repc := t.me.a.csr.repc } } ∧ s.Advanced t ∧
    s.OthersKept t ∧ t.me.held = []

/-- An atomic completes: sD holds the old value, the bytes at the home hold the new one, the core's cached copy is gone, and every other
byte reads as before at its home. -/
def State.Swaps (s : State) (i : Instr) (d : SReg) (n : Nat) (signed : Bool) (x : Xlat) (new : Nat → Nat) : Prop :=
  let old := leNat (s.readHome s.me x.pa n)
  ∃ t, exec i s = .next t ∧
    s.RegisterResult t d (if signed then BitVec.ofInt 64 (signedOf (8 * n) old) else BitVec.ofNat 64 old) 0 ∧
    (∀ k, k < n → t.readByte s.me (x.pa + k) = BitVec.ofNat 8 (new old / 256 ^ k)) ∧
    (∀ a, (a < x.pa ∨ x.pa + n ≤ a) → s.spared x (!s.me.nurse) a → t.readByte s.me a = s.readByte s.me a) ∧
    (t.core s.me.core).line? (x.pa / 64) = none ∧ (t.core s.me.core).path = (s.core s.me.core).path ∧ s.OthersKept t

/-- What an instruction that creates a node asks and captures at issue, by 06 R163 to R166 and its own entry: its destination, the
handles, masks and scalar registers that it reads, the FMT and EG that it accepts, its operands, and its format where that is not
VTYPE.FMT. -/
structure NodeAsks where
  v : Option VReg := none
  k : Option KReg := none
  vs : List VReg := []
  ks : List KReg := []
  ss : List SReg := []
  accepts : Fmt → Nat → Bool := fun _ _ => true
  /-- the bank that it expands through, and the handle of indices -/
  bank : Option (Option BankReg × VReg) := none
  a : Operand := Operand.none
  b : Operand := Operand.none
  c : Operand := Operand.none
  merge : Operand := Operand.none
  mask : Operand := Operand.of .k0
  fmt : Option Fmt := none

/-- With the mask k(MSEL) under m = 1, and the old destination as merge operand under m = 1 and MPOL = 0 (06 R166). -/
def NodeAsks.masked (s : State) (m : Bool) (d : VReg) (q : NodeAsks) : NodeAsks :=
  let c := s.me.a.csr
  let keep := m && !c.vtype.getLsbD 11
  { q with
    v := some d, vs := if keep then d :: q.vs else q.vs, ks := if m then c.msel :: q.ks else q.ks,
    mask := Operand.of (if m then s.me.a.kref c.msel else .k0), merge := if keep then Operand.of (s.me.a.vref d) else Operand.none }

/-- The two operands of a variant (04 R107): handles, a scalar captured at issue, an index handle with slot B's bank, or an immediate. -/
def variantAsks (s : State) (f : Variant) (a b : BitVec 7) (accepts : Fmt → Nat → Bool) : NodeAsks :=
  let v (n : VReg) : Operand := Operand.of (s.me.a.vref n)
  let x (n : SReg) : Operand := Operand.of (.scalar (s.reg n))
  let slot : Option BankReg :=
    if s.me.a.csr.cbsel.getLsbD 4 then some (BitVec.ofNat 4 (s.me.a.csr.cbsel.toNat % 16)) else none
  match f with
  | .vv => { vs := [a, b], a := v a, b := v b, accepts := accepts }
  | .vs => { vs := [a], ss := [b], a := v a, b := x b, accepts := accepts }
  | .vc =>
    { vs := [a, b], a := v a, b := { ref := s.me.a.vref b, bank := slot }, bank := some (slot, b),
      accepts := fun t g => accepts t g && (t == .f32 || t == .bf16 || t == .f16) }
  | .vi => { vs := [a], a := v a, accepts := accepts }
  | .sv => { vs := [b], ss := [a], a := x a, b := v b, accepts := accepts }

/-- One operand, a vector handle. -/
def handleAsks (s : State) (a : VReg) (accepts : Fmt → Nat → Bool) : NodeAsks :=
  { vs := [a], a := Operand.of (s.me.a.vref a), accepts := accepts }

/-- One operand, a scalar register. -/
def scalarAsks (s : State) (a : SReg) (accepts : Fmt → Nat → Bool) : NodeAsks :=
  { ss := [a], a := Operand.of (.scalar (s.reg a)), accepts := accepts }

/-- A movement or a scan, with a second operand (07 R191). -/
def moveAsks (s : State) (a : VReg) (b : Operand) (vs : List VReg) (ss : List SReg) (accepts : Fmt → Nat → Bool) : NodeAsks :=
  { vs := a :: vs, ss := ss, a := Operand.of (s.me.a.vref a), b := b, accepts := accepts }

/-- A mask instruction of masks. -/
def maskAsks (s : State) (d : KReg) (ks : List KReg) : NodeAsks :=
  let r (k : KReg) : Operand := Operand.of (s.me.a.kref k)
  match ks with
  | [a] => { k := some d, ks := ks, a := r a }
  | [a, b] => { k := some d, ks := ks, a := r a, b := r b }
  | _ => { k := some d, ks := ks }

/-- The formats of a class. -/
def inClass (cs : List FmtClass) (t : Fmt) (_ : Nat) : Bool := cs.contains t.cls

/-- What each node-making instruction asks, but for the vector loads. -/
def nodeAsks (s : State) : Instr → Option NodeAsks
  | .vadd f m d a b | .vsub f m d a b | .vmul f m d a b | .vdiv f m d a b | .vmin f m d a b | .vmax f m d a b =>
    some ((variantAsks s f a b (inClass [.f, .k, .i])).masked s m d)
  | .vfma f m d a b | .vfms f m d a b =>
    let q := (variantAsks s f a b (inClass [.f, .k, .i])).masked s m d
    some { q with vs := d :: q.vs, c := Operand.of (s.me.a.vref d) }
  | .vsqrt m d a | .vrcp m d a | .vrsq m d a | .vexp2 m d a | .vlog2 m d a | .vtanh m d a | .vsigm m d a =>
    some ((handleAsks s a (inClass [.f, .k])).masked s m d)
  | .vabs m d a | .vneg m d a => some ((handleAsks s a (inClass [.f, .k, .i])).masked s m d)
  | .vand f m d a b | .vor f m d a b | .vxor f m d a b => some ((variantAsks s f a b (inClass [.f, .i, .b])).masked s m d)
  | .vshl f m d a b | .vshr f m d a b | .vsra f m d a b => some ((variantAsks s f a b (inClass [.i, .b])).masked s m d)
  | .vmulh f m d a b => some ((variantAsks s f a b (inClass [.i])).masked s m d)
  | .vscl f m d a b => some ((variantAsks s f a b (inClass [.f, .k])).masked s m d)
  | .vcmp f m cc d a b =>
    let keep := m && !s.me.a.csr.vtype.getLsbD 11
    let q := variantAsks s f a b fun t g => g == 0 && (t.cls != .b || cc == .eq || cc == .ne)
    some { q with
      k := some d, ks := (if m then [s.me.a.csr.msel] else []) ++ (if keep then [d] else []),
      mask := Operand.of (if m then s.me.a.kref s.me.a.csr.msel else .k0),
      merge := if keep then Operand.of (s.me.a.kref d) else Operand.none }
  | .vsel f d a b =>
    some { variantAsks s f a b fun _ _ => true with
      v := some d, ks := [s.me.a.csr.msel], mask := Operand.of (s.me.a.kref s.me.a.csr.msel) }
  | .vcvt t m d a => some { (handleAsks s a fun _ g => g == 0).masked s m d with fmt := some t }
  | .vblk g m d a => some ((handleAsks s a fun t _ => t == .nx4 || (t == .mx8 && g == .g32)).masked s m d)
  | .vrngRaw m d a => some ((scalarAsks s a (inClass [.i, .b])).masked s m d)
  | .vrngUnif m d a => some ((scalarAsks s a fun t g => inClass [.f, .k] t g && g == 0).masked s m d)
  | .kmeet d a b | .kjoin d a b | .kdiff d a b | .kless d a b => some (maskAsks s d [a, b])
  | .kflip d a | .kcopy d a | .kmsk d a => some (maskAsks s d [a])
  | .kset d a => some { k := some d, ss := [a], a := Operand.of (.scalar (s.reg a)) }
  | .vslup m d a b | .vsldn m d a b => some ((moveAsks s a (Operand.of (.scalar (s.reg b))) [] [b] fun _ _ => true).masked s m d)
  | .vperm m d a b => some ((moveAsks s a (Operand.of (s.me.a.vref b)) [b] [] fun _ _ => true).masked s m d)
  | .vcmpr m d a | .vexpd m d a => some ((moveAsks s a Operand.none [] [] fun _ _ => true).masked s m d)
  | .vscan o m d a =>
    some ((moveAsks s a Operand.none [] [] fun t g =>
      g == 0 && (match o with | .add | .max | .min => t.cls != .b | .and | .or | .xor => t.cls == .i || t.cls == .b)).masked s m d)
  | .vlpld m d a b =>
    some ((moveAsks s a (Operand.of (.scalar (s.reg b))) [] [b] fun t _ => t != .nx4 && t != .mx8 && t != .ix4).masked s m d)
  | .vcbx d a b =>
    some { v := some d, vs := [a], bank := some (some b, a), a := { ref := s.me.a.vref a, bank := some b },
           accepts := fun t _ => t == .f32 || t == .bf16 || t == .f16 }
  | _ => none

/-- A handle does not stand in the way of a read as a source: it is in no stream, its length is VL, and under DEADM.TRAP it names
something (01 R17, 02 R41, 06 R164). -/
def State.sourceReady (s : State) (v : VReg) : Prop :=
  s.me.a.streaming v = false ∧ (∀ n, s.me.a.refLen (s.me.a.vref v) = some n → n = s.me.a.csr.vl.toNat) ∧
    (s.me.a.csr.deadTrap = true → s.me.a.vhandle v ≠ .empty)
@[inherit_doc State.sourceReady] def State.maskReady (s : State) (k : KReg) : Prop :=
  (∀ n, s.me.a.refLen (s.me.a.kref k) = some n → n = s.me.a.csr.vl.toNat) ∧
    (s.me.a.csr.deadTrap = true → k ≠ 0 → s.me.a.khandle k ≠ .empty)

/-- A vector loop context that may issue vector instructions: no stopped pass stands before its supervisor (02 R72). -/
def State.VectorReady (s : State) : Prop :=
  s.me.nurse = false ∧ ¬(s.me.a.csr.sup = true ∧ s.me.a.csr.stripPend = true)

/-- The issue checks of 02 R41 pass for what an instruction asks. -/
structure State.NodeReady (s : State) (q : NodeAsks) : Prop where
  unit : s.VectorReady
  legal : s.me.a.csr.ill = false
  dest : ∀ d, q.v = some d → s.me.a.streaming d = false
  kdest : q.k ≠ some 0
  accepts : q.accepts s.me.a.csr.fmt s.me.a.csr.eg = true
  scalars : s.readable q.ss
  handles : ∀ v ∈ q.vs, s.sourceReady v
  masks : ∀ k ∈ q.ks, s.maskReady k
  bank : ∀ b v, q.bank = some (b, v) → s.me.a.indexHandle v = true ∧ ∃ c, b = some c ∧ s.ownsBank c = true
  room : s.me.a.freeEntry ≠ none

/-- The machine after an instruction that created entry n for the moving context: the scalar registers, the handles but one, and
everything else but the brood table, the cells that it frees and PC are as before; no byte of memory has changed. -/
structure State.Created (s t : State) (n : Nat) (v : Option VReg) (k : Option KReg) : Prop where
  fresh : broodEntry s.me.a.brood n = none
  seq : t.me.a.seq = s.me.a.seq + 1
  vname : ∀ d, v = some d → t.me.a.vhandle d = .node n
  kname : ∀ d, k = some d → t.me.a.khandle d = .node n
  vothers : ∀ w, v ≠ some w → t.me.a.vhandle w = s.me.a.vhandle w
  kothers : ∀ w, k ≠ some w → t.me.a.khandle w = s.me.a.khandle w
  regs : t.me.a.regs = s.me.a.regs ∧ t.me.a.dead = s.me.a.dead
  csr : t.me.a.csr = { s.me.a.csr with repc := t.me.a.csr.repc, celluse := t.me.a.csr.celluse }
  next : s.Advanced t
  frame : s.OnlyRegisters t
  bytes : s.SameBytes t

/-- An entry holds what its instruction captured at issue (02 R39, 01 R23). -/
structure State.Captured (s : State) (i : Instr) (e : Entry) : Prop where
  op : e.op = i
  seq : e.seq = s.me.a.seq
  pc : e.pc = s.me.a.ipc
  len : e.len = s.me.a.csr.vl.toNat
  mpol : e.mpol = s.me.a.csr.vtype.getLsbD 11
  elbase : e.elbase = s.me.a.csr.elbase
  mode : e.rm = s.me.a.csr.vmode.toNat % 8 ∧ e.sat = s.me.a.csr.vmode.getLsbD 3 ∧ e.cbx = s.me.a.csr.vmode.getLsbD 4
  seeds : e.srseed = s.me.a.csr.srseed ∧ e.srsalt = BitVec.ofNat 32 s.me.a.csr.srsalt.toNat ∧ e.rngkey = s.me.a.csr.rngkey

/-- What an instruction that issues a sink captures and asks at issue: its entry and how the sink issues; the handles, masks and
scalar registers that it reads, with the length that its sources must have; whether its own grounds of ILLEGAL are absent, whether
it depends on VTYPE, the bank and the unit that it must own; and the references that it forces. -/
structure SinkAsks where
  entry : Entry
  form : SinkForm
  len : Nat
  vs : List VReg := []
  ks : List KReg := []
  ss : List SReg := []
  legal : Bool := true
  typed : Bool := true
  bank : Option BankReg := none
  owned : Bool := true
  clash : Bool := false
  forced : List Ref := []

/-- The tenant record of the moving context. -/
def State.myTenant (s : State) : Tenant := (s.die s.me.die).tenant s.me.a.csr.tenant

/-- The last element's absolute index exists: ELBASE + len - 1 is at most 2^64 - 2 (02 R46). -/
def inRange (elbase : Word) (len : Nat) : Bool := decide (len = 0 ∨ elbase.toNat + len - 1 ≤ 2 ^ 64 - 2)

/-- A sink that joins nothing, resynchronises or does not, stores nothing and fills no cell. -/
def plainForm (joins resync : Bool) : SinkForm :=
  { joins := joins, resync := resync, store := [], guards := [], aligned := fun _ => true, fills := none }

/-- The mask operand of an instruction with an m bit (06 R166), and the masks that it reads. -/
def maskOf (s : State) (m : Bool) : Operand := Operand.of (if m then s.me.a.kref s.me.a.csr.msel else .k0)
@[inherit_doc maskOf] def masksOf (s : State) (m : Bool) : List KReg := if m then [s.me.a.csr.msel] else []

/-- vst and vsts: base, stride in elements, the format of element 0's page where it translates (07 R188, 03 R434, 02 R56, R57). -/
def stridedAsks (s : State) (i : Instr) (m : Bool) (d : VReg) (ss : List SReg) (at_ stride : Word) : SinkAsks :=
  let a := s.me.a
  let p := s.probe at_ .write
  let fp := storeRanges s.myTenant at_.toNat stride.toInt a.csr.vl.toNat a.csr.fmt a.csr.eg p
  { entry := { a.entry i .sink with
      a := Operand.of (a.vref d), mask := maskOf s m, val := at_, str := stride,
      source := some { base := at_, stride := stride, decided := p, form := .vlds } },
    form := { joins := true, resync := false, store := fp, guards := s.guarded fp,
              aligned := alignedCase a.csr.fmt a.csr.eg at_ stride.toInt a.csr.vl.toNat p, fills := none },
    len := a.csr.vl.toNat, vs := [d], ks := masksOf s m, ss := ss, legal := inRange a.csr.elbase a.csr.vl.toNat }

/-- vstx and vldx: the index handle is forced at issue (07 R187, R189, 02 R60). -/
def indexedAsks (s : State) (i : Instr) (m : Bool) (d : VReg) (base : BaseReg) (x : VReg) (load : Bool) : SinkAsks :=
  let a := s.me.a
  let b := s.reg (sregOfBase base)
  let merge := load && m && !a.csr.vtype.getLsbD 11
  let e0 : Entry := { a.entry i .sink with
    a := if load then Operand.none else Operand.of (a.vref d), b := Operand.of (a.vref x), mask := maskOf s m,
    merge := if merge then Operand.of (a.vref d) else Operand.none, val := b, dst := if load then d.toNat else 0 }
  let p := if load then s.probeIndexed e0 .read else s.probeAt e0 .write (s.indexPositions e0)
  let e : Entry := { e0 with source := some { base := b, stride := 0, decided := p, form := .vlds } }
  let fp := indexedRanges s.myTenant b.toNat (s.indexPositions e0) a.csr.fmt a.csr.eg p
  let held : Entry := match p with
    | some q => { e with fmt := decidedFmt a.csr.fmt q, eg := if q.fe then 0 else a.csr.eg }
    | none => e
  { entry := e,
    form := if load then { plainForm false true with fills := some held }
      else { joins := true, resync := false, store := fp, guards := s.guarded fp, aligned := fun _ => false, fills := none },
    len := a.csr.vl.toNat, vs := x :: (if load then (if merge then [d] else []) else [d]), ks := masksOf s m, ss := [sregOfBase base],
    legal := inRange a.csr.elbase a.csr.vl.toNat && !(load && a.streaming d),
    forced := a.vref x :: if load then [(maskOf s m).ref, e0.merge.ref] else [] }

/-- A reduction: EG = 0 and a class that it lists (07 R200 to R204). -/
def reductionAsks (s : State) (i : Instr) (m : Bool) (d : SReg) (v : VReg) (cs : List FmtClass) : SinkAsks :=
  let a := s.me.a
  { entry := { a.entry i .sink with a := Operand.of (a.vref v), mask := maskOf s m, dst := d.toNat }, form := plainForm true true,
    len := a.csr.vl.toNat, vs := [v], ks := masksOf s m,
    legal := inRange a.csr.elbase a.csr.vl.toNat && cs.contains a.csr.fmt.cls && a.csr.eg == 0 }

/-- A sink over a mask: its length and element base are those that the mask captured (05 R146, 06 R179). -/
def maskSinkAsks (s : State) (i : Instr) (k : KReg) (typed : Bool) (dst : Nat) (val : Word) : SinkAsks :=
  let e : Entry := { s.me.a.maskSink i k with dst := dst, val := val }
  { entry := e, form := plainForm false true, len := if typed then s.me.a.csr.vl.toNat else e.len, ks := [k], typed := typed,
    legal := inRange e.elbase e.len }

/-- A lane-private store; every vlpld node that a handle reaches is a stage of its pass (10 R238, R239). -/
def laneAsks (s : State) (i : Instr) (m : Bool) (d : VReg) (x : Option VReg) (b : SReg) : SinkAsks :=
  let a := s.me.a
  { entry := { a.entry i .sink with
      a := Operand.of (a.vref d), b := (match x with | some v => Operand.of (a.vref v) | none => Operand.none), mask := maskOf s m,
      val := s.reg b },
    form := { plainForm false false with guards := a.inOrder.laneLoads },
    len := a.csr.vl.toNat, vs := d :: x.toList, ks := masksOf s m, ss := [b],
    legal := inRange a.csr.elbase a.csr.vl.toNat && a.csr.fmt != .nx4 && a.csr.fmt != .mx8 && a.csr.fmt != .ix4 }

/-- A step of the comb (12 R275 to R281): MVL * K elements of each operand, fewer of a codebook's groups; a stream gives a row of that
length for each operand that names it. -/
def stepAsks (s : State) (i : Instr) (integer vc : Bool) (acc : AccReg) (x y : VReg) : SinkAsks :=
  let a := s.me.a
  let c := a.csr
  let m := c.mvl.toNat
  let len := m * combRank c.fmt / 2 ^ c.eg
  let need := if x = y then 2 else 1
  let handles := [x, y].filter fun v => !a.streaming v
  let rows (v : VReg) : Bool := !a.streaming v || decide (need ≤ a.rowsLeft v)
  { entry := { a.entry i .sink with
      a := Operand.of (a.vref x), b := { ref := a.vref y, bank := if vc then c.slotM else none }, dst := acc.toNat, dst2 := m, len := len },
    form := plainForm false false, len := len, vs := handles,
    legal := (!vc || (c.slotM.isSome && a.indexHandle y)) && rows x && rows y && (!c.mprogAct || field c.mprog 8 2 == acc.toNat) &&
      stepFormat integer c.fmt && (c.fmt.cls != .k || (a.blockOperand c.fmt x && (vc || a.blockOperand c.fmt y))) &&
      (handles.isEmpty || inRange c.elbase len),
    bank := if vc then c.slotM else none, owned := s.ownsComb,
    clash := a.rowClash x (m * combRank c.fmt) || a.rowClash y (if vc then len else m * combRank c.fmt) }

/-- A sink of an accumulator: configured, owned, its slots hold the elements (13 R299 to R302). -/
def coverAsks (s : State) (i : Instr) (j : CovReg) (v : VReg) (weighted resync : Bool) (dst : Nat) : SinkAsks :=
  let a := s.me.a
  let c := s.covNow j.toNat
  { entry := { a.entry i .sink with a := Operand.of (a.vref v), dst := dst, dst2 := j.toNat }, form := plainForm false resync,
    len := a.csr.vl.toNat, vs := [v],
    legal := c.n != 0 && c.holds a.csr.elbase a.csr.vl.toNat && inRange a.csr.elbase a.csr.vl.toNat && (!weighted || c.wt) &&
      a.coverHandle v && a.csr.eg == 0,
    owned := s.ownsCov j }

/-- What each instruction that issues a sink captures and asks; none where it issues none. -/
def sinkAsks (s : State) : Instr → Option SinkAsks
  | .vst m d base x =>
    some (stridedAsks s (.vst m d base x) m d [sregOfBase base] (s.reg (sregOfBase base) + BitVec.ofInt 64 (x.toInt * 8)) 1)
  | .vsts m d base x => some (stridedAsks s (.vsts m d base x) m d [sregOfBase base, x] (s.reg (sregOfBase base)) (s.reg x))
  | .vstx m d base x => some (indexedAsks s (.vstx m d base x) m d base x false)
  | .vldx m d base x => some (indexedAsks s (.vldx m d base x) m d base x true)
  | .vrsumo m d a => some (reductionAsks s (.vrsumo m d a) m d a [.f, .k, .i])
  | .vrsumt m d a => some (reductionAsks s (.vrsumt m d a) m d a [.f, .k, .i])
  | .vrmax m d a => some (reductionAsks s (.vrmax m d a) m d a [.f, .k, .i])
  | .vrmin m d a => some (reductionAsks s (.vrmin m d a) m d a [.f, .k, .i])
  | .vrargx m d a => some (reductionAsks s (.vrargx m d a) m d a [.f, .k, .i])
  | .vrbit o m d a => some (reductionAsks s (.vrbit o m d a) m d a [.i, .b])
  | .vext d a b =>
    if s.me.a.csr.vl.toNat ≤ (s.reg b).toNat then none
    else some
      { entry := { s.me.a.entry (.vext d a b) .sink with a := Operand.of (s.me.a.vref a), val := s.reg b, dst := d.toNat },
        form := plainForm false true, len := s.me.a.csr.vl.toNat, vs := [a], ss := [b],
        legal := inRange s.me.a.csr.elbase s.me.a.csr.vl.toNat }
  | .kpop d a => some (maskSinkAsks s (.kpop d a) a true d.toNat 0)
  | .kfirst d a => some (maskSinkAsks s (.kfirst d a) a true d.toNat 0)
  | .bkany k off => some (maskSinkAsks s (.bkany k off) k false 0 (s.me.a.pc + BitVec.ofInt 64 (off.toInt * 4)))
  | .bknone k off => some (maskSinkAsks s (.bknone k off) k false 0 (s.me.a.pc + BitVec.ofInt 64 (off.toInt * 4)))
  | .vforce d =>
    match s.me.a.vhandle d with
    | .node n => (match broodEntry s.me.a.brood n with
      | some x =>
        if s.me.a.forcing n then none
        else some
          { entry := { s.me.a.entry (.vforce d) .sink with
              len := x.len, elbase := x.elbase, fmt := x.fmt, eg := x.eg, a := Operand.of (.node n) },
            form := { plainForm true false with fills := some x }, len := x.len, vs := [d], typed := false,
            legal := inRange x.elbase x.len }
      | none => none)
    | _ => none
  | .vlpst m d a b => some (laneAsks s (.vlpst m d a b) m d (some a) b)
  | .vlpstB m d b => some (laneAsks s (.vlpstB m d b) m d none b)
  | .comba c acc a b => some (stepAsks s (.comba c acc a b) false c acc a b)
  | .combs c acc a b => some (stepAsks s (.combs c acc a b) false c acc a b)
  | .combi acc a b => some (stepAsks s (.combi acc a b) true false acc a b)
  | .mwrr d a b =>
    some
      { entry := { s.me.a.entry (.mwrr d a b) .sink with
          a := Operand.of (s.me.a.vref a), dst := d.toNat, val := s.reg b, len := s.me.a.csr.mvl.toNat },
        form := plainForm false false, len := s.me.a.csr.mvl.toNat, vs := [a], ss := [b], owned := s.ownsComb,
        legal := inRange s.me.a.csr.elbase s.me.a.csr.mvl.toNat && decide ((s.reg b).toNat < 64) }
  | .cvwt d a => some (coverAsks s (.cvwt d a) d a true false d.toNat)
  | .cvprb d a b => some (coverAsks s (.cvprb d a b) a b false true d.toNat)
  | .cvcom d a => some (coverAsks s (.cvcom d a) d a false false d.toNat)
  | .cvprbb d a n b =>
    let r := s.me.a
    let c := s.covNow a.toNat
    let e : Entry := { r.entry (.cvprbb d a n b) .sink with a := Operand.of (r.vref b), dst2 := a.toNat }
    some
      { entry := e, form := { plainForm false false with fills := some { e with len := n.toNat + 1, fmt := .f32, eg := 0 } },
        len := r.csr.vl.toNat, owned := s.ownsCov a, clash := r.rowClash b r.csr.vl.toNat,
        legal := c.n != 0 && c.holds r.csr.elbase r.csr.vl.toNat && inRange r.csr.elbase r.csr.vl.toNat && r.streaming b &&
          !r.streaming d && decide (n.toNat + 1 ≤ r.rowsLeft b) }
  | _ => none

/-- The issue checks of 02 R41 pass for a sink, and what it forces at issue stands in cells that nothing has still to fill. -/
structure State.SinkReady (s : State) (q : SinkAsks) : Prop where
  unit : s.VectorReady
  legal : q.legal = true
  type : q.typed = true → s.me.a.csr.ill = false
  owned : q.owned = true
  scalars : s.readable q.ss
  handles : ∀ v ∈ q.vs, s.me.a.streaming v = false ∧ (∀ n, s.me.a.refLen (s.me.a.vref v) = some n → n = q.len) ∧
    (s.me.a.csr.deadTrap = true → s.me.a.vhandle v ≠ .empty)
  masks : ∀ k ∈ q.ks, (∀ n, s.me.a.refLen (s.me.a.kref k) = some n → n = q.len) ∧
    (s.me.a.csr.deadTrap = true → k ≠ 0 → s.me.a.khandle k ≠ .empty)
  rows : q.clash = false
  bank : ∀ b, q.bank = some b → s.ownsBank b = true
  forced : ∀ r ∈ q.forced, r.node? = none ∧ ∀ c, r.cell? = some c → s.me.cellUnfilled c = false
  room : s.me.a.freeEntry ≠ none

/-- The stages of a sink and the view that reads their cells, with the cell that it fills (02 R50, R51, R57, R58, 06 R160). -/
def State.sinkPlan (s : State) (q : SinkAsks) : Option (List Stage × Entry × Arch) :=
  (s.me.a.planInOrder s.myTenant q.entry q.form).map fun x => x.2

/-- A step or a batch probe, which takes rows of streams at issue. -/
def takesRows : Instr → Bool
  | .comba .. | .combs .. | .combi .. | .cvprbb .. => true
  | _ => false

/-- The sink is pending: one more item, last, whose entry holds what was captured; control has gone on; no scalar register and no byte
has changed, and of the core only the count of issued sinks. -/
structure State.SinkIssued (s t : State) (q : SinkAsks) (sts : List Stage) (e : Entry) (a : Arch) (n : Nat) (p : Pend) : Prop where
  fresh : broodEntry s.me.a.brood n = none
  entry : broodEntry t.me.a.brood n = some e
  seq : e.seq = s.me.a.seq ∧ t.me.a.seq = s.me.a.seq + 1
  pend : t.me.pend = s.me.pend ++ [p]
  item : p.implicit = false ∧ p.entry = n ∧ p.no = s.me.issueNo ∧ p.stages = sts ∧ p.store = q.form.store ∧ p.resync = q.form.resync ∧
    p.before = s.me.a
  regs : t.me.a.regs = s.me.a.regs ∧ t.me.a.dead = s.me.a.dead
  rest : takesRows q.entry.op = false →
    t.me.a.vh = a.vh ∧ t.me.a.kh = a.kh ∧ t.me.a.csr = { a.csr with repc := t.me.a.csr.repc }
  next : s.Advanced t
  frame : t = { s with me := { s.me with a := t.me.a, pend := t.me.pend, issueNo := s.me.issueNo + 1 }, cores := t.cores }
  cores : ∀ k, t.core k = { s.core k with ages := (t.core k).ages }
  bytes : s.SameBytes t

/-- No sink is pending and nothing is held: an effect of an instruction performs as it issues. -/
structure State.Clear (s : State) : Prop where
  context : s.me.nurse = false
  pend : s.me.pend = []
  run : s.me.run = none
  held : s.me.held = []

/-- Of the registers of the moving context the instruction changed PC alone, and everything else that changed stands in its own core;
no byte reads differently. -/
structure State.OnlyCore (s t : State) : Prop where
  regs : t.me.a = { s.me.a with pc := t.me.a.pc, rep := t.me.a.rep, csr := { s.me.a.csr with repc := t.me.a.csr.repc } }
  next : s.Advanced t
  frame : t = { s with me := { s.me with a := t.me.a, issueNo := s.me.issueNo + 1, epoch := t.me.epoch }, cores := t.cores }
  cores : ∀ k, k ≠ s.me.core → t.core k = s.core k
  bytes : s.SameBytes t

/-- No cached line of the moving context's core is stale: every byte and every word reads as the core sees it beyond its cache. -/
def State.unstale (s : State) : Prop :=
  (∀ a, s.coreByte s.me.core a = s.seen s.me.core a) ∧ ∀ w, s.corePoison s.me.core (8 * w) 8 = s.seenPoison s.me.core w

/-- As OnlyCore, but that the lines which the instruction reads and that the cache does not hold are filled, which the counters of the
links, of the dies and of their sketches count (10 R240, 21 R387, R406, R408). -/
structure State.OnlyCoreAndFills (s t : State) : Prop where
  regs : t.me.a = { s.me.a with pc := t.me.a.pc, rep := t.me.a.rep, csr := { s.me.a.csr with repc := t.me.a.csr.repc } }
  next : s.Advanced t
  frame : t = { s with me := { s.me with a := t.me.a, issueNo := s.me.issueNo + 1, epoch := t.me.epoch }, cores := t.cores, dies := t.dies,
                       pkg := { s.pkg with links := t.pkg.links } }
  cores : ∀ k, k ≠ s.me.core → t.core k = s.core k
  dies : ∀ d, t.die d = { s.die d with traffic := (t.die d).traffic, sketches := (t.die d).sketches }
  links : ∀ a d, (t.link a d).state = (s.link a d).state
  bytes : s.SameBytes t

/-- A bank of the moving context's core. -/
def State.myBank (s : State) (b : BankReg) : Bank := Sparse.get Bank.reset (s.core s.me.core).banks b.toNat

/-- No entry of the brood table expands through a bank: its guard has nothing to materialise (11 R256). -/
def State.unexpanded (s : State) (b : BankReg) : Prop := ∀ e ∈ s.me.a.brood, ∀ o ∈ e.2.operands, o.bank ≠ some b

/-- A bank but for its named parts, and every other bank, are as before. -/
def State.BankKept (s t : State) (b : BankReg) (bytes valid poison dirty : Bool) : Prop :=
  let x := s.myBank b
  let y := t.myBank b
  (bytes = true → y.bytes = x.bytes) ∧ (valid = true → y.valid = x.valid) ∧ (poison = true → y.poison = x.poison) ∧
    (dirty = true → y.dirty = x.dirty) ∧ ∀ c, c ≠ b → t.myBank c = s.myBank c

/-- Everything of a context's registers is as before but PC, REPC and one CSR written by a function. -/
def State.SetsCsr (s : State) (i : Instr) (f : Csrs → Csrs) : Prop :=
  ∃ t, exec i s = .next t ∧ t.me.a = { s.me.a with pc := t.me.a.pc, rep := t.me.a.rep, csr := { f s.me.a.csr with repc := t.me.a.csr.repc } } ∧
    s.Advanced t ∧ t = { s with me := { s.me with a := t.me.a, issueNo := s.me.issueNo + 1, epoch := t.me.epoch } }

/-- A handle names a cell that an instruction filled at issue: a sequence number is taken, the other handles, the scalar registers and
the earlier cells are as before. -/
structure State.NamesCell (s t : State) (c : CellRef) (v : Option VReg) (k : Option KReg) (len : Nat) (f : Option Fmt) : Prop where
  cell : c.len = len ∧ c.fmt = f
  vname : ∀ d, v = some d → t.me.a.vhandle d = .cell c
  kname : ∀ d, k = some d → t.me.a.khandle d = .cell c
  vothers : ∀ w, v ≠ some w → t.me.a.vhandle w = s.me.a.vhandle w
  kothers : ∀ w, k ≠ some w → t.me.a.khandle w = s.me.a.khandle w
  seq : t.me.a.seq = s.me.a.seq + 1
  regs : t.me.a.regs = s.me.a.regs ∧ t.me.a.dead = s.me.a.dead
  next : s.Advanced t
  others : s.OthersKept t

/-- An access to a range meets no fault and no link under retrain, and the first-level TLB holds its translations. -/
def State.spanReady (s : State) (va : Word) (n : Nat) (k : Access) : Prop :=
  s.rangeFault va.toNat n k = none ∧ s.spanLink va.toNat n k = none ∧ s.useSpan va.toNat n k = s

/-- A cell that stands in one page that the first-level TLB holds, with no poison and no debug slot on it. -/
def State.cellReady (s : State) (c : CellRef) (size : Nat) : Prop :=
  let n := size * c.len
  let pa := (s.physAt c.addr .read).toNat
  c.addr.toNat % 4096 + n ≤ 4096 ∧ s.spanReady c.addr n .read ∧ region pa ≠ .pod ∧ s.corePoison s.me.core pa n = false

/-- The object of an address stands in a slice of the quad, and its access translates and reaches its home. -/
structure State.ObjectAt (s : State) (o : Word) (k : Access) (x : Xlat) : Prop extends s.Reaches o 64 k x where
  quad : s.inQuad x.pa = true
  line : x.pa % 64 = 0
  apart : ∀ i, i < 64 → ¬s.touches x true (x.pa + i)

/-! ### Elements and passes -/

/-- The least and the greatest integer of a width. -/
def leastInt (signed : Bool) (w : Nat) : Int := if signed then -(2 ^ (w - 1) : Nat) else 0
@[inherit_doc leastInt] def greatestInt (signed : Bool) (w : Nat) : Int := if signed then (2 ^ (w - 1) : Nat) - 1 else (2 ^ w : Nat) - 1

/-- An integer stands outside what a width holds. -/
def outside (signed : Bool) (w : Nat) (v : Int) : Prop := v < leastInt signed w ∨ greatestInt signed w < v

/-- The pattern of an exact integer at a width: modulo 2^w, or under SAT of the nearest integer that the width holds (03 R99). -/
def fitted (sat signed : Bool) (w : Nat) (v : Int) : Nat :=
  ((if sat then max (leastInt signed w) (min (greatestInt signed w) v) else v) % (2 ^ w : Nat)).toNat

/-- The pattern of a sign in a format of class F: 1 in the top bit. -/
def signBit (f : Fmt) (neg : Bool) : Nat := if neg then 2 ^ (f.bits - 1) else 0

/-- The largest finite pattern, the infinity and the canonical NaN of each format of class F, without a sign (03 R73, R74); E4M3 has no
infinity. -/
def topPatterns : Fmt → Nat × Option Nat × Nat
  | .bf16 => (0x7F7F, some 0x7F80, 0x7FC0)
  | .f16 => (0x7BFF, some 0x7C00, 0x7E00)
  | .e5m2 => (0x7B, some 0x7C, 0x7E)
  | .e4m3 => (0x7E, none, 0x7F)
  | _ => (0x7F7FFFFF, some 0x7F800000, 0x7FC00000)

/-- An integer rounded to odd at 24 significant bits: the exact value where 24 bits hold it (03 R96). -/
def odd24 (v : Int) : FV :=
  let m := v.natAbs
  let s := Nat.log2 m - 23
  .fin (decide (v < 0)) (if m % 2 ^ s = 0 then m / 2 ^ s else m / 2 ^ s ||| 1) s false

/-- A condition on two ordered keys, where one that is unordered makes the test of 06 R171 false but for ne and un. -/
def condHolds (c : Cond) (ordered : Bool) (x y : Int) : Bool :=
  match c with
  | .eq => ordered && x == y
  | .ne => !ordered || x != y
  | .lt => ordered && decide (x < y)
  | .le => ordered && decide (x ≤ y)
  | .gt => ordered && decide (y < x)
  | .ge => ordered && decide (y ≤ x)
  | .un => !ordered
  | .ord => ordered

/-- The instructions that leave an inactive element its merge operand, or zero (06 R166). -/
def maskedOps (f : Variant) (m : Bool) (d a b : BitVec 7) (t : Fmt) : List Instr :=
  [.vadd f m d a b, .vsub f m d a b, .vmul f m d a b, .vdiv f m d a b, .vmin f m d a b, .vmax f m d a b, .vfma f m d a b, .vfms f m d a b,
    .vabs m d a, .vneg m d a, .vsqrt m d a, .vrcp m d a, .vrsq m d a, .vexp2 m d a, .vlog2 m d a, .vtanh m d a, .vsigm m d a] ++
  [.vand f m d a b, .vor f m d a b, .vxor f m d a b, .vshl f m d a b, .vshr f m d a b, .vsra f m d a b, .vmulh f m d a b, .vscl f m d a b,
    .vcvt t m d a, .vrngRaw m d a, .vrngUnif m d a, .vslup m d a b, .vsldn m d a b, .vperm m d a b, .vlpld m d a b]

/-- An access of an element reaches a byte of this package and meets no event and no link under retrain. -/
structure Stg.Meets (g : Stg) (e : Entry) (i va size : Nat) (k : Access) (badPage : PageAttr → Bool) (x : Xlat) : Prop where
  place : g.s.lookup g.s.me va k = .ok x
  clear : (g.access e i va size k badPage).events = []
  home : region x.pa ≠ .pod

/-- A write of a committed element to bytes of memory: neither a nibble, nor a mask bit, nor lane-private SRAM. -/
def ElemWrite.whole (w : ElemWrite) : Prop := w.pa < 2 ^ 60

/-- A byte after some writes in order: of the last that covers it, else as before. -/
def overwritten (ws : List ElemWrite) (a : Nat) (old : Byte) : Byte :=
  ws.foldl (fun b w => if w.pa ≤ a ∧ a < w.pa + w.data.length then (w.data[a - w.pa]?).getD 0 else b) old

/-- FLAGS and the FEIX registers after some elements have raised flags at their absolute indices: FLAGS gathers them, a FEIX holds the
lowest index (01 R24, R25). -/
def flagsAfter (c d : Csrs) (raised : List (Flag × Word)) : Prop :=
  (∀ f : Flag, d.flags.getLsbD (Flag.index f) = (c.flags.getLsbD (Flag.index f) || raised.any fun x => x.1 == f)) ∧
    ∀ f : Flag, (d.feix f).toNat = ((raised.filter fun x => x.1 == f).map fun x => x.2.toNat).foldl min (c.feix f).toNat

/-- A store sink, which keeps no partial state. -/
def Entry.stores (e : Entry) : Prop := ∃ (m : Bool) (v w : VReg) (b : BaseReg) (off : BitVec 7) (x : SReg),
  e.op ∈ [Instr.vst m v b off, .vsts m v b x, .vstx m v b w, .vlpst m v w x, .vlpstB m v x]

/-! ### Happenings -/

/-- Of the contexts and nurse cores, only those with the listed ids may have changed. -/
def State.OnlyContexts (s t : State) (ids : List Nat) : Prop := t.me.id = s.me.id ∧ ∀ id, id ∉ ids → t.ctx id = s.ctx id

/-- A happening completes: in one context, whose state a function gives, and nowhere else. -/
def State.TurnsCtx (s : State) (i : Instr) (id : Nat) (f : Ctx → Ctx) : Prop :=
  ∃ t, exec i s = .next t ∧ t.ctx id = f (s.ctx id) ∧ s.OnlyContexts t [id] ∧ t = { s with me := t.me, others := t.others }

/-- The context goes on with the next instruction. -/
def Ctx.goesOn (c : Ctx) : Ctx := { c with a := c.a.next, issueNo := c.issueNo + 1, wait := .none }

/-- A context with no sink pending and no pass running. -/
def Ctx.sinkless (c : Ctx) : Prop := c.pend = [] ∧ c.run = none

/-- The byte of a tenant's dirty bitmap that a write of an agent at an address marks (19 R380). -/
def State.dirtyByte (s : State) (c : Ctx) (pa : Nat) : Option Nat :=
  if c.nurse then none else (granule pa).map fun g => ((s.die c.die).tenant c.a.csr.tenant).dirtyb.toNat + g / 8

/-- The dirty bits of some writes stand outside the bytes that a test picks out. -/
def State.dirtyApart (s : State) (c : Ctx) (pas : List Nat) (p : Nat → Bool) : Prop :=
  ∀ pa ∈ pas, ∀ b, s.dirtyByte c pa = some b → p b = false

/-- The dirty bits of a run that an agent writes stand apart from what an address reads: outside its 16-byte block, which under a key
it is deciphered with (19 R380, 22 R433, assumption log 100). -/
def State.undirtied (s : State) (c : Ctx) (pa n a : Nat) : Prop :=
  ∀ p z, pa ≤ p → p < pa + n → s.dirtyByte c p = some z → z / 16 ≠ a / 16

/-- CTRL of an object, as an agent reads it. -/
def State.ctrl (s : State) (c : Ctx) (pa : Nat) : Nat := s.objectWord c pa

/-- The instruction writes v to sD and changes nothing else, but that no later sink joins an earlier pass. -/
def State.Answers (s : State) (i : Instr) (d : SReg) (v : Word) : Prop :=
  ∃ t, exec i s = .next t ∧ s.RegisterResult t d v 0 ∧ s.SameBytes t ∧
    t = { s with me := { s.me with a := t.me.a, issueNo := s.me.issueNo + 1, epoch := t.me.epoch } }

/-- A die has sent one more event to a tenant's endpoint (22 R418). -/
def State.Sent (s t : State) (d tenant kind : Nat) (hseq : Word32) (body : List Byte) : Prop :=
  (t.die d).events = (s.die d).events ++ 
    [{ tenant := tenant, endpoint := ((s.die d).tenant tenant).events, kind := kind, hseq := hseq, tick := s.pkg.tick, body := body }]

/-- The package has one more report: its kind, die, place and address, and what else it says; its name is the first if it concerns no
context. -/
def State.Reported (s t : State) (k : ReportKind) (die place : Nat) (addr : Word) (data : List Nat) : Prop :=
  ∃ name, t.pkg.reports = s.pkg.reports ++ [{ kind := k, die := die, place := place, addr := addr, tick := s.pkg.tick, name := name, data := data }]

/-- Every tenant record of every die but one is as before. -/
def State.TenantsKept (s t : State) (d tenant : Nat) : Prop :=
  ∀ e x, (e ≠ d ∨ x ≠ tenant) → (t.die e).tenant x = (s.die e).tenant x

/-- A context that a freeze stops at once: running, nothing pending, held or on its way. -/
def State.freezable (s : State) (id : Nat) : Prop :=
  let c := s.ctx id
  c.state = .running ∧ c.wait = .none ∧ c.sinkless ∧ c.held = [] ∧ c.lostWrite = none ∧ c.softError = none ∧ c.stopped = none ∧
    c.resume = none ∧ ∀ w ∈ (s.core c.core).path, w.of c = false

/-- One link direction has become another, and nothing else of the machine has changed. -/
def State.LinkBecomes (s t : State) (l : LinkDir) (x : Link) : Prop :=
  t = { s with pkg := { s.pkg with links := t.pkg.links } } ∧
    ∀ k, Sparse.get Link.reset t.pkg.links k = if k = 4 * l.src.toNat + l.dst.toNat then x else Sparse.get Link.reset s.pkg.links k

/-- A link direction and the one against it have become others, and nothing else of the machine has changed but counters of the dies. -/
structure State.LinksBecome (s t : State) (l : LinkDir) (x y : Link) : Prop where
  frame : t = { s with pkg := { s.pkg with links := t.pkg.links }, dies := t.dies }
  dies : ∀ d, t.die d = { s.die d with traffic := (t.die d).traffic }
  this : t.link l.src.toNat l.dst.toNat = x
  back : t.link l.dst.toNat l.src.toNat = y
  others : ∀ a b, a < 4 → b < 4 → ¬(a = l.src.toNat ∧ b = l.dst.toNat) → ¬(a = l.dst.toNat ∧ b = l.src.toNat) → t.link a b = s.link a b

/-- One channel's counts of a link have become others. -/
def Link.channelBecomes (x y : Link) (c : Channel) (n : ChannelCounts) : Prop :=
  y = { x with channels := y.channels } ∧ ∀ e, y.channel e = if e = c then n else x.channel e

end Sys2Proof.Machine
end

