-- ==== Sys2Proof/Certificates/Slice0/Obligations.lean ====
section
/-!
DEFINITION. The statements for the provers, in the order of the spec's chapters. The words that they share stand in Safety.lean.
-/

open Sys2Proof Sys2Proof.Machine

/-! ## Integer instructions (05 R126 to R133) -/

/-- 05 R129: the results of the twenty-one three-register instructions on every pair of values, for every destination, sources
that are also the destination among them; no trap on a value, no flag.
05 R130: the results of the immediate instructions: addi sign-extends its immediate, the logical ones zero-extend it, the
shifts read six bits.
05 R133: lui and pcadd; under a rep, PC is the address of the pcadd itself, 4 past the rep.
05 R131 and R132: counts of zeros and ones, the byte swap, the funnel shift over s[a] and the old s[d], and the three
bit-field instructions for every well-formed position and length. -/
def Obligations.IntegerResults : Prop :=
  (∀ (s : State) (d a b : SReg), s.readable [a, b] →
    let x := s.reg a
    let y := s.reg b
    let n := y.toNat % 64
    s.Writes (.add d a b) d (BitVec.ofNat 64 (x.toNat + y.toNat)) ∧
    s.Writes (.sub d a b) d (BitVec.ofInt 64 ((x.toNat : Int) - y.toNat)) ∧
    s.Writes (.and d a b) d (x &&& y) ∧
    s.Writes (.or d a b) d (x ||| y) ∧
    s.Writes (.xor d a b) d (x ^^^ y) ∧
    s.Writes (.shl d a b) d (BitVec.ofNat 64 (x.toNat * 2 ^ n)) ∧
    s.Writes (.shr d a b) d (BitVec.ofNat 64 (x.toNat / 2 ^ n)) ∧
    s.Writes (.sra d a b) d (BitVec.ofInt 64 (x.toInt / 2 ^ n)) ∧
    s.Writes (.slt d a b) d (if x.toInt < y.toInt then 1 else 0) ∧
    s.Writes (.sltn d a b) d (if x.toNat < y.toNat then 1 else 0) ∧
    s.Writes (.minS d a b) d (if x.toInt ≤ y.toInt then x else y) ∧
    s.Writes (.minZ d a b) d (if x.toNat ≤ y.toNat then x else y) ∧
    s.Writes (.maxS d a b) d (if x.toInt ≤ y.toInt then y else x) ∧
    s.Writes (.maxZ d a b) d (if x.toNat ≤ y.toNat then y else x) ∧
    s.Writes (.mul d a b) d (BitVec.ofNat 64 (x.toNat * y.toNat)) ∧
    s.Writes (.mulhS d a b) d (BitVec.ofInt 64 (x.toInt * y.toInt / 2 ^ 64)) ∧
    s.Writes (.mulhZ d a b) d (BitVec.ofNat 64 (x.toNat * y.toNat / 2 ^ 64)) ∧
    s.Writes (.divS d a b) d
      (if y = 0 then -1 else if x.toInt = -2 ^ 63 ∧ y.toInt = -1 then BitVec.ofInt 64 (-2 ^ 63)
        else BitVec.ofInt 64 (x.toInt.tdiv y.toInt)) ∧
    s.Writes (.divZ d a b) d (if y = 0 then -1 else BitVec.ofNat 64 (x.toNat / y.toNat)) ∧
    s.Writes (.remS d a b) d
      (if y = 0 then x else if x.toInt = -2 ^ 63 ∧ y.toInt = -1 then 0
        else BitVec.ofInt 64 (x.toInt - y.toInt * x.toInt.tdiv y.toInt)) ∧
    s.Writes (.remZ d a b) d (if y = 0 then x else BitVec.ofNat 64 (x.toNat % y.toNat))) ∧
  ((∀ (s : State) (d a : SReg) (imm : BitVec 11) (sh : BitVec 6), s.readable [a] →
      let x := s.reg a
      s.Writes (.addi d a imm) d (BitVec.ofInt 64 (x.toInt + imm.toInt)) ∧
      s.Writes (.andi d a imm) d (x &&& BitVec.ofNat 64 imm.toNat) ∧
      s.Writes (.ori d a imm) d (x ||| BitVec.ofNat 64 imm.toNat) ∧
      s.Writes (.xori d a imm) d (x ^^^ BitVec.ofNat 64 imm.toNat) ∧
      s.Writes (.shli d a sh) d (BitVec.ofNat 64 (x.toNat * 2 ^ sh.toNat)) ∧
      s.Writes (.shri d a sh) d (BitVec.ofNat 64 (x.toNat / 2 ^ sh.toNat)) ∧
      s.Writes (.srai d a sh) d (BitVec.ofInt 64 (x.toInt / 2 ^ sh.toNat))) ∧
  (∀ (s : State) (d : SReg) (imm : BitVec 18),
      s.Writes (.lui d imm) d (BitVec.ofInt 64 (imm.toInt * 2 ^ 11)) ∧
      s.Writes (.pcadd d imm) d
        (BitVec.ofInt 64 (((if s.me.a.rep = none then s.me.a.pc else s.me.a.pc + 4).toNat : Int) + imm.toInt * 2 ^ 11)))) ∧
  ∀ (s : State) (d a b : SReg) (pos : BitVec 6) (len : BitVec 5), s.readable [d, a, b] →
    let x := s.reg a
    let n := len.toNat + 1
    let f := x.toNat / 2 ^ pos.toNat % 2 ^ n
    (∃ v, s.Writes (.clz d a) d v ∧ v.toNat ≤ 64 ∧ x.toNat < 2 ^ (64 - v.toNat) ∧
      (v.toNat < 64 → 2 ^ (63 - v.toNat) ≤ x.toNat)) ∧
    (∃ v, s.Writes (.ctz d a) d v ∧ v.toNat ≤ 64 ∧ x.toNat % 2 ^ v.toNat = 0 ∧
      (v.toNat < 64 → x.toNat.testBit v.toNat = true)) ∧
    s.Writes (.popc d a) d (BitVec.ofNat 64 ((List.range 64).countP fun i => x.toNat.testBit i)) ∧
    (∃ v, s.Writes (.bswap d a) d v ∧ ∀ k < 8, v.toNat / 256 ^ k % 256 = x.toNat / 256 ^ (7 - k) % 256) ∧
    s.Writes (.fsh d a b) d (BitVec.ofNat 64 ((x.toNat * 2 ^ 64 + (s.reg d).toNat) / 2 ^ ((s.reg b).toNat % 64))) ∧
    (pos.toNat + n ≤ 64 →
      s.Writes (.bfxZ d a pos len) d (BitVec.ofNat 64 f) ∧
      s.Writes (.bfxS d a pos len) d (BitVec.ofInt 64 (if f < 2 ^ (n - 1) then (f : Int) else f - 2 ^ n)) ∧
      ∃ v, s.Writes (.bfi d a pos len) d v ∧
        ∀ k < 64, v.toNat.testBit k =
          if pos.toNat ≤ k ∧ k < pos.toNat + n then x.toNat.testBit (k - pos.toNat) else (s.reg d).toNat.testBit k)

/-- 01 R12: the window. sN is p((16 * WINB + N) mod 512); s0 reads zero in every window and ignores writes; the position 16 * WINB
has no name. -/
def Obligations.WindowNaming : Prop :=
  ∀ (a : Arch) (n : SReg) (v : Word),
    (a.reg 0 = 0 ∧ a.setReg 0 v = a) ∧
    (n ≠ 0 →
      let p := (16 * (a.csr.win.toNat % 32) + n.toNat) % 512
      (a.dead.getLsbD p = false → a.reg n = Sparse.get 0 a.regs p) ∧
      (∀ q, Sparse.get 0 (a.setReg n v).regs q = if q = p then v else Sparse.get 0 a.regs q) ∧
      p ≠ 16 * (a.csr.win.toNat % 32) ∧
      ∀ m, m ≠ 0 → m ≠ n → (16 * (a.csr.win.toNat % 32) + m.toNat) % 512 ≠ p)

/-! ## Scalar floating point (05 R134 to R138) -/

/-- 05 R134, R135: fadd, fsub, fmul, fdiv, fsqrt and fma compute on the FP32 values of bits 31 to 0 alone, round once under VMODE.FRM,
write zeros above bit 31, OR their flags into FLAGS and leave every FEIX; fma reads the old d. The exact operations are the model's own
(Flags.lean): ExactOperations says what they are, and RoundingModes how they round. -/
def Obligations.FloatArithmeticResults : Prop :=
  ∀ (s : State) (d a b : SReg), s.readable [d, a, b] →
    let m := s.me.a.csr.vmode.toNat / 2 ^ 5 % 8
    let value (n : SReg) : FV := unpack Fmt.f32.layout ((s.reg n).toNat % 2 ^ 32)
    s.WritesFloat (.fadd d a b) d (roundedOnce m (addValues m (value a) (value b))) ∧
    s.WritesFloat (.fsub d a b) d (roundedOnce m (subValues m (value a) (value b))) ∧
    s.WritesFloat (.fmul d a b) d (roundedOnce m (mulValues (value a) (value b))) ∧
    s.WritesFloat (.fdiv d a b) d (roundedOnce m (divValues (value a) (value b))) ∧
    s.WritesFloat (.fsqrt d a) d (roundedOnce m (sqrtValue (value a))) ∧
    s.WritesFloat (.fma d a b) d (roundedOnce m (fmaValues m (value a) (value b) (value d)))

/-- 05 R136: fcmp writes 1 or 0 in all 64 bits. Zeros of either sign compare equal; with a NaN, eq, lt and le give 0 and un gives 1; lt
and le raise INV for any NaN, eq and un for a signalling one.
05 R137: fmin and fmax return one operand's bits, with -0 below +0; of one NaN the other operand, of two the canonical NaN with the
sign of a; INV for a signalling NaN and no other flag, INX never. -/
def Obligations.FloatCompareAndMinMax : Prop :=
  (∀ (s : State) (d a b : SReg), s.readable [a, b] →
      let x := (s.reg a).toNat % 2 ^ 32
      let y := (s.reg b).toNat % 2 ^ 32
      let quiet : List Flag := if signalling32 x || signalling32 y then [.inv] else []
      let any : List Flag := if nan32 x || nan32 y then [.inv] else []
      let ordered : Bool := !nan32 x && !nan32 y
      s.WritesFloat (.fcmpEq d a b) d (if ordered && decide (key32 x = key32 y) then 1 else 0, quiet) ∧
      s.WritesFloat (.fcmpLt d a b) d (if ordered && decide (key32 x < key32 y) then 1 else 0, any) ∧
      s.WritesFloat (.fcmpLe d a b) d (if ordered && decide (key32 x ≤ key32 y) then 1 else 0, any) ∧
      s.WritesFloat (.fcmpUn d a b) d (if ordered then 0 else 1, quiet)) ∧
  (∀ (s : State) (d a b : SReg), s.readable [a, b] →
      let x := (s.reg a).toNat % 2 ^ 32
      let y := (s.reg b).toNat % 2 ^ 32
      let fl : List Flag := if signalling32 x || signalling32 y then [.inv] else []
      let below : Bool := decide (key32 x < key32 y ∨ (key32 x = key32 y ∧ y ≤ x))
      let nans : Nat := if nan32 x && nan32 y then 0x7FC00000 + x / 2 ^ 31 * 2 ^ 31 else if nan32 x then y else x
      s.WritesFloat (.fmin d a b) d (if nan32 x || nan32 y then nans else if below then x else y, fl) ∧
      s.WritesFloat (.fmax d a b) d (if nan32 x || nan32 y then nans else if below then y else x, fl))

/-- 05 R138: fcvt in both directions, for every well-formed format: one conversion under VMODE.FRM and VMODE.SAT; the result of an i
format is sign-extended, every other result zero-extended; the source is the low bits at the width of its format.
03 R95, R96, R98, R99: what a conversion gives. Between formats of class F the value is rounded once; an integer is rounded once, one of
`.i64`, `.n64` or `.n32` to odd at 24 bits before a narrower target; a value becomes an integer by rounding, clamped with INV or SAT, a NaN 0 with
INV; an integer is extended to a wider one, and otherwise cut modulo 2^w, or clamped with SAT under SAT = 1. -/
def Obligations.FloatConvertResults : Prop :=
  (∀ (s : State) (t : Fmt) (d a : SReg), s.readable [a] → t.scalarConvertible = true →
    let r : Rounding := { mode := s.me.a.csr.vmode.toNat / 2 ^ 5 % 8, sat := s.me.a.csr.vmode.getLsbD 3, w := 0 }
    let x := convert t r .f32 ((s.reg a).toNat % 2 ^ 32)
    let low : Int := if t.signed then (if x.1 < 2 ^ (t.bits - 1) then (x.1 : Int) else x.1 - 2 ^ t.bits) else x.1
    x.1 < 2 ^ t.bits ∧
    (∃ u, exec (.fcvtFromF32 t d a) s = .next u ∧ s.Wrote u d (BitVec.ofInt 64 low) (flagMask x.2)) ∧
    s.WritesFloat (.fcvtToF32 t d a) d (convert .f32 r t ((s.reg a).toNat % 2 ^ t.bits))) ∧
  (∀ (t f : Fmt) (r : Rounding) (v : Nat),
    let n := intOf f v
    (t.cls = .f → f.cls = .f → convert t r f v = roundTo t.layout r (unpack f.layout v)) ∧
    (t.cls = .f → f.cls = .i →
      convert t r f v = roundTo t.layout r
        (if f ∈ [Fmt.i64, .n64, .n32] ∧ t ≠ .f32 ∧ 2 ^ 24 ≤ n.natAbs then odd24 n else .fin (decide (n < 0)) n.natAbs 0 false)) ∧
    (t.cls = .i → t ∉ [Fmt.ix4, .ix8] → f.cls = .f → convert t r f v = floatToInt r t.signed t.bits (unpack f.layout v)) ∧
    (t.cls = .i → f.cls = .i → f ≠ t →
      convert t r f v = if f.bits < t.bits then (fitted false t.signed t.bits n, [])
        else (fitted r.sat t.signed t.bits n, if r.sat = true ∧ (n < leastInt t.signed t.bits ∨ greatestInt t.signed t.bits < n) then [.sat] else [])) ∧
    (t.cls = .i → f = t → convert t r f v = (v % 2 ^ t.bits, []))) ∧
  ∀ (r : Rounding) (signed neg sticky quiet : Bool) (w m : Nat) (e : Int), 1 ≤ w →
    let n := roundAt r neg m e sticky 0
    let v : Int := if neg then -(n.1 : Int) else n.1
    let clamp : Flag := if r.sat then .sat else .inv
    floatToInt r signed w (.fin neg m e sticky) =
      (fitted true signed w v, if v < leastInt signed w ∨ greatestInt signed w < v then [clamp] else if n.2 then [.inx] else []) ∧
    floatToInt r signed w (.nan neg quiet) = (0, [.inv]) ∧
    floatToInt r signed w (.inf neg) = (fitted true signed w (if neg then leastInt signed w else greatestInt signed w), [clamp])

/-- 03 R89, R90: the five modes and stochastic rounding, of an exact m * 2^e to a multiple n of 2^q: nearest with ties to even, towards
zero, up, down, nearest with ties away, and by the first 32 discarded bits. The second component says whether the result differs. A value
with a sticky fraction rounds as one half a unit above it.
03 R73, R97: every pattern of FP32, BF16, FP16, E5M2 and E4M3 that is no NaN is a value that rounds to itself in every mode, with no flag; a
NaN gives the canonical one of its sign, with INV for a signalling one.
03 R90, R94, R95: a result within the range of its format is the rounded multiple of the last place that its magnitude gives it, subnormals
among them, with INX where it differs, and UNF where it is tiny after rounding as well; a result of a greater exponent than the format's
gives the largest finite value, infinity or the NaN of E4M3 by mode and SAT, with OVF or SAT, and INX. -/
def Obligations.RoundingModes : Prop :=
  (∀ (mode : Nat) (sat neg : Bool) (w m : Nat) (e q : Int), w < 2 ^ 32 →
      let r0 : Rounding := { mode := mode, sat := sat, w := w }
      let r := roundAt r0 neg m e false q
      (q ≤ e → r = (m * 2 ^ (e - q).toNat, false)) ∧
      (e < q →
        let g := 2 ^ (q - e).toNat
        let away : Prop := m ≤ r.1 * g ∧ r.1 * g < m + g
        let toward : Prop := r.1 * g ≤ m ∧ m < r.1 * g + g
        let near : Prop := 2 * m ≤ 2 * (r.1 * g) + g ∧ 2 * (r.1 * g) ≤ 2 * m + g
        r.2 = decide (r.1 * g ≠ m) ∧
        (mode = 0 → near ∧ (2 * m = 2 * (r.1 * g) + g ∨ 2 * (r.1 * g) = 2 * m + g → r.1 % 2 = 0)) ∧
        (mode = 1 → toward) ∧
        (mode = 2 → if neg then toward else away) ∧
        (mode = 3 → if neg then away else toward) ∧
        (mode = 4 → near ∧ 2 * m ≠ 2 * (r.1 * g) + g) ∧
        (mode = 5 → r.1 = m / g + if 2 ^ 32 ≤ m % g * 2 ^ 32 / g + w then 1 else 0) ∧
        (mode ≤ 4 → roundAt r0 neg m e true q = roundAt r0 neg (2 * m + 1) (e - 1) false q) ∧
        (mode = 5 → roundAt r0 neg m e true q = (r.1, true)))) ∧
  (∀ (f : Fmt) (r : Rounding) (v : Nat), f.cls = .f → v < 2 ^ f.bits →
    ((unpack f.layout v).isNan = false → roundTo f.layout r (unpack f.layout v) = (v, [])) ∧
    ((unpack f.layout v).isNan = true →
      roundTo f.layout r (unpack f.layout v) =
        (signBit f (decide (2 ^ (f.bits - 1) ≤ v)) + (topPatterns f).2.2, if (unpack f.layout v).signals then [.inv] else []))) ∧
  ∀ (f : Fmt) (r : Rounding) (neg sticky : Bool) (m : Nat) (e : Int), f.cls = .f → m ≠ 0 →
    let l := f.layout
    let free : Int := (Nat.log2 m : Int) + e - l.mbits
    let q : Int := max l.minQ free
    let n := roundAt r neg m e sticky q
    let z := roundTo l r (.fin neg m e sticky)
    (r.mode ≤ 4 → q < l.maxQ ∨ (q = l.maxQ ∧ n.1 ≤ l.maxM) →
      (∃ k g, unpack l z.1 = .fin neg k g false ∧ k * 2 ^ (g - min g q).toNat = n.1 * 2 ^ (q - min g q).toNat) ∧
      (Flag.inx ∈ z.2 ↔ n.2 = true) ∧
      (Flag.unf ∈ z.2 ↔ n.2 = true ∧ free < l.minQ ∧ (roundAt r neg m e sticky free).1 < 2 ^ (l.mbits + (l.minQ - free).toNat)) ∧
      ∀ y ∈ z.2, y = .inx ∨ y = .unf) ∧
    (l.maxQ < free →
      let top := topPatterns f
      z = if r.sat = true ∧ f ≠ .f32 then (signBit f neg + top.1, [.sat, .inx])
        else match top.2.1 with
          | none => (signBit f neg + top.2.2, [.ovf, .inx])
          | some inf =>
            (signBit f neg + if r.mode = 1 ∨ (r.mode = 2 ∧ neg = true) ∨ (r.mode = 3 ∧ neg = false) then top.1 else inf, [.ovf, .inx]))

/-- 05 R135, 03 R74: what FloatArithmeticResults and ElementwiseValues round. The sum of two finite values is exact; a zero sum of opposite
signs is +0, or -0 under RDN, and of equal signs keeps the sign. A product is exact; a quotient and a square root are cut at 70 significant bits
or more and say whether a fraction was cut; fma adds to the exact product. The invalid cases give the positive canonical NaN with INV, a finite
nonzero value over zero a signed infinity with DZ, and of NaN operands the first gives the sign, signalling where any of them does. -/
def Obligations.ExactOperations : Prop :=
  (∀ (mode : Nat) (n1 n2 n3 t1 t2 t3 : Bool) (m1 m2 m3 : Nat) (e1 e2 e3 : Int),
      let a : FV := .fin n1 m1 e1 t1
      let b : FV := .fin n2 m2 e2 t2
      let e := min e1 e2
      let sum : Int := (if n1 then -1 else 1) * (m1 * 2 ^ (e1 - e).toNat : Nat) + (if n2 then -1 else 1) * (m2 * 2 ^ (e2 - e).toNat : Nat)
      let isSum (z : FV) : Prop :=
        (sum ≠ 0 → z = .fin (decide (sum < 0)) sum.natAbs e false) ∧
        (sum = 0 → ∃ n f, z = .fin n 0 f false ∧ n = if n1 = n2 then n1 else decide (mode = 3))
      (∃ z, addValues mode a b = (z, []) ∧ isSum z) ∧ (∃ z, subValues mode a (.fin (!n2) m2 e2 t2) = (z, []) ∧ isSum z) ∧
      (∃ p g, mulValues a b = (.fin (n1 != n2) p g false, []) ∧ p = m1 * m2 ∧ (p ≠ 0 → g = e1 + e2)) ∧
      (m1 ≠ 0 → m2 ≠ 0 → ∃ (k q : Nat) (cut : Bool), divValues a b = (.fin (n1 != n2) q (e1 - e2 - k) cut, []) ∧ 2 ^ 69 ≤ q ∧
        q * m2 ≤ m1 * 2 ^ k ∧ m1 * 2 ^ k < (q + 1) * m2 ∧ (cut = false ↔ q * m2 = m1 * 2 ^ k)) ∧
      (m1 = 0 → m2 ≠ 0 → ∃ g, divValues a b = (.fin (n1 != n2) 0 g false, [])) ∧
      (m1 ≠ 0 → m2 = 0 → divValues a b = (.inf (n1 != n2), [.dz])) ∧
      (m1 = 0 → m2 = 0 → divValues a b = (.nan false true, [.inv])) ∧
      (m1 ≠ 0 → n1 = false → ∃ (k q : Nat) (g : Int) (cut : Bool), sqrtValue a = (.fin false q g cut, []) ∧ 2 ^ 69 ≤ q ∧ e1 = 2 * g + k ∧
        q * q ≤ m1 * 2 ^ k ∧ m1 * 2 ^ k < (q + 1) * (q + 1) ∧ (cut = false ↔ q * q = m1 * 2 ^ k)) ∧
      (m1 ≠ 0 → n1 = true → sqrtValue a = (.nan false true, [.inv])) ∧
      (m1 = 0 → ∃ g, sqrtValue a = (.fin n1 0 g false, [])) ∧
      fmaValues mode a b (.fin n3 m3 e3 t3) = addValues mode (mulValues a b).1 (.fin n3 m3 e3 t3)) ∧
  (∀ (mode : Nat) (n1 n2 n3 t : Bool) (m : Nat) (e : Int) (c : FV),
      let bad : FV × List Flag := (.nan false true, [.inv])
      let a : FV := .fin n1 m e t
      (addValues mode (.inf n1) (.inf n2) = if n1 = n2 then (.inf n1, []) else bad) ∧
      (subValues mode (.inf n1) (.inf n2) = if n1 = n2 then bad else (.inf n1, [])) ∧
      addValues mode a (.inf n2) = (.inf n2, []) ∧ addValues mode (.inf n2) a = (.inf n2, []) ∧
      subValues mode a (.inf n2) = (.inf (!n2), []) ∧ subValues mode (.inf n2) a = (.inf n2, []) ∧
      mulValues (.inf n1) (.inf n2) = (.inf (n1 != n2), []) ∧
      mulValues a (.inf n2) = (if m = 0 then bad else (.inf (n1 != n2), [])) ∧
      mulValues (.inf n2) a = (if m = 0 then bad else (.inf (n1 != n2), [])) ∧
      divValues (.inf n1) (.inf n2) = bad ∧ divValues (.inf n2) a = (.inf (n1 != n2), []) ∧
      (∃ g, divValues a (.inf n2) = (.fin (n1 != n2) 0 g false, [])) ∧
      sqrtValue (.inf false) = (.inf false, []) ∧ sqrtValue (.inf true) = bad ∧
      (m = 0 → fmaValues mode a (.inf n2) c = bad ∧ fmaValues mode (.inf n2) a c = bad) ∧
      (m ≠ 0 → fmaValues mode a (.inf n2) (.inf n3) = if n3 = (n1 != n2) then (.inf n3, []) else bad)) ∧
  ∀ (mode : Nat) (neg quiet : Bool) (b c : FV),
      let a : FV := .nan neg quiet
      let calm (vs : List FV) : Bool := quiet && !vs.any FV.signals
      (∀ op ∈ [addValues mode, subValues mode, mulValues, divValues],
        op a b = (.nan neg (calm [b]), []) ∧ (b.isNan = false → op b a = (a, []))) ∧
      sqrtValue a = (a, []) ∧ fmaValues mode a b c = (.nan neg (calm [b, c]), [])


/-! ## Traps (01 R33, 05 R127, R128) -/

/-- 01 R33: trap entry, for every cause, inside a pass and at issue, and the double trap, which changes no register but MVL, 0 as
the comb is free (R32), and stops the context. -/
def Obligations.TrapEntry : Prop :=
  ∀ (s : State) (c : Cause) (va : Word) (write : Bool), s.me.nurse = false → (s.die s.me.die).trslots = 0 →
    (s.me.a.csr.sup = false →
      (∃ t, s.takeTrap { cause := c, va := va, write := write, pass := none } = .next t ∧ s.Trapped t c.code va write) ∧
      ∀ (el pc : Word) (seq : Word32) (slot : Nat), slot < 4 →
        ∃ t, s.takeTrap { cause := c, va := va, write := write, pass := some (el, pc, seq, slot) } = .next t ∧
          t.me.a.csr.cause = BitVec.ofNat 64 (c.code + 2 ^ 8 + slot * 2 ^ 9 + if write then 2 ^ 12 else 0) ∧
          t.me.a.csr.faultel = el ∧ t.me.a.csr.blamepc = pc ∧ t.me.a.csr.blameseq = BitVec.ofNat 64 seq.toNat ∧
          t.me.a.csr.epc = s.me.a.pc ∧ t.me.a.csr.faultva = va ∧ t.me.a.pc = 0xFFFFFF0000000000 ∧
          t.me.a.csr.status.getLsbD 0 = true ∧ t.me.a.csr.status.getLsbD 1 = false ∧ t.me.a.regs = s.me.a.regs ∧
          t.me.a.dead = s.me.a.dead ∧ t.me.a.vh = s.me.a.vh ∧ t.me.a.kh = s.me.a.kh ∧ t.mem = s.mem) ∧
    (s.me.a.csr.sup = true →
      ∃ t, s.takeTrap { cause := c, va := va, write := write, pass := none } = .next t ∧ t.me.a = s.me.a.combless ∧ t.me.state = .stopped ∧
        t.mem = s.mem)

/-- 05 R128, R126, 01 R15: an instruction that traps at issue while an earlier sink is pending changes nothing and issues again once the
sinks have completed; with none pending the trap is taken. That the waiting instruction asks for the happening that it waits for as the next
turn, .advance on the list of turns, is the model's choice (assumption log 5, DESIGN CHOICE). Said of the word that no instruction describes, and of every read of a
dead register under DEADM.TRAP = 1 by add; with DEADM.TRAP = 0 the dead register reads 0.
19 R371: trap and brk take BREAK with FAULTVA s[a] and their own PC. -/
def Obligations.TrapAtIssueWaits : Prop :=
  ((∀ (s : State), s.me.busy = true →
      ∃ t, exec .undefinedWord s = .next t ∧ t = { s with turns := t.turns } ∧ t.turns = .advance s.me.id :: s.turns) ∧
    (∀ (s : State), s.TrapsNow → s.Traps .undefinedWord 0x01 0 false) ∧
    (∀ (s : State) (d a b : SReg), s.TrapsNow → s.me.a.csr.deadm.getLsbD 0 = true →
      (a ≠ 0 ∧ s.me.a.dead.getLsbD (s.me.a.phys a) = true ∨ b ≠ 0 ∧ s.me.a.dead.getLsbD (s.me.a.phys b) = true) →
      s.Traps (.add d a b) 0x04 0 false) ∧
    (∀ (s : State) (n : SReg), s.me.a.dead.getLsbD (s.me.a.phys n) = true → s.reg n = 0)) ∧
  (∀ (s : State) (a : SReg), s.TrapsNow →
      (s.readable [a] → s.Traps (.trap a) 0x13 (s.reg a) false) ∧ s.Traps .brk 0x13 s.me.a.pc false)

/-- 19 R370, R372, 01 R34: in user mode the supervisor instructions eret and tlbinv, and the nurse instructions freeze, launch and lwait,
take PRIV before they read a register. In supervisor mode a nurse instruction on a context takes PRIV as well, which is a double
trap: no register changes but MVL, which reads 0 as the comb is free (01 R32), and the context stops. -/
def Obligations.PrivilegedInstructions : Prop :=
  (∀ (s : State) (d a b : SReg), s.TrapsNow →
    s.Traps .eret 0x17 0 false ∧ s.Traps (.tlbinv a b) 0x17 0 false ∧ s.Traps (.freeze d a b) 0x17 0 false ∧
    s.Traps (.launch d a b) 0x17 0 false ∧ s.Traps (.lwait d a) 0x17 0 false) ∧
  ∀ (s : State) (d a b : SReg), s.me.nurse = false → s.me.a.csr.sup = true → s.me.busy = false →
    ∀ i ∈ [Instr.freeze d a b, .launch d a b, .lwait d a],
      ∃ t, exec i s = .next t ∧ t.me.a = s.me.a.combless ∧ t.me.state = .stopped ∧ t.mem = s.mem

/-- 19 R372: eret in supervisor mode, with no stopped pass. An EPC with a low bit set is a double trap; otherwise PC := EPC, SUP := PSUP,
PSUP := 0, and every other register is as before.
19 R372, 02 R69, R70: eret with a stopped pass re-forces it at FAULTEL: it runs again before anything issues, the registers of the
context go to EPC, to EPC + 4 past a sink, or stay at a rep in progress, and MPROG of a sink's pass reads 0. Where the supervisor has
written STRIP.NUM and left FAULTEL as the stop gave it, or FAULTEL is all ones, the pass resumes at the first element of that strip: the model's
choice, DEDUCED in assumption log 12. -/
def Obligations.ExceptionReturn : Prop :=
  (∀ (s : State), s.me.a.csr.sup = true → s.me.nurse = false → s.me.busy = false →
      (s.me.a.csr.epc.toNat % 4 = 0 → (s.me.a.csr.stripPend = false ∨ (s.me.stopped = none ∧ s.me.resume = none)) →
        ∃ t, exec .eret s = .next t ∧
          t.me.a = { s.me.a with pc := s.me.a.csr.epc, csr := { s.me.a.csr with status := t.me.a.csr.status } } ∧
          t.me.a.csr.status.getLsbD 0 = s.me.a.csr.status.getLsbD 1 ∧ t.me.a.csr.status.getLsbD 1 = false ∧
          (∀ k, 2 ≤ k → t.me.a.csr.status.getLsbD k = s.me.a.csr.status.getLsbD k) ∧
          t = { s with me := { s.me with a := t.me.a, issueNo := s.me.issueNo + 1, service := t.me.service } }) ∧
      (s.me.a.csr.epc.toNat % 4 ≠ 0 →
        ∃ t, exec .eret s = .next t ∧ t.me.a = s.me.a.combless ∧ t.me.state = .stopped)) ∧
  (∀ (s : State) (r : Run), s.me.a.csr.sup = true → s.me.nurse = false → s.me.a.csr.epc.toNat % 4 = 0 →
      s.me.a.csr.stripPend = true → s.me.stopped = some r →
      let sink := r.items.any fun p => !p.implicit
      let c := s.me.a.csr
      let strip := c.strip.toNat % 2 ^ 25
      let asStopped := c.faultel = r.work.elbase + BitVec.ofNat 64 r.cur
      ∃ t q, exec .eret s = .next t ∧ t.me.stopped = none ∧ t.me.run = some q ∧
        q.cur = min (if c.faultel ≠ -1 ∧ (strip = r.num ∨ ¬asStopped) then (c.faultel - r.work.elbase).toNat else 128 * strip) r.work.len ∧ q.strips = [] ∧
        q.items.length = r.items.length ∧ q.stage = r.stage ∧ q.carries = r.carries ∧ q.parts = r.parts ∧
        q.mustCommit = some q.cur ∧ (sink = true → t.me.a.csr.mprog = 0) ∧
        (s.me.a.csr.repAct = false → t.me.a.pc = if sink then s.me.a.csr.epc + 4 else s.me.a.csr.epc) ∧
        t.me.a.regs = s.me.a.regs ∧ t.me.a.dead = s.me.a.dead ∧ t.mem = s.mem)

/-! ## Control flow (05 R139 to R145, 04 R103, R119, R120) -/

/-- 05 R139: the six branches compare s[a] with s[b] and go to PC + sext(off) * 4 or to PC + 4; they change nothing but PC.
05 R140, 04 R103: jal and jalr. jalr reads a before it writes d; a misaligned target traps ALIGN with FAULTVA the target and leaves
d unchanged. -/
def Obligations.BranchesAndJumps : Prop :=
  (∀ (s : State) (a b : SReg) (off : BitVec 11), s.readable [a, b] → s.me.a.rep = none →
      let x := s.reg a
      let y := s.reg b
      let go (taken : Bool) : Word := if taken then BitVec.ofInt 64 ((s.me.a.pc.toNat : Int) + off.toInt * 4) else s.me.a.pc + 4
      s.Goes (.beq a b off) (go (decide (x = y))) ∧
      s.Goes (.bne a b off) (go (decide (x ≠ y))) ∧
      s.Goes (.blt a b off) (go (decide (x.toInt < y.toInt))) ∧
      s.Goes (.bge a b off) (go (decide (y.toInt ≤ x.toInt))) ∧
      s.Goes (.bltn a b off) (go (decide (x.toNat < y.toNat))) ∧
      s.Goes (.bgen a b off) (go (decide (y.toNat ≤ x.toNat)))) ∧
  (∀ (s : State) (d a : SReg) (off : BitVec 18) (imm : BitVec 8),
      s.Links (.jal d off) d (s.me.a.pc + 4) (BitVec.ofInt 64 ((s.me.a.pc.toNat : Int) + off.toInt * 4)) ∧
      (s.readable [a] →
        let target := BitVec.ofInt 64 (((s.reg a).toNat : Int) + imm.toInt * 4)
        (target.toNat % 4 = 0 → s.Links (.jalr d a imm) d (s.me.a.pc + 4) target) ∧
        (target.toNat % 4 ≠ 0 → s.TrapsNow → s.Traps (.jalr d a imm) 0x09 target false)))

/-- 05 R142: wcall. It traps WIN_OVF when WDEPTH + n + 8 exceeds 32, and nothing changes; otherwise the physical register that the
callee names s0 receives PC + 4, the window moves up n blocks and PC goes to the target.
05 R143, R145: wret. It traps WIN_UNF when WDEPTH is less than n and ALIGN for a misaligned return address, and nothing changes;
otherwise it jumps to the value of the register at 16 * WINB, whatever its dead bit, and the window moves down n blocks; no physical
register changes.
05 R144, R145, 04 R118: winb takes n from -8 to 7, not 0. It traps WIN_OVF upwards and WIN_UNF downwards at the bounds, and otherwise
moves the window and writes no register. -/
def Obligations.WindowedCallAndReturn : Prop :=
  ((∀ (s : State) (n : BitVec 3) (off : BitVec 15),
        let depth := s.me.a.csr.win.toNat / 2 ^ 8 % 64
        let p := 16 * ((s.me.a.csr.win.toNat % 32 + n.toNat) % 32)
        (32 < depth + n.toNat + 8 → s.TrapsNow → s.Traps (.wcall n off) 0x0F 0 false) ∧
        (depth + n.toNat + 8 ≤ 32 →
          ∃ t, exec (.wcall n off) s = .next t ∧
            (∀ q, Sparse.get 0 t.me.a.regs q = if q = p then s.me.a.pc + 4 else Sparse.get 0 s.me.a.regs q) ∧
            (∀ q, t.me.a.dead.getLsbD q = (s.me.a.dead.getLsbD q && decide (q ≠ p))) ∧
            windowMoved s.me.a.csr.win t.me.a.csr.win n.toNat ∧
            t.me.a.pc = BitVec.ofInt 64 ((s.me.a.pc.toNat : Int) + off.toInt * 4) ∧
            t.me.a = { s.me.a with regs := t.me.a.regs, dead := t.me.a.dead, pc := t.me.a.pc, csr := { s.me.a.csr with win := t.me.a.csr.win } } ∧
            s.OnlyRegisters t ∧ s.SameBytes t)) ∧
    (∀ (s : State) (n : BitVec 3),
        let depth := s.me.a.csr.win.toNat / 2 ^ 8 % 64
        let target := Sparse.get 0 s.me.a.regs (16 * (s.me.a.csr.win.toNat % 32))
        (depth < n.toNat → s.TrapsNow → s.Traps (.wret n) 0x11 0 false) ∧
        (n.toNat ≤ depth → target.toNat % 4 ≠ 0 → s.TrapsNow → s.Traps (.wret n) 0x09 target false) ∧
        (n.toNat ≤ depth → target.toNat % 4 = 0 →
          ∃ t, exec (.wret n) s = .next t ∧ windowMoved s.me.a.csr.win t.me.a.csr.win (-(n.toNat : Int)) ∧
            t.me.a = { s.me.a with pc := target, csr := { s.me.a.csr with win := t.me.a.csr.win } } ∧
            s.OnlyRegisters t ∧ s.SameBytes t))) ∧
  ((Instr.winb 0).wellFormed = false ∧
    ∀ (s : State) (n : BitVec 4), n ≠ 0 → s.me.a.rep = none →
      let depth : Int := (s.me.a.csr.win.toNat / 2 ^ 8 % 64 : Nat)
      (Instr.winb n).wellFormed = true ∧
      (0 < n.toInt → 32 < depth + n.toInt + 8 → s.TrapsNow → s.Traps (.winb n) 0x0F 0 false) ∧
      (n.toInt < 0 → depth < -n.toInt → s.TrapsNow → s.Traps (.winb n) 0x11 0 false) ∧
      ((0 < n.toInt ∧ depth + n.toInt + 8 ≤ 32 ∨ n.toInt < 0 ∧ -n.toInt ≤ depth) →
        ∃ t, exec (.winb n) s = .next t ∧ windowMoved s.me.a.csr.win t.me.a.csr.win n.toInt ∧
          t.me.a = { s.me.a with pc := s.me.a.pc + 4, csr := { s.me.a.csr with win := t.me.a.csr.win } } ∧
          s.OnlyRegisters t ∧ s.SameBytes t))

/-- 04 R119 to R121: a rep whose prefixed word may be repeated readies the next repeat, from DONE or from 0, and REPC says so; past the last repeat it
clears REPC and goes on at P + 8; a word that may not be repeated traps ILLEGAL at the rep with REPC as it was; a fetch fault of the prefixed word is
taken at the rep with FAULTVA P + 4. 04 R119: how a repeated instruction advances. Until the last repeat, PC stays at the rep and DONE counts the
repeats completed; after the last, REPC reads 0 and PC is P + 8. Said of every instruction through the one operation by which all of them advance. 04
R119, R120: the word that repeat j issues. Every chosen field holds its value plus j times the stride, without leaving its width; every other bit of
the word is unchanged. That the word is checked again at each repeat, so that one which has become unrepeatable meanwhile traps with REPC as it was
(R120 says that ACT is left 0), is the model's choice (assumption log 32, DEDUCED). -/
def Obligations.RepeatPrefix : Prop :=
  ((∀ (s : State) (st : BitVec 2) (cnt : BitVec 6) (fm : BitVec 3),
        let act := s.me.a.csr.repc.getLsbD 7
        let done := s.me.a.csr.repc.toNat % 128
        let go := ¬(act = true ∧ cnt.toNat < done)
        (¬go →
          exec (.rep st cnt fm) s =
            .next { s with me := { s.me with
              a := { s.me.a with pc := s.me.a.pc + 8, csr := { s.me.a.csr with repc := 0 } }, issueNo := s.me.issueNo + 1 } }) ∧
        (go → ∀ x w, s.fetch (s.me.a.pc + 4) = .ok x w →
          (repAccepts w st cnt fm = true →
            exec (.rep st cnt fm) s =
              .next { s with me := { s.me with
                a := { s.me.a with
                  rep := some { count := cnt.toNat + 1, st := st, fm := fm },
                  csr := { s.me.a.csr with repc := BitVec.ofNat 64 (128 + if act then done else 0) } } } }) ∧
          (repAccepts w st cnt fm = false → s.TrapsNow → s.Traps (.rep st cnt fm) 0x01 0 false)) ∧
        (go → ∀ c, s.fetch (s.me.a.pc + 4) = .fault c → c ≠ .poison → s.TrapsNow →
          s.Traps (.rep st cnt fm) c.code (s.me.a.pc + 4) false)) ∧
    (∀ (s : State) (r : Repeat), s.me.a.rep = some r →
        let done := s.me.a.csr.repc.toNat % 128
        (done + 1 < r.count →
          s.retire.me.a = { s.me.a with rep := none, csr := { s.me.a.csr with repc := BitVec.ofNat 64 (128 + done + 1) } }) ∧
        (r.count ≤ done + 1 →
          s.retire.me.a = { s.me.a with rep := none, pc := s.me.a.pc + 8, csr := { s.me.a.csr with repc := 0 } }))) ∧
  (∀ (w : Nat) (st : BitVec 2) (cnt : BitVec 6) (fm : BitVec 3) (j : Nat) (i : Instr) (fs : List (Nat × Nat)),
      w < 2 ^ 32 → repAccepts w st cnt fm = true → j ≤ cnt.toNat → decode w = .ok i → repChosen i fm = some fs →
      (∀ f ∈ fs, repWord w st fm j / 2 ^ f.1 % 2 ^ f.2 = w / 2 ^ f.1 % 2 ^ f.2 + j * 2 ^ st.toNat) ∧
      ∀ k, (∀ f ∈ fs, k < f.1 ∨ f.1 + f.2 ≤ k) → (repWord w st fm j).testBit k = w.testBit k)


/-! ## Control and status registers (01 R36, 19 R375) -/

/-- 01 R36: the CSR map. A number that is not assigned traps ILLEGAL; in user mode any access to an S register, and a write to a UR or
an RO one, traps PRIV; a write to an RO register in supervisor mode is a double trap; every access that the rights allow reads the
register into d and, for a context with no sink pending, completes. A supervisor write of VTYPE stores the value, or ILL alone, with
VL reading 0, where the combination is unsupported. -/
def Obligations.CsrMapAndRights : Prop :=
  ∀ (s : State) (d a : SReg) (n : BitVec 11),
    let x := csrMap.find? fun e => e.1 == n.toNat
    let writes : List Instr := .csrw d a n :: if a = 0 then [] else [.csrset d a n, .csrclr d a n]
    let all : List Instr := [.csrr d n, .csrw d a n, .csrset d a n, .csrclr d a n]
    (x = none → s.TrapsNow → ∀ i ∈ all, s.Traps i 0x01 0 false) ∧
    (∀ e, x = some e →
      (s.TrapsNow → e.2.1 = .s → ∀ i ∈ all, s.Traps i 0x17 0 false) ∧
      (s.TrapsNow → e.2.1 = .ur ∨ e.2.1 = .ro → ∀ i ∈ writes, s.Traps i 0x17 0 false) ∧
      (s.me.nurse = false → s.me.a.csr.sup = true → s.me.busy = false → e.2.1 = .ro →
        ∀ i ∈ writes, ∃ t, exec i s = .next t ∧ t.me.a = s.me.a.combless ∧ t.me.state = .stopped) ∧
      (s.me.busy = false → (s.me.a.csr.sup = true ∨ s.me.nurse = true ∨ e.2.1 ≠ .s) →
        ∃ t, exec (.csrr d n) s = .next t ∧ s.RegisterResult t d (e.2.2.1 s.me.a.csr) 0 ∧
          t = { s with me := { s.me with a := t.me.a, epoch := t.me.epoch, issueNo := s.me.issueNo + 1 } }) ∧
      (n = 1 → s.me.busy = false → s.me.stopped = none → s.me.resume = none → s.me.a.csr.sup = true → s.readable [a] →
        let v := (s.reg a).toNat
        let fmt := v % 32
        let eg := v / 2 ^ 8 % 4
        let supported := v / 2 ^ 31 % 2 = 0 ∧ fmt ≤ 18 ∧ (eg = 0 ∨ (fmt = 0 ∧ eg ≤ 2) ∨ fmt = 1 ∨ fmt = 2)
        ∃ t, exec (.csrw d a n) s = .next t ∧
          (supported → t.me.a.csr.vtype = s.reg a &&& 0xFB1F ∧ t.me.a.csr.vl = s.me.a.csr.vl) ∧
          (¬supported → t.me.a.csr.vtype = 0x80000000 ∧ t.me.a.csr.vl = 0)))

/-- 19 R375, 01 R13, R14, R20, R22, R24, R29, R30: what csrw, csrset and csrclr store, for every register whose rights allow the write: d receives the
old value; the new value is s[a], or the old value with the bits of s[a] set or cleared; bits that no field has are ignored, a reserved code leaves RM
or FRM, a WDEPTH above 24 is stored as 24, STATUS keeps all but SUP and PSUP; no other CSR changes. With a = s0, csrset and csrclr write nothing. 01
R26: while a sink is pending, a read of FLAGS, a FEIX register, STRIP, CELLUSE or CELLCNT waits and changes no register, and so does a write of FLAGS
or a FEIX register by csrw, csrset or csrclr. That the waiting instruction asks for the happening it waits for as the next turn and issues again is
the model's choice (assumption log 5, DESIGN CHOICE). Three clauses are the model's readings, DEDUCED: csrw of WIN with a d names it in the new window
(assumption log 25); BLAMESEQ stores all 64 bits (log 24); VL is stored as 0 while ILL is set (log 30). -/
def Obligations.CsrWriteResults : Prop :=
  (∀ (s : State) (d a : SReg) (n : BitVec 11) (e : Nat × Rights × (Csrs → Word) × Word),
      csrMap.find? (fun e => e.1 == n.toNat) = some e → s.me.busy = false → s.me.stopped = none → s.me.resume = none →
      s.me.a.rep = none → s.readable [a] →
      let old := e.2.2.1 s.me.a.csr
      (∀ x ∈ [(Instr.csrw d a n, s.reg a)] ++ (if a = 0 then [] else [(.csrset d a n, old ||| s.reg a), (.csrclr d a n, old &&& ~~~(s.reg a))]),
        (e.2.1 = .u ∨ (s.me.a.csr.sup = true ∨ s.me.nurse = true) ∧ e.2.1 ≠ .ro) →
        let v := x.2
        ∃ t, exec x.1 s = .next t ∧ t.reg d = (if d = 0 then 0 else old) ∧ t.me.a.pc = s.me.a.pc + 4 ∧
          (∀ m ∈ csrMap, m.1 ≠ n.toNat → ¬(n = 1 ∧ m.1 = 0) → m.2.2.1 t.me.a.csr = m.2.2.1 s.me.a.csr) ∧
          (n.toNat ∉ [0x000, 0x001, 0x002, 0x048, 0x100] → e.2.2.1 t.me.a.csr = v &&& e.2.2.2) ∧
          (n = 0 → t.me.a.csr.vl = if s.me.a.csr.vtype.getLsbD 31 then 0 else v &&& 0xFFFFFFFF) ∧
          (n = 2 →
            let w := t.me.a.csr.vmode.toNat
            w < 256 ∧ w % 8 = (if v.toNat % 8 ≤ 5 then v.toNat % 8 else old.toNat % 8) ∧ w / 8 % 4 = v.toNat / 8 % 4 ∧
              w / 32 = if v.toNat / 32 % 8 ≤ 4 then v.toNat / 32 % 8 else old.toNat / 32 % 8) ∧
          (n = 0x48 → t.me.a.csr.win.toNat = v.toNat % 32 + min 24 (v.toNat / 256 % 64) * 256) ∧
          (n = 0x100 → ∀ k, t.me.a.csr.status.getLsbD k = if k < 2 then v.getLsbD k else old.getLsbD k) ∧
          (∀ p, d = 0 ∨ p ≠ t.me.a.phys d →
            Sparse.get 0 t.me.a.regs p = Sparse.get 0 s.me.a.regs p ∧ t.me.a.dead.getLsbD p = s.me.a.dead.getLsbD p) ∧
          s.SameBytes t ∧ s.OthersKept t) ∧
      (a = 0 → (e.2.1 ≠ .s ∨ s.me.a.csr.sup = true ∨ s.me.nurse = true) →
        ∀ i ∈ [Instr.csrset d a n, .csrclr d a n], ∃ t, exec i s = .next t ∧ s.RegisterResult t d old 0)) ∧
  (∀ (s : State) (d a : SReg) (n : BitVec 11), s.me.busy = true → s.readable [a] →
      let waits (i : Instr) : Prop := exec i s = .next { s with turns := .advance s.me.id :: s.turns }
      (n.toNat ∈ [0x008, 0x010, 0x011, 0x012, 0x013, 0x014, 0x015, 0x016, 0x004, 0x032, 0x033] → waits (.csrr d n)) ∧
      (n.toNat ∈ [0x008, 0x010, 0x011, 0x012, 0x013, 0x014, 0x015, 0x016] →
        waits (.csrw d a n) ∧ waits (.csrset d a n) ∧ waits (.csrclr d a n)))

/-! ## Loads, stores, atomics, fences (05 R147 to R157) -/

/-- 05 R147, R148, R151: the scalar loads, every width, sign and acquire. The address is s[base] plus the offset times the size; an
acquire at quad or wider reads at the home, every other load as the core sees memory; no byte of memory changes but an A bit.
That an access sets its A and D bits when the model performs it is the model's choice (assumption log 26, DESIGN CHOICE). -/
def Obligations.LoadResults : Prop :=
  ∀ (s : State) (sx : Bool) (acq : Option Scope) (off base : BitVec 6) (d : SReg) (x : Xlat),
    s.Quiet → s.me.ahead = [] → s.readable [sregOfBase base] →
    let home : Bool := match acq with | some sc => decide (2 ≤ sc.code) | none => false
    let read (a : Nat) : Byte := if home then s.readByte s.me a else s.coreByte s.me.core a
    let at_ (size : Nat) : Word := BitVec.ofInt 64 (((s.reg (sregOfBase base)).toNat : Int) + off.toInt * size)
    let ready (size : Nat) : Prop := s.Reaches (at_ size) size .read x ∧
      (if home then s.homePoison x.pa size = false ∧ s.pathOverlaps x.pa size = false else s.corePoison s.me.core x.pa size = false)
    (ready 1 → s.Loads (.ldb sx acq off base d) d 1 sx read x) ∧
    (ready 2 → s.Loads (.ldh sx acq off base d) d 2 sx read x) ∧
    (ready 4 → s.Loads (.ldw sx acq off base d) d 4 sx read x) ∧
    (ready 8 → s.Loads (.ldd acq off base d) d 8 false read x)

/-- 05 R147, R148, R151: the scalar stores, every width and release, of a context with nothing pending whose stores are not late.
05 R149, 10 R235: a store of any width issued behind a pending sink or a running pass is held, behind every effect held before it: no
byte changes at any home or core, the store stands last among the held effects, and control goes on.
That a held store performs at its core as soon as nothing stands before it, and then travels in order to its home, is the model's choice (assumption logs
74 and 81, DESIGN CHOICE). -/
def Obligations.StoreResults : Prop :=
  (∀ (s : State) (rel : Option Scope) (off : BitVec 7) (base : BaseReg) (d : SReg) (x : Xlat),
      s.Quiet → s.me.lag = false → s.readable [sregOfBase base, d] → (rel = none ∨ s.WritesDone) →
      let at_ (size : Nat) : Word := BitVec.ofInt 64 (((s.reg (sregOfBase base)).toNat : Int) + off.toInt * size)
      (s.Reaches (at_ 1) 1 .write x → s.Stores (.stb rel off base d) d 1 x) ∧
      (s.Reaches (at_ 2) 2 .write x → s.Stores (.sth rel off base d) d 2 x) ∧
      (s.Reaches (at_ 4) 4 .write x → s.Stores (.stw rel off base d) d 4 x) ∧
      (s.Reaches (at_ 8) 8 .write x → s.Stores (.std rel off base d) d 8 x)) ∧
  (∀ (s : State) (off : BitVec 7) (base : BaseReg) (d : SReg) (x : Xlat),
      (∃ p ∈ s.me.items, p.no < s.me.issueNo) → (∀ h ∈ s.me.held, s.me.mayPerform h = false) →
      (s.me.held.filter Held.isStore).length < 32 → s.readable [sregOfBase base, d] →
      ∀ e ∈ [(Instr.stb none off base d, 1), (.sth none off base d, 2), (.stw none off base d, 4), (.std none off base d, 8)],
        let va : Word := BitVec.ofInt 64 (((s.reg (sregOfBase base)).toNat : Int) + off.toInt * (e.2 : Nat))
        s.Reaches va e.2 .write x → s.guarded [{ base := va.toNat, len := e.2 }] = [] →
        ∃ t h, exec e.1 s = .next t ∧ t.me.held = s.me.held ++ [h] ∧ h.instr = e.1 ∧ h.no = s.me.issueNo ∧
          h.args = [word x.va, word x.pa, s.reg d, word e.2] ∧ t.me.pend = s.me.pend ∧ t.me.run = s.me.run ∧ s.Advanced t ∧
          t.me.a = { s.me.a with pc := t.me.a.pc, rep := t.me.a.rep, csr := { s.me.a.csr with repc := t.me.a.csr.repc } } ∧
          (∀ a, ¬s.touches x false a → Sparse.get 0 t.mem a = Sparse.get 0 s.mem a) ∧
          ∀ k a, s.spared x false a → t.coreByte k a = s.coreByte k a)

/-- 05 R127, R147, R153, 19 R364: a misaligned scalar load, store or atomic, of any width, sign, order and scope, traps ALIGN, and one
that is aligned and whose page does not translate or does not permit it takes that fault, both with FAULTVA the address and WR for a
store or an atomic, before anything changes. -/
def Obligations.ScalarAccessFaults : Prop :=
  ∀ (s : State) (sx : Bool) (acq rel : Option Scope) (off : BitVec 6) (off' : BitVec 7) (base val : BaseReg) (d : SReg)
      (o : AmoOrder) (sc : Scope) (wd : Bool), s.TrapsNow → s.readable [sregOfBase base, sregOfBase val, d] →
    let b := s.reg (sregOfBase base)
    let lo (n : Nat) : Word := BitVec.ofInt 64 ((b.toNat : Int) + off.toInt * n)
    let st (n : Nat) : Word := BitVec.ofInt 64 ((b.toNat : Int) + off'.toInt * n)
    let faults (i : Instr) (va : Word) (n : Nat) (k : Access) (w : Bool) : Prop :=
      (va.toNat % n ≠ 0 → s.Traps i 0x09 va w) ∧
      (va.toNat % n = 0 → ∀ c, s.lookup s.me va.toNat k = .fault c → s.Traps i c.code va w)
    (∀ e ∈ [(Instr.ldb sx acq off base d, 1), (.ldh sx acq off base d, 2), (.ldw sx acq off base d, 4), (.ldd acq off base d, 8)],
      faults e.1 (lo e.2) e.2 .read false) ∧
    (∀ e ∈ [(Instr.stb rel off' base d, 1), (.sth rel off' base d, 2), (.stw rel off' base d, 4), (.std rel off' base d, 8)],
      faults e.1 (st e.2) e.2 .write true) ∧
    ∀ i ∈ [Instr.amoadd o sc wd val base d, .amoswp o sc wd val base d, .amocas o sc wd val base d, .amominS o sc wd val base d,
        .amominZ o sc wd val base d, .amomaxS o sc wd val base d, .amomaxZ o sc wd val base d, .amoand o sc wd val base d,
        .amoor o sc wd val base d, .amoxor o sc wd val base d],
      faults i b (if wd then 8 else 4) .atomic true

/-- 05 R153 to R155: the ten atomics, both widths, every order and scope. The old value goes to d, zero-extended, or sign-extended for
the signed minimum and maximum; the new value is at the home at once; amocas reads the old d. -/
def Obligations.AtomicResults : Prop :=
  ∀ (s : State) (o : AmoOrder) (sc : Scope) (wd : Bool) (val base : BaseReg) (d : SReg) (x : Xlat),
    s.Quiet → s.me.ahead = [] → s.WritesDone → s.readable [sregOfBase val, sregOfBase base, d] →
    let n := if wd then 8 else 4
    let v := (s.reg (sregOfBase val)).toNat % 2 ^ (8 * n)
    let e := (s.reg d).toNat % 2 ^ (8 * n)
    let sg (k : Nat) : Int := if k < 2 ^ (8 * n - 1) then (k : Int) else k - 2 ^ (8 * n)
    s.Reaches (s.reg (sregOfBase base)) n .atomic x → s.homePoison x.pa n = false → s.pathToHome x.pa = false →
    s.Swaps (.amoadd o sc wd val base d) d n false x (fun old => (old + v) % 2 ^ (8 * n)) ∧
    s.Swaps (.amoswp o sc wd val base d) d n false x (fun _ => v) ∧
    s.Swaps (.amocas o sc wd val base d) d n false x (fun old => if old = e then v else old) ∧
    s.Swaps (.amominS o sc wd val base d) d n true x (fun old => if sg old < sg v then old else v) ∧
    s.Swaps (.amominZ o sc wd val base d) d n false x (fun old => if old < v then old else v) ∧
    s.Swaps (.amomaxS o sc wd val base d) d n true x (fun old => if sg old < sg v then v else old) ∧
    s.Swaps (.amomaxZ o sc wd val base d) d n false x (fun old => if old < v then v else old) ∧
    s.Swaps (.amoand o sc wd val base d) d n false x (fun old => old &&& v) ∧
    s.Swaps (.amoor o sc wd val base d) d n false x (fun old => old ||| v) ∧
    s.Swaps (.amoxor o sc wd val base d) d n false x (fun old => old ^^^ v)

/-- 05 R156, R157: a fence of any order and scope, once every earlier sink has completed and every earlier write is visible: it completes
and changes no register but PC and no byte at any home; an acquire at quad or wider empties the data cache of a context's core, and
any other fence leaves it.
19 R373, R374, 04 R112: wfe with the event bit set clears it and completes, and otherwise waits on the line of s[a], or on no line;
yield waits; nop only advances; dcwb completes once every earlier sink and write is done; dcinv with s[b] = 0 empties the data cache;
none of them changes a register but PC, or a byte of memory.
That every fence waits for every earlier write, as fence.sc.core does, and that wfe on an untranslated address waits on no line, are the model's choices
(assumption logs 110 and 29, DESIGN CHOICE). -/
def Obligations.FencesAndWaits : Prop :=
  (∀ (s : State) (o : FenceOrder) (sc : Scope), s.Quiet → s.WritesDone → s.me.a.rep = none →
      ∃ t, exec (.fence o sc) s = .next t ∧ t.me.a = { s.me.a with pc := s.me.a.pc + 4 } ∧ t.mem = s.mem ∧ s.OthersKept t ∧
        (t.core s.me.core).path = (s.core s.me.core).path ∧
        (t.core s.me.core).cache =
          if o ≠ .rel ∧ 2 ≤ sc.code ∧ s.me.nurse = false then [] else (s.core s.me.core).cache) ∧
  (∀ (s : State) (a b : SReg) (h : BitVec 25), s.readable [a, b] → s.me.a.rep = none →
      let on := { s.me.a with pc := s.me.a.pc + 4 }
      (s.me.event = true →
        exec (.wfe a) s = .next { s with me := { s.me with a := on, event := false, issueNo := s.me.issueNo + 1 } }) ∧
      (s.me.event = false →
        ∃ l, exec (.wfe a) s = .next { s with me := { s.me with wait := .wfe l false } } ∧ (a = 0 → l = none) ∧
          ∀ x, a ≠ 0 → s.translate s.me (s.reg a).toNat .read = .ok x → l = some (x.pa / 64)) ∧
      exec .yield s = .next { s with me := { s.me with wait := .yield false } } ∧
      s.Goes (.nop h) (s.me.a.pc + 4) ∧
      (s.Quiet → s.WritesDone → s.Goes .dcwb (s.me.a.pc + 4)) ∧
      (s.reg b = 0 →
        ∃ t, exec (.dcinv a b) s = .next t ∧ (t.core s.me.core).cache = [] ∧ t.me.a = on ∧ t.mem = s.mem ∧
          t = { s with me := t.me, cores := t.cores } ∧ (t.core s.me.core).path = (s.core s.me.core).path ∧
          ∀ k, k ≠ s.me.core → t.core k = s.core k))

/-! ## Vector configuration (06 R158 to R161, 04 R115, R116) -/

/-- 06 R158, 04 R115, R116: setvli and setvl. A supported request sets VTYPE in the fields of R20 and VL to the lesser of s[a] and
2^32 - 1; an ill-formed one sets ILL alone and VL 0; d := VL; nothing else changes.
06 R159, R161: setel stores all 64 bits; dead of scalars sets the dead bits of the named registers but s0's; dead of vectors and of
masks makes the named handles EMPTY and leaves the others; none reads a register but setel's source, or writes memory. -/
def Obligations.VectorLengthAndElementBase : Prop :=
  (∀ (s : State) (d a b : SReg) (req : BitVec 11), s.me.nurse = false → s.readable [a, b] →
      let n := req.toNat
      let q := (s.reg b).toNat
      let set (i : Instr) (fmt eg mpol msel : Nat) (clean : Bool) : Prop :=
        let ok : Bool := clean && decide (fmt ≤ 18) && (eg == 0 || (fmt == 0 && decide (eg ≤ 2)) || fmt == 1 || fmt == 2)
        let vl := if ok then min (s.reg a).toNat 0xFFFFFFFF else 0
        ∃ t, exec i s = .next t ∧
          t.me.a.csr.vtype = (if ok then BitVec.ofNat 64 (fmt + eg * 2 ^ 8 + mpol * 2 ^ 11 + msel * 2 ^ 12) else 0x80000000) ∧
          t.me.a.csr.vl.toNat = vl ∧ t.reg d = (if d = 0 then 0 else BitVec.ofNat 64 vl) ∧
          t.me.a.csr = { s.me.a.csr with vtype := t.me.a.csr.vtype, vl := t.me.a.csr.vl, repc := t.me.a.csr.repc } ∧
          t.me.a.vh = s.me.a.vh ∧ t.me.a.kh = s.me.a.kh ∧ t.me.a.brood = s.me.a.brood ∧ t.me.a.seq = s.me.a.seq ∧
          (∀ p, d = 0 ∨ p ≠ s.me.a.phys d →
            Sparse.get 0 t.me.a.regs p = Sparse.get 0 s.me.a.regs p ∧ t.me.a.dead.getLsbD p = s.me.a.dead.getLsbD p) ∧
          s.Advanced t ∧ s.OnlyRegisters t ∧ s.SameBytes t
      set (.setvli d a req) (n % 32) (n / 32 % 4) (n / 128 % 2) (n / 256 % 8) true ∧
      set (.setvl d a b) (q % 32) (q / 2 ^ 8 % 4) (q / 2 ^ 11 % 2) (q / 2 ^ 12 % 16)
        (decide (q / 2 ^ 16 = 0) && decide (q / 2 ^ 10 % 2 = 0) && decide (q / 2 ^ 5 % 8 = 0))) ∧
  (∀ (s : State), s.me.nurse = false →
      (∀ a : SReg, s.readable [a] →
        ∃ t, exec (.setel a) s = .next t ∧ t.me.a.csr.elbase = s.reg a ∧ s.Advanced t ∧
          t.me.a = { s.me.a with
            pc := t.me.a.pc, rep := t.me.a.rep, csr := { s.me.a.csr with elbase := s.reg a, repc := t.me.a.csr.repc } } ∧
          s.OnlyRegisters t) ∧
      (∀ d a : SReg, (Instr.deadScalar d a).wellFormed = true →
        ∃ t, exec (.deadScalar d a) s = .next t ∧
          (∀ n : SReg, n ≠ 0 → t.me.a.dead.getLsbD (s.me.a.phys n) =
            (s.me.a.dead.getLsbD (s.me.a.phys n) || (decide (d.toNat ≤ n.toNat) && decide (n.toNat ≤ a.toNat)))) ∧
          t.me.a.dead.getLsbD (16 * s.me.a.csr.winb) = s.me.a.dead.getLsbD (16 * s.me.a.csr.winb) ∧
          t.me.a.regs = s.me.a.regs ∧ t.me.a.vh = s.me.a.vh ∧ t.me.a.kh = s.me.a.kh ∧ s.Advanced t ∧ s.SameBytes t) ∧
      (∀ d a : VReg, (Instr.deadVector d a).wellFormed = true →
        ∃ t, exec (.deadVector d a) s = .next t ∧
          (∀ n : VReg, t.me.a.vhandle n = if d.toNat ≤ n.toNat ∧ n.toNat ≤ a.toNat then .empty else s.me.a.vhandle n) ∧
          t.me.a.kh = s.me.a.kh ∧ t.me.a.regs = s.me.a.regs ∧ t.me.a.dead = s.me.a.dead ∧ s.Advanced t ∧ s.SameBytes t) ∧
      (∀ d a : KReg, (Instr.deadMask d a).wellFormed = true →
        ∃ t, exec (.deadMask d a) s = .next t ∧
          (∀ n : KReg, n ≠ 0 → t.me.a.khandle n = if d.toNat ≤ n.toNat ∧ n.toNat ≤ a.toNat then .empty else s.me.a.khandle n) ∧
          t.me.a.vh = s.me.a.vh ∧ t.me.a.regs = s.me.a.regs ∧ t.me.a.dead = s.me.a.dead ∧ s.Advanced t ∧ s.SameBytes t))

/-! ## Nodes (02 R39 to R41, 06 R163 to R178, 07 R191 to R198, 10 R238, 11 R267) -/

/-- 02 R39, R40, 01 R23, R17: every element-wise, mask, movement, scan, random, block, lane-private and expansion instruction that
passes its issue checks creates one node: its destination names it; the entry holds the instruction, its sequence number, the length,
format, modes and seeds captured at issue, and its operands as the source handles named them; no scalar register, other handle,
CSR or byte of memory changes.
Which free entry of the table the node takes is the model's choice (assumption log 8, DESIGN CHOICE). -/
def Obligations.NodeInstructionsCreateNodes : Prop :=
  ∀ (s : State) (i : Instr) (q : NodeAsks), nodeAsks s i = some q → i.wellFormed = true → s.NodeReady q →
    ∃ t n e, exec i s = .next t ∧ s.Created t n q.v q.k ∧ broodEntry t.me.a.brood n = some e ∧ s.Captured i e ∧
      e.kind = .node ∧ e.fmt = q.fmt.getD s.me.a.csr.fmt ∧ e.eg = s.me.a.csr.eg ∧
      e.a = q.a ∧ e.b = q.b ∧ e.c = q.c ∧ e.mask = q.mask ∧ e.merge = q.merge

/-- 07 R180 to R186, 15 R332, 03 R434: the vector loads create load nodes that read no element at issue: the source holds the base, the
stride in elements (1, s[x], 0) and the object of vldc, and the format of element 0's page where it translates; the old
destination is a source where it is a merge operand, of vldc under MPOL = 0 whatever m holds.
That a page that does not translate at issue decides nothing is the model's choice (assumption log 42, DESIGN CHOICE), and so is the entry (log 8). -/
def Obligations.VectorLoadsCreateLoadNodes : Prop :=
  ∀ (s : State) (m : Bool) (d : VReg) (base : BaseReg) (x : BitVec 7),
    let a := s.me.a
    let keep := m && !a.csr.vtype.getLsbD 11
    let b := s.reg (sregOfBase base)
    let near := BitVec.ofInt 64 ((b.toNat : Int) + x.toInt * 8)
    let loads (i : Instr) (ss : List SReg) (merges : Bool) (form : LoadForm) (at_ stride : Word) : Prop :=
      s.NodeReady { v := some d, vs := if merges then [d] else [], ks := if m then [a.csr.msel] else [], ss := ss } →
        ∃ t n e src, exec i s = .next t ∧ s.Created t n (some d) none ∧ broodEntry t.me.a.brood n = some e ∧ s.Captured i e ∧
          e.kind = .load ∧ e.source = some src ∧ src.base = at_ ∧ src.stride = stride ∧ src.form = form ∧
          src.decided = s.probe at_ .read ∧ (src.decided = none → e.fmt = a.csr.fmt ∧ e.eg = a.csr.eg) ∧
          e.mask = Operand.of (if m then a.kref a.csr.msel else .k0) ∧
          e.merge = if merges then Operand.of (a.vref d) else Operand.none
    loads (.vld m d base x) [sregOfBase base] keep .vld near 1 ∧
    loads (.vldb m d base x) [sregOfBase base] keep .vldb near 0 ∧
    loads (.vlds m d base x) [sregOfBase base, x] keep .vlds b (s.reg x) ∧
    loads (.vldc m d base x) [sregOfBase base, x] (!a.csr.vtype.getLsbD 11) .vldc b (s.reg x)

/-- 02 R41, 01 R17, R18, 06 R163, R164: the issue checks in their order, said of vadd: ILLEGAL for a stream or, with ILL clear, for a
format that it does not accept; VTYPE_ILL; DEAD_READ; LEN_MISMATCH; and of kmeet, ILLEGAL for k0 as destination. Each traps
precisely and creates no node.
The order of the checks among each other is read from several rules (assumption log 40, DEDUCED). -/
def Obligations.VectorIssueChecks : Prop :=
  ∀ (s : State) (m : Bool) (d a b : VReg) (k l : KReg), s.TrapsNow →
    let r := s.me.a
    let keep := m && !r.csr.vtype.getLsbD 11
    let i : Instr := .vadd .vv m d a b
    let srcs : List VReg := a :: b :: if keep then [d] else []
    let streams := r.streaming d = true ∨ r.streaming a = true ∨ r.streaming b = true
    let empties := r.csr.deadTrap = true ∧ ((∃ v ∈ srcs, r.vhandle v = .empty) ∨ (m = true ∧ r.csr.msel ≠ 0 ∧ r.khandle r.csr.msel = .empty))
    let clash := (∃ v ∈ srcs, ∃ n, r.refLen (r.vref v) = some n ∧ n ≠ r.csr.vl.toNat) ∨
      (m = true ∧ ∃ n, r.refLen (r.kref r.csr.msel) = some n ∧ n ≠ r.csr.vl.toNat)
    let wrong := r.csr.ill = false ∧ r.csr.fmt.cls = .b
    (streams ∨ wrong → s.Traps i 0x01 0 false) ∧
    (¬streams → r.csr.ill = true → s.Traps i 0x02 0 false) ∧
    (¬streams → ¬wrong → r.csr.ill = false → empties → s.Traps i 0x04 0 false) ∧
    (¬streams → ¬wrong → r.csr.ill = false → ¬empties → clash → s.Traps i 0x03 0 false) ∧
    s.Traps (.kmeet 0 k l) 0x01 0 false

/-! ## What an element is (06 R163 to R179, 07 R185, R191 to R198) -/

/-- 06 R166 to R174, R177, 03 R77, R99: the value of an element of each element-wise node, with a the element of operand a and b that of operand
b. In class I arithmetic is exact and delivered modulo 2^bits, or clamped under SAT; a division by zero gives all ones; in classes F and K the
exact result is rounded once; bitwise, shifts with the amount modulo the width, the high product; vcmp by integers and by FP32 values; vsel;
vcvt, which converts merge values too; vscl by a scalar or an immediate; vrng. An inactive element is zero, or the merge operand's, and raises no flag. What a source in another
format reads as is patternRead, valueRead, bitsRead and moveInto. That vmin and vmax of `.ix4` clamp under SAT, and that conversions of bitwise
operands raise flags, are the model's choices (DESIGN CHOICE, assumption logs 107, 108). -/
def Obligations.ElementwiseValues : Prop :=
  ∀ (g : Stg) (e : Entry) (env : Env) (row : Nat → Env) (i : Nat) (carry : Option Carry) (m : Bool) (f : Variant) (cc : Cond)
    (vd va vb : BitVec 7) (kd : KReg) (t : Fmt),
    let x := g.node e env row i carry
    let a := g.operand e e.a env i
    let b := (g.opB e env i).1
    let c := g.operand e e.c env i
    let r := e.rounding i
    let active := (g.active e env i).1
    let gives (v : Nat → Nat) : Prop := x.vals = (List.range (2 ^ e.eg)).map v
    let raised (own : Flag → Nat → Prop) : Prop := ∀ y, y ∈ x.flags ↔
      y ∈ a.flags ∨ (∃ z ∈ (g.opB e env i).2, y ∈ z.flags) ∨ ∃ k < 2 ^ e.eg, y ∈ (b k).2.2 ∨ own y k
    (active = true → e.fmt.cls = .i →
      let ia (k : Nat) := patternRead e.fmt (r k) a.fmt (a.sub e i k)
      let ib (k : Nat) := patternRead e.fmt (r k) (b k).1 (b k).2.1
      let A (k : Nat) : Int := computedInt e.fmt (ia k).1
      let B (k : Nat) : Int := computedInt e.fmt (ib k).1
      let C (k : Nat) : Int := computedInt e.fmt (patternRead e.fmt (r k) c.fmt (c.sub e i k)).1
      let fit (v : Int) : Nat := fitted e.sat e.fmt.signed e.fmt.bits v
      (∀ p ∈ [(Instr.vadd f m vd va vb, fun k => A k + B k), (.vsub f m vd va vb, fun k => A k - B k), (.vmul f m vd va vb, fun k => A k * B k),
          (.vmin f m vd va vb, fun k => min (A k) (B k)), (.vmax f m vd va vb, fun k => max (A k) (B k))], e.op = p.1 →
        gives (fun k => fit (p.2 k)) ∧
        raised fun y k => y ∈ (ia k).2 ∨ y ∈ (ib k).2 ∨ (y = .sat ∧ e.sat = true ∧ outside e.fmt.signed e.fmt.bits (p.2 k))) ∧
      (e.op = .vdiv f m vd va vb → gives fun k => if B k = 0 then 2 ^ e.fmt.bits - 1 else fit ((A k).tdiv (B k))) ∧
      (e.op = .vfma f m vd va vb → gives fun k => fit (A k * B k + C k)) ∧
      (e.op = .vfms f m vd va vb → gives fun k => fit (A k * B k - C k)) ∧
      (e.op = .vabs m vd va → gives fun k => fit (A k).natAbs) ∧
      (e.op = .vneg m vd va → gives fun k => fit (-A k)) ∧
      (e.op = .vmulh f m vd va vb → gives fun k => (A k * B k / (2 ^ e.fmt.computed.bits : Nat) % (2 ^ e.fmt.bits : Nat)).toNat) ∧
      (e.eg = 0 → e.op = .vcmp f m cc kd va vb → gives fun k => if condHolds cc true (A k) (B k) then 1 else 0)) ∧
    (active = true → e.fmt.cls = .f ∨ e.fmt.cls = .k →
      let fa (k : Nat) := valueRead e.fmt (r k) a.fmt (a.sub e i k)
      let fb (k : Nat) := valueRead e.fmt (r k) (b k).1 (b k).2.1
      let fc (k : Nat) := valueRead e.fmt (r k) c.fmt (c.sub e i k)
      let once (v : FV × List Flag) (k : Nat) : Nat × List Flag := finish e.fmt (r k) v
      let minus (v : FV) : FV := if v.isNan then v else v.neg
      (∀ p ∈ [(Instr.vadd f m vd va vb, fun k => addValues e.rm (fa k).1 (fb k).1), (.vsub f m vd va vb, fun k => subValues e.rm (fa k).1 (fb k).1),
          (.vmul f m vd va vb, fun k => mulValues (fa k).1 (fb k).1), (.vdiv f m vd va vb, fun k => divValues (fa k).1 (fb k).1),
          (.vmin f m vd va vb, fun k => minMax false (fa k).1 (fb k).1), (.vmax f m vd va vb, fun k => minMax true (fa k).1 (fb k).1)], e.op = p.1 →
        gives (fun k => (once (p.2 k) k).1) ∧ raised fun y k => y ∈ (fa k).2 ∨ y ∈ (fb k).2 ∨ y ∈ (once (p.2 k) k).2) ∧
      (e.op = .vfma f m vd va vb → gives fun k => (once (fmaValues e.rm (fa k).1 (fb k).1 (fc k).1) k).1) ∧
      (e.op = .vfms f m vd va vb → gives fun k => (once (fmaValues e.rm (fa k).1 (fb k).1 (minus (fc k).1)) k).1) ∧
      (e.op = .vabs m vd va → gives fun k => (once ((fa k).1.abs, []) k).1) ∧
      (e.op = .vneg m vd va → gives fun k => (once ((fa k).1.neg, []) k).1) ∧
      (e.op = .vscl f m vd va vb → ∀ n : Int, (e.op.immediate = some n ∨ (e.op.immediate = none ∧ ∃ w, e.b.ref = .scalar w ∧ n = w.toInt)) →
        gives fun k => (once ((fa k).1.scale (max (-4096) (min 4096 n)), []) k).1) ∧
      (e.op = .vrngUnif m vd va → ∀ w, e.a.ref = .scalar w →
        x.vals = [(roundTo e.fmt.held.layout { mode := 1, sat := false, w := 0 }
          (.fin false ((drawQuad e.rngkey (w + e.index i)).w0 / 256) (-24) false)).1]) ∧
      (e.eg = 0 → e.fmt = .f32 → a.fmt = .f32 → (b 0).1 = .f32 → e.op = .vcmp f m cc kd va vb →
        let p := a.sub e i 0
        let q := (b 0).2.1
        x.vals = [if condHolds cc (!nan32 p && !nan32 q) (key32 p) (key32 q) then 1 else 0] ∧
        raised fun y _ => y = .inv ∧ if cc ∈ [Cond.lt, .le, .gt, .ge] then nan32 p = true ∨ nan32 q = true
          else signalling32 p = true ∨ signalling32 q = true)) ∧
    (active = true →
      let wide := bitWidth e.fmt
      let p (k : Nat) : Nat := (bitsRead e.fmt (r k) a.fmt (a.sub e i k)).1
      let q (k : Nat) : Nat := (bitsRead e.fmt (r k) (b k).1 (b k).2.1).1
      let amount (k : Nat) : Nat := match e.op.immediate with | some n => (n % (wide : Int)).toNat | none => q k % wide
      let bits (v : Nat → Nat → Bool) : Prop := x.vals.length = 2 ^ e.eg ∧ ∀ k < 2 ^ e.eg, ∃ z, x.vals[k]? = some z ∧
        z < 2 ^ e.fmt.heldBits ∧ ∀ j < e.fmt.heldBits, z.testBit j = v k j
      (e.op = .vand f m vd va vb → bits fun k j => (p k).testBit j && (q k).testBit j) ∧
      (e.op = .vor f m vd va vb → bits fun k j => (p k).testBit j || (q k).testBit j) ∧
      (e.op = .vxor f m vd va vb → bits fun k j => (p k).testBit j != (q k).testBit j) ∧
      (e.op = .vshl f m vd va vb → bits fun k j => decide (amount k ≤ j) && (p k).testBit (j - amount k)) ∧
      (e.op = .vshr f m vd va vb → bits fun k j => (p k).testBit (j + amount k)) ∧
      (e.op = .vsra f m vd va vb → bits fun k j => (p k).testBit (min (j + amount k) (wide - 1))) ∧
      (e.op = .vcvt t m vd va → gives (fun k => (convert e.fmt (r k) a.fmt (a.sub e i k)).1) ∧
        ∀ y, y ∈ x.flags ↔ y ∈ a.flags ∨ ∃ k < 2 ^ e.eg, y ∈ (convert e.fmt (r k) a.fmt (a.sub e i k)).2) ∧
      (e.op = .vrngRaw m vd va → ∀ w, e.a.ref = .scalar w →
        let z := drawQuad e.rngkey (w + e.index i)
        x.vals = [if e.fmt.bits = 64 then z.w0 + z.w1 * 2 ^ 32 else z.w0 % 2 ^ e.fmt.bits])) ∧
    (e.op = .vsel f vd va vb →
      gives fun k => if active then (moveInto e.fmt (r k) a.fmt (a.sub e i k)).1 else (moveInto e.fmt (r k) (b k).1 (b k).2.1).1) ∧
    (active = false →
      let z := g.operand e e.merge env i
      (e.op ∈ maskedOps f m vd va vb t →
        x.flags = [] ∧ gives fun k => if e.mpol then 0 else if e.op = .vcvt t m vd va then (convert e.fmt (r k) z.fmt (z.sub e i k)).1
          else (moveInto e.fmt (r k) z.fmt (z.sub e i k)).1) ∧
      (e.op = .vcmp f m cc kd va vb →
        x.flags = [] ∧ x.vals = [if e.mpol then 0 else (((g.ref e e.merge.ref env i).vals[0]?).getD 0) % 2]))

/-- 06 R179, 07 R191 to R196, R198, R199: the bit of each mask node; an element moved from another row of the pass, where elements outside the
pass read as zero: a slide by a scalar, a permutation by an index, the compression of the active elements and their expansion; a scan, step
by step, with what it carries to the next element, in class I and for FP32 values. That an index is read from sub-value 0 of its element, exactly, whatever
its format, is the model's choice (DESIGN CHOICE, assumption logs 105, 106).
07 R185: an element of vld or vlds from a page of plain values is the bytes that stand there as the core sees them, at the base plus the
element's place; a base that is no multiple of the element's size is an ALIGN event at every active element (R183). -/
def Obligations.MovedScannedAndLoadedValues : Prop :=
  (∀ (g : Stg) (e : Entry) (env : Env) (row : Nat → Env) (i : Nat) (carry : Option Carry) (ka kb kd : KReg) (s : SReg),
    let x := g.node e env row i carry
    let bit (o : Operand) : Nat := (((g.ref e o.ref env i).vals[0]?).getD 0) % 2
    let is (p : Prop) [Decidable p] : Prop := x.vals = [if p then 1 else 0]
    (e.op = .kmeet kd ka kb → is (bit e.a = 1 ∧ bit e.b = 1)) ∧
    (e.op = .kjoin kd ka kb → is (bit e.a = 1 ∨ bit e.b = 1)) ∧
    (e.op = .kdiff kd ka kb → is (bit e.a ≠ bit e.b)) ∧
    (e.op = .kless kd ka kb → is (bit e.a = 1 ∧ bit e.b = 0)) ∧
    (e.op = .kflip kd ka → is (bit e.a = 0)) ∧
    (e.op = .kcopy kd ka → is (bit e.a = 1)) ∧
    (e.op = .kset kd s → ∀ w, e.a.ref = .scalar w → is (i < w.toNat)) ∧
    (∀ seen, e.op = .kmsk kd ka → carry = some (.first seen) →
      is (seen = false) ∧ x.carry = some (.first (seen || bit e.a == 1)))) ∧
  (∀ (g : Stg) (e : Entry) (env : Env) (row : Nat → Env) (i : Nat) (carry : Option Carry) (m : Bool) (vd va vb : VReg) (sb : SReg) (o : ScanOp),
    let x := g.node e env row i carry
    let active := (g.active e env i).1
    let here (j : Nat) : Env := if j = i then env else row j
    let gives (v : Nat → Nat) : Prop := x.vals = (List.range (2 ^ e.eg)).map v
    let from_ (en : Env) (j : Nat) : Prop :=
      gives fun k => (moveInto e.fmt (e.rounding i k) (g.operand e e.a en j).fmt ((g.operand e e.a en j).sub e i k)).1
    let z := g.operand e e.merge env i
    let inactive : Prop := gives fun k => if e.mpol then 0 else (moveInto e.fmt (e.rounding i k) z.fmt (z.sub e i k)).1
    (∀ n, active = true → e.b.ref = .scalar n →
      (e.op = .vslup m vd va sb → if n.toNat ≤ i then from_ (here (i - n.toNat)) (i - n.toNat) else gives fun _ => 0) ∧
      (e.op = .vsldn m vd va sb → if i + n.toNat < e.len then from_ (here (i + n.toNat)) (i + n.toNat) else gives fun _ => 0)) ∧
    (active = true → e.op = .vperm m vd va vb →
      let y := g.operand e e.b env i
      match exactInteger y.fmt (y.sub e i 0) with
      | some j => if 0 ≤ j ∧ j < e.len then from_ (here j.toNat) j.toNat else gives fun _ => 0
      | none => gives fun _ => 0) ∧
    (∀ c, e.op = .vexpd m vd va → carry = some (.expand c) →
      (active = true → from_ (here c) c ∧ x.carry = some (.expand (c + 1))) ∧ (active = false → inactive ∧ x.carry = some (.expand c))) ∧
    (∀ q s, e.op = .vcmpr m vd va → carry = some (.compress q s) → s ≤ e.len →
      (∀ j, s ≤ j → j < e.len → (g.active e (row j) j).1 = true → (∀ l, s ≤ l → l < j → (g.active e (row l) l).1 = false) →
        from_ (row j) j ∧ x.carry = some (.compress (i + 1) (j + 1))) ∧
      ((∀ j, s ≤ j → j < e.len → (g.active e (row j) j).1 = false) → inactive ∧ x.carry = some (.compress (i + 1) e.len))) ∧
    (∀ run seen, e.op = .vscan o m vd va → carry = some (.scan (.bits run) seen) →
      (active = false → inactive ∧ x.carry = carry) ∧
      (active = true →
        let y := g.operand e e.a env i
        let next (v : Nat) : Prop := x.vals = [v % 2 ^ e.fmt.heldBits] ∧ x.carry = some (.scan (.bits v) true)
        (e.fmt.cls = .i →
          let v := (patternRead e.fmt (e.rounding i 0) y.fmt (y.sub e i 0)).1
          let A := computedInt e.fmt run
          let B := computedInt e.fmt v
          let fit (v : Int) : Nat := fitted e.sat e.fmt.signed e.fmt.bits v
          if seen = false then next (fit B)
          else match o with
            | .add => next (fit (A + B)) | .max => next (fit (max A B)) | .min => next (fit (min A B))
            | .and => next ((run &&& v) % 2 ^ e.fmt.heldBits) | .or => next ((run ||| v) % 2 ^ e.fmt.heldBits)
            | .xor => next ((run ^^^ v) % 2 ^ e.fmt.heldBits)) ∧
        (e.fmt = .f32 → y.fmt = .f32 → y.sub e i 0 < 2 ^ 32 → o = .add →
          let v := y.sub e i 0
          let sum := roundTo Fmt.f32.layout (e.sumRounding (e.index i)) (addValues e.rm (unpack Fmt.f32.layout run) (unpack Fmt.f32.layout v)).1
          next (if seen then sum.1 else v))))) ∧
  ∀ (g : Stg) (e : Entry) (env : Env) (row : Nat → Env) (i : Nat) (carry : Option Carry) (src : Source) (d : PageAttr) (m : Bool) (vd : VReg)
    (base : BaseReg) (sx : SReg) (off : BitVec 7) (strided : Bool),
    e.op = (if strided then Instr.vlds m vd base sx else .vld m vd base off) → src.form = (if strided then .vlds else .vld) → e.source = some src →
    src.decided = some d → (g.active e env i).1 = true →
    let f := decidedFmt e.fmt d
    let eg := if d.fe then 0 else e.eg
    let q : Int := if strided then src.stride.toInt * i else i
    let size := f.bits / 8 * 2 ^ eg
    let va := (((src.base.toNat : Int) + q * size) % (2 ^ 64 : Nat)).toNat
    f ∉ [Fmt.nx4, .mx8, .ix4] →
    let x := g.node e env row i carry
    (src.base.toNat % size ≠ 0 → ∃ ev, ev ∈ x.events ∧ ev.cause = .align ∧ ev.va = BitVec.ofNat 64 va ∧ ev.write = false ∧ ev.seq = e.seq) ∧
    ∀ y, src.base.toNat % size = 0 → g.Meets e i va size .read (formatFault e.fmt e.eg (!strided) d) y →
      x.vals = (List.range (2 ^ eg)).map fun k =>
        leNat ((List.range (f.bits / 8)).map fun j => g.s.coreByte g.s.me.core (y.pa + k * (f.bits / 8) + j))


/-! ## Sinks (02 R44 to R46, R50, R57, R58) -/

/-- 02 R40, R44, R46, 07 R187 to R204, 06 R160, R178, R179, 05 R146, 10 R238, 12 R276 to R281, R292, 13 R303 to R307: every instruction
that issues a sink, once its checks pass and its stages and its cell fit: one more pending sink, with what was captured; no register,
byte or unit changes at issue. vext of an element at or past VL runs no pass and writes 0; vforce of what is no node to be filled
issues none.
The order of the stages that one sink needs is the model's choice (assumption log 95, DESIGN CHOICE), and how large the cell of an undecided vldx is (log 19, DEDUCED). -/
def Obligations.SinkInstructionsIssue : Prop :=
  (∀ (s : State) (i : Instr) (q : SinkAsks) (sts : List Stage) (e : Entry) (a : Arch),
    sinkAsks s i = some q → s.SinkReady q → s.sinkPlan q = some (sts, e, a) →
    ∃ t n p, exec i s = .next t ∧ s.SinkIssued t q sts e a n p) ∧
  (∀ (s : State) (d : SReg) (a : VReg) (b : SReg), s.VectorReady → s.me.a.csr.ill = false → s.readable [b] → s.sourceReady a →
    inRange s.me.a.csr.elbase s.me.a.csr.vl.toNat = true → s.me.a.csr.vl.toNat ≤ (s.reg b).toNat →
    ∃ t, exec (.vext d a b) s = .next t ∧ t.reg d = 0 ∧ t.me.a.seq = s.me.a.seq + 1 ∧ t.me.pend = s.me.pend ∧ s.Advanced t ∧
      s.OnlyRegisters t ∧ s.SameBytes t) ∧
  (∀ (s : State) (d : VReg), s.VectorReady →
    ((∃ c, s.me.a.vhandle d = .cell c) ∨
      ∃ n, s.me.a.vhandle d = .node n ∧ broodEntry s.me.a.brood n ≠ none ∧ s.me.a.forcing n = true) →
    ∃ t, exec (.vforce d) s = .next t ∧ t.me.a.seq = s.me.a.seq + 1 ∧ t.me.a.vh = s.me.a.vh ∧ t.me.a.regs = s.me.a.regs ∧
      t.me.pend = s.me.pend ∧ s.Advanced t ∧ s.OnlyRegisters t ∧ s.SameBytes t) ∧
  (∀ (s : State) (d : VReg), s.VectorReady → s.me.a.csr.deadTrap = false → s.me.a.vhandle d = .empty →
    ∃ t, exec (.vforce d) s = .next t ∧ t.me.a.seq = s.me.a.seq ∧ t.me.a.vh = s.me.a.vh ∧ t.me.a.regs = s.me.a.regs ∧
      t.me.pend = s.me.pend ∧ s.Advanced t ∧ s.OnlyRegisters t ∧ s.SameBytes t)

/-! ## Passes (02 R44 to R54, R67, 10 R228, R229, R236, 01 R25, R27) -/

/-- 02 R47, R48, 01 R25: PASS_TAKE. The oldest pending sink that runs a pass, with no held effect before it and a free lane group, starts
its pass; at most four sinks run in it, and more than one only where all of them join; every FEIX register reads all ones; no other
register changes.
10 R228, R229: STRIP_DISPATCH of a free group of a core whose gate is open, with one candidate: its next strip, the lowest-numbered
ready one, is dispatched to the group, evaluated, and not yet finished: every lower strip has been dispatched, or stalls and
keeps no carry. Among several candidates one that is forced goes first, else the one whose sink issued
earliest at the core. STRIP_FINISH of the last strip of a pass with no event commits every element of it.
That a strip reads its memory when it is dispatched is the model's choice (assumption log 26, DESIGN CHOICE). -/
def Obligations.PassIsTaken : Prop :=
  (∀ (s : State) (c : CtxId) (p : Pend) (ps : List Pend),
      c.toNat = s.me.id → s.me.pend = p :: ps → s.me.run = none → (∀ e, p.sink? = some e → e.passless = false) →
      (∀ h ∈ s.me.held, p.no ≤ h.no) → s.freeGroups ≠ [] →
      ∃ t r, exec (.passTake c) s = .next t ∧ t.me.run = some r ∧ r.cur = 0 ∧ r.strips = [] ∧ r.carries = [] ∧ r.parts = [] ∧
        ((r.items ++ t.me.pend).map fun x => x.no) = ((p :: ps).map fun x => x.no) ∧ 1 ≤ r.items.length ∧ r.items.length ≤ 4 ∧
        (2 ≤ r.items.length → ∀ x ∈ r.items, x.joins = true) ∧
        (∀ f, t.me.a.csr.feix f = -1) ∧ t.me.a = { s.me.a with csr := t.me.a.csr } ∧ t.me.a.csr.flags = s.me.a.csr.flags ∧
        t.mem = s.mem ∧ t.cores = s.cores ∧ s.OthersKept t) ∧
  ((∀ (s u : State) (g : BitVec 3) (r : Run) (x : StripEval) (num lo : Nat),
      let k := s.me.core
      k < 576 → s.gateShut k = false → (s.busyGroups k).contains g.toNat = false → s.groupClosed k g.toNat = false →
      s.candidates k g.toNat = [s.me] → s.nextStrip = some (u, r, x, num, lo) →
      ∃ t q st, exec (.stripDispatch (BitVec.ofNat 10 k) g) s = .next t ∧ t.me.run = some q ∧ st ∈ q.strips ∧
        (∀ y ∈ q.strips, y = st ∨ y ∈ r.strips) ∧ q.strips.length = r.strips.length + 1 ∧
        q.cur = r.cur ∧ st.num = num ∧ st.group = g.toNat ∧ st.lo = lo ∧ st.outs = x.outs ∧
        st.event = x.event ∧ st.finished = false ∧ t.me.a.regs = s.me.a.regs ∧ t.me.a.pc = s.me.a.pc) ∧
    (∀ (s u : State) (r : Run) (x : StripEval) (num lo : Nat), s.nextStrip = some (u, r, x, num, lo) →
      lo = max r.cur (128 * num) ∧ lo < r.work.len ∧ x.stall = false ∧ (∀ t ∈ r.strips, t.num ≠ num) ∧
      ∀ n, r.cur / 128 ≤ n → n < num →
        (∃ t ∈ r.strips, t.num = n ∧ t.event = none) ∨
          (r.work.carried = false ∧ (r.work.run u r.view.seq (128 * n + 128 - max r.cur (128 * n)) (max r.cur (128 * n)) r.carries).stall = true)) ∧
    (∀ (cs : List Ctx) (c : Ctx), chooseStrip [] cs = some c → c ∈ cs ∧ ∀ x ∈ cs, c.passAge ≤ x.passAge) ∧
    (∀ (forced : List Nat) (cs : List Ctx) (c : Ctx), (∃ x ∈ cs, x.id ∈ forced) → chooseStrip forced cs = some c → c.id ∈ forced) ∧
    (∀ (s : State) (g : BitVec 3) (r : Run) (st : Strip),
      s.me.nurse = false → s.me.core < 576 → s.me.run = some r → r.strips = [st] → st.group = g.toNat → st.finished = false → st.event = none →
      st.lo = r.cur → r.stages = [] → r.work.len = st.lo + st.outs.length →
      ∃ t q, exec (.stripFinish (BitVec.ofNat 10 s.me.core) g) s = .next t ∧ t.me.run = some q ∧ q.cur = r.work.len ∧ q.strips = [] ∧
        q.items.length = r.items.length ∧ t.me.a.regs = s.me.a.regs ∧ t.me.a.pc = s.me.a.pc ∧ s.OthersKept t))

/-- 07 R188, R189, R183, 10 R238, 06 R160, 12 R292, 13 R302 to R304, R307: what a sink gives for an element. A store to a page of plain values writes
the element, moved into the page's format, at its place: base plus index or stride times the size; one of `.ix4` a nibble; an inactive element
nothing. A vst to a page of `.nx4` or `.mx8` writes with the last element of a block the whole block, encoded from its active elements in the pass (03
R80 to R82), and its side word. A lane-private store the lane's offset, or every lane's; vforce writes its cell; mwrr gives the row's words, cvwt a
weight that is no NaN, infinite or negative, cvprb the gain term, cvcom the value rounded to FP32. 02 R66, R54: each write of a committed element
changes its bytes as the core sees them and no other, a nibble half a byte, a mask bit one bit, lane-private bytes their own; cvwt and cvcom change
one word of the accumulator, cvcom only to a greater value. A strip is its elements in order, up to the first that meets an event or waits; one that
finishes without an event commits the writes and the flags of all its elements. What an index of an undecided format reads as, that vstx and the
lane-private store take sub-value 0 of the index element and mwrr sub-value 0 of its element, and that a vector's writes go out in element order, are
the model's choices (assumption logs 13, 106 and 74, DESIGN CHOICE). -/
def Obligations.SinkElementsAndCommits : Prop :=
  (∀ (g : Stg) (e : Entry) (env : Env) (row : Nat → Env) (i : Nat),
    let x := g.sink e env row i
    let active := (g.active e env i).1
    let a := g.operand e e.a env i
    let r := e.rounding i
    (∀ (m : Bool) (v w : VReg) (base : BaseReg) (off : BitVec 7) (sx : SReg) (src : Source) (d : PageAttr),
      e.op ∈ [Instr.vst m v base off, .vsts m v base sx, .vstx m v base w] → e.source = some src → src.decided = some d →
      let plain : Bool := e.op == .vst m v base off
      let f := decidedFmt e.fmt d
      let eg := if d.fe then 0 else e.eg
      let y := g.operand e e.b env i
      let q : Int := if plain then i else if e.op = .vsts m v base sx then e.str.toInt * i else (indexRead e.sat y.fmt (y.sub e i 0)).1
      let size := f.bits / 8 * 2 ^ eg
      let va := (((e.val.toNat : Int) + q * size) % (2 ^ 64 : Nat)).toNat
      let value (k : Nat) : Nat := (moveInto f (r k) a.fmt (a.sub e i k)).1
      f ∉ [Fmt.nx4, .mx8] →
      (active = false → x.writes = [] ∧ x.val = none ∧ x.flags = []) ∧
      (active = true → f ≠ .ix4 → e.val.toNat % size ≠ 0 → x.writes = [] ∧ ∃ ev ∈ x.events, ev.cause = .align ∧ ev.va = BitVec.ofNat 64 va ∧ ev.write = true) ∧
      (active = true → f ≠ .ix4 → e.val.toNat % size = 0 → ∀ p, g.Meets e i va size .write (formatFault e.fmt e.eg plain d) p →
        ∃ bs, x.writes = [{ va := va, pa := p.pa, data := bs, poison := false, pc := e.pc }] ∧ bs.length = size ∧
          leNat bs = ((List.range (2 ^ eg)).map fun k => value k * 2 ^ (k * f.bits)).sum % 2 ^ (8 * size)) ∧
      (active = true → f = .ix4 → eg = 0 →
        let n := ((2 * e.val.toNat + q : Int) % (2 ^ 65 : Nat)).toNat
        ∀ p, g.Meets e i (n / 2) 1 .write (formatFault e.fmt e.eg plain d) p →
          x.writes = [{ va := n / 2, pa := 2 ^ 61 + 2 * p.pa + n % 2, data := [BitVec.ofNat 8 (value 0 % 16)], poison := false, pc := e.pc }])) ∧
    (∀ (m : Bool) (v : VReg) (base : BaseReg) (off : BitVec 7) (src : Source) (d : PageAttr),
      e.op = .vst m v base off → e.source = some src → src.decided = some d → d.block = true → e.eg = 0 → i < e.len →
      let nx : Bool := decidedFmt e.fmt d == .nx4
      let n := if nx then 8 * 2 ^ d.geo else 32
      let p := (if nx then 2 * e.val.toNat + i else e.val.toNat + i) % n
      let here (j : Nat) : Env := if j = i then env else row j
      let elem (k : Nat) : BlockElem :=
        let j := i + k - p
        if p ≤ i + k ∧ j < e.len ∧ (g.active e (here j) j).1 = true then
          let z := g.operand e e.a (here j) j
          some (blockRead z.fmt (z.sub e j 0), e.rounding j 0)
        else none
      let enc := blockEncode (decidedFmt e.fmt d) e.sat ((List.range n).map elem)
      let bytes := if nx then n / 2 else n
      let start := (placeOf (decidedFmt e.fmt d) 0 e.val.toNat i).1 / bytes * bytes
      let side := sideAddr g.tenant d.geo start
      (p + 1 < n → i + 1 < e.len → x.writes = []) ∧
      ∀ y z, (p + 1 = n ∨ i + 1 = e.len) → g.s.translate g.s.me start .write = .ok y → g.s.translate g.s.me side .write = .ok z →
        ∃ cs ss, x.writes = [{ va := start, pa := y.pa, data := cs, poison := false, pc := e.pc },
            { va := side, pa := z.pa, data := ss, poison := false, pc := e.pc }] ∧
          cs.length = bytes ∧ ss.length = 2 ∧ leNat ss = enc.1 % 65536 ∧
          ∀ k < n, ∃ c, enc.2.1[k]? = some c ∧ if nx then leNat cs / 16 ^ k % 16 = c % 16 else cs[k]? = some (BitVec.ofNat 8 c)) ∧
    (∀ (m : Bool) (v w : VReg) (sx : SReg) (all : Bool), e.op = (if all then Instr.vlpstB m v sx else .vlpst m v w sx) →
      let size := e.fmt.bits / 8 * 2 ^ e.eg
      let y := g.operand e e.b env i
      let at_ : Int := (e.val.toNat : Int) + (if all then (i : Int) else (indexRead e.sat y.fmt (y.sub e i 0)).1) * size
      let lanes : List Nat := if all then List.range 64 else [(e.index i).toNat % 64]
      (active = false → x.writes = []) ∧
      (active = true → at_ % (e.fmt.bits / 8 : Nat) ≠ 0 → x.writes = [] ∧ ∃ ev ∈ x.events, ev.cause = .align ∧ ev.write = true) ∧
      (active = true → at_ % (e.fmt.bits / 8 : Nat) = 0 → (at_ < 0 ∨ (g.s.me.lpriv : Int) < at_ + size) →
        x.writes = [] ∧ ∃ ev ∈ x.events, ev.cause = .perm ∧ ev.write = true) ∧
      (active = true → at_ % (e.fmt.bits / 8 : Nat) = 0 → 0 ≤ at_ → at_ + size ≤ g.s.me.lpriv →
        ∃ bs, x.writes = (lanes.map fun l =>
            ({ va := at_.toNat, pa := 2 ^ 62 + (16384 * l + 4096 * g.s.me.pos + at_.toNat), data := bs, poison := false, pc := e.pc } : ElemWrite)) ∧
          bs.length = size ∧
          leNat bs = ((List.range (2 ^ e.eg)).map fun k => (moveInto e.fmt (r k) a.fmt (a.sub e i k)).1 * 2 ^ (k * e.fmt.bits)).sum % 2 ^ (8 * size))) ∧
    (∀ (v : VReg) (c : CellRef) (f : Fmt), e.op = .vforce v → e.c.ref = .cell c → c.fmt = some f → f.heldBits ≠ 4 →
      let y := g.ref e e.a.ref env i
      let size := f.heldBits / 8 * 2 ^ c.eg
      let va := (c.addr.toNat + i * size) % 2 ^ 64
      ∀ p, g.Meets e i va size .write (fun _ => false) p →
        ∃ bs, x.writes = [{ va := va, pa := p.pa, data := bs, poison := false, pc := e.pc }] ∧ bs.length = size ∧
          leNat bs = ((List.range y.vals.length).map fun k => (y.vals[k]?).getD 0 % 2 ^ f.heldBits * 2 ^ (k * f.heldBits)).sum % 2 ^ (8 * size)) ∧
    (∀ (j : AccReg) (v : VReg) (sx : SReg), e.op = .mwrr j v sx →
      x.val = some [(if e.fmt.cls = .i then convert .i32 (r 0) a.fmt (a.sub e i 0) else moveInto .f32 (r 0) a.fmt (a.sub e i 0)).1] ∧ x.writes = []) ∧
    (∀ (j : CovReg) (v : VReg) (d : SReg),
      let value := coverValue a.fmt (a.sub e i 0)
      let w := value.1
      let good : Prop := nan32 w = false ∧ w % 2 ^ 31 ≠ 0x7F800000 ∧ 0 < key32 w
      (e.op = .cvwt j v → (good → x.val = some [w]) ∧ (¬good → x.val = some [0]) ∧
        (Flag.inv ∈ x.flags ↔ Flag.inv ∈ a.flags ∨ Flag.inv ∈ value.2 ∨ nan32 w = true ∨ w % 2 ^ 31 = 0x7F800000 ∨ key32 w < 0)) ∧
      (e.op = .cvcom j v → x.val = some [w]) ∧
      (e.op = .cvprb d j v →
        let c := g.cov e.dst2
        let s := (e.index i - c.gb).toNat
        let best := (Sparse.get 0 c.words s).toNat
        let weight := if c.wt then (Sparse.get 0 c.words (8192 + s)).toNat else 0x3F800000
        let z := plainValue a.fmt (a.sub e i 0)
        (z.isNan = true ∨ lessThan (unpack Fmt.f32.layout best) z = false ∨ 0x7F800000 < weight ∨ weight = 0 → x.val = some [0]) ∧
        (z.isNan = false → lessThan (unpack Fmt.f32.layout best) z = true → 0 < weight → weight < 0x7F800000 →
          let gap := (subValues 0 z (unpack Fmt.f32.layout best)).1
          (∀ n, gap = .inf n → x.val = some [0x7F800000]) ∧
          ((∀ n, gap ≠ .inf n) →
            x.val = some [(roundTo Fmt.f32.layout Rounding.nearest (mulValues (unpack Fmt.f32.layout weight) gap).1).1]))))) ∧
  ((∀ (s : State) (w : ElemWrite) (a : Nat),
      let t := s.commitWrite w
      (w.whole → ∀ k, t.coreByte k a = if k = s.me.core then overwritten [w] a (s.coreByte k a) else s.coreByte k a) ∧
      (∀ p h v, w.pa = 2 ^ 61 + 2 * p + h → h < 2 → p < 2 ^ 59 → w.data = [v] →
        t.coreByte s.me.core a =
          if a = p then
            let old := (s.seen s.me.core p).toNat
            BitVec.ofNat 8 (if h = 0 then old / 16 * 16 + v.toNat % 16 else v.toNat % 16 * 16 + old % 16)
          else s.coreByte s.me.core a) ∧
      (∀ p h v, w.pa = 2 ^ 60 + 8 * p + h → h < 8 → p < 2 ^ 56 → w.data = [v] →
        (a ≠ p → t.coreByte s.me.core a = s.coreByte s.me.core a) ∧
        ∀ k, k < 8 → (t.coreByte s.me.core p).getLsbD k = if k = h then v.getLsbD 0 else (s.seen s.me.core p).getLsbD k) ∧
      (∀ key, w.pa = 2 ^ 62 + key →
        Sparse.get 0 (t.core s.me.core).lpriv a =
          (if key ≤ a ∧ a < key + w.data.length then (w.data[a - key]?).getD 0 else Sparse.get 0 (s.core s.me.core).lpriv a) ∧ t.mem = s.mem)) ∧
    (∀ (s : State) (e : Entry) (i v : Nat) (j : CovReg) (x : VReg),
      let word (t : State) (k n : Nat) : Word32 := Sparse.get 0 (Sparse.get Cov.reset (t.core s.me.core).covs k).words n
      let slot := (e.index i - (Sparse.get Cov.reset (s.core s.me.core).covs e.dst).gb).toNat
      let t := s.commitCov e i (some [v])
      (e.op = .cvwt j x → ∀ k n, word t k n = if k = e.dst ∧ n = 8192 + slot then BitVec.ofNat 32 v else word s k n) ∧
      (e.op = .cvcom j x → v < 2 ^ 32 → ∀ k n, word t k n =
        if k = e.dst ∧ n = slot ∧ nan32 v = false ∧ nan32 (word s k n).toNat = false ∧ key32 (word s k n).toNat < key32 v then BitVec.ofNat 32 v
        else word s k n)) ∧
    (∀ (w : Work) (s : State) (seq : Word32) (n i : Nat) (carries : List (Nat × Carry)),
      let x := w.elem (w.stg s i carries) i
      let rest := w.run s seq n (i + 1) x.out.carries
      let y := w.run s seq (n + 1) i carries
      (x.stall = true → y.stall = true ∧ y.outs = [] ∧ y.event = none) ∧
      (x.stall = false → x.events = [] → y.outs = x.out :: rest.outs ∧ y.event = rest.event ∧ y.stall = rest.stall) ∧
      (x.stall = false → x.events ≠ [] → i < w.len → y.outs = [] ∧ y.event ≠ none ∧ y.stall = false)) ∧
    ∀ (s : State) (g : BitVec 3) (r : Run) (st : Strip) (n : Nat) (e : Entry),
      s.me.nurse = false → s.me.core < 576 → (s.die s.me.die).trslots = 0 → s.me.run = some r → r.strips = [st] → st.group = g.toNat →
      st.finished = false → st.event = none → st.lo = r.cur → r.stages = [] → r.work.len = st.lo + st.outs.length → r.slots = [(n, e)] → e.stores → partGet e r.parts n = .none →
      (∀ o ∈ st.outs, ∀ w ∈ o.writes, w.whole) →
      ∃ t, exec (.stripFinish (BitVec.ofNat 10 s.me.core) g) s = .next t ∧
        (∀ a, t.coreByte s.me.core a = overwritten (st.outs.flatMap fun o => o.writes) a (s.coreByte s.me.core a)) ∧
        flagsAfter s.me.a.csr t.me.a.csr (st.outs.flatMap fun o => o.flags) ∧ t.mem = s.mem)


/-- 02 R64, R66, R68, 01 R27, R33: STRIP_FINISH of the lowest strip of a pass of one store sink, which has met an event, once nothing lower is missing. The
elements below it, down to the start of a block that the stop may not split, commit: their bytes change and no other, and FLAGS and FEIX gain
their flags (01 R24, R25). The pass is kept as stopped there; FAULTEL, STRIP, CAUSE with PASS and SLOT, BLAMEPC, BLAMESEQ and FAULTVA name
the event; EPC is the sink's PC; the registers are as the sink left them; later sinks, later held effects and the strips above are discarded.
02 R65: among the events of an element the one of the oldest node or sink is blamed, then the one whose cause ranks first.
That the elements' writes go out in element order is the model's choice (assumption log 74, DESIGN CHOICE). -/
def Obligations.PassStops : Prop :=
  (∀ (s : State) (g : BitVec 3) (r : Run) (st : Strip) (rest : List Strip) (n : Nat) (e : Entry) (p : Pend) (ev : PassEvent),
    s.me.nurse = false → s.me.core < 576 → (s.die s.me.die).trslots = 0 → s.me.run = some r → r.items = [p] → r.strips = st :: rest →
    st.group = g.toNat → st.finished = false → st.event = some ev → ev.slot < 4 → st.lo = r.cur → r.stages = [] → r.slots = [(n, e)] → e.stores →
    partGet e r.parts n = .none → p.after.csr.sup = false → (∀ o ∈ st.outs, ∀ w ∈ o.writes, w.whole) →
    let stop := max r.cur (r.work.floor (r.cur + st.outs.length))
    let done := st.outs.take (stop - r.cur)
    ∃ t q, exec (.stripFinish (BitVec.ofNat 10 s.me.core) g) s = .next t ∧ t.me.run = none ∧ t.me.stopped = some q ∧ q.cur = stop ∧ q.strips = [] ∧
      q.items.length = 1 ∧ q.stage = r.stage ∧ t.me.pend = [] ∧ t.me.held = s.me.held.filter (fun h => decide (h.no < p.no)) ∧ t.me.state = s.me.state ∧
      (let c := t.me.a.csr
       c.faultel = r.work.elbase + BitVec.ofNat 64 stop ∧ c.strip = BitVec.ofNat 64 (2 ^ 31 + stop / 128 % 2 ^ 25) ∧
         c.cause = BitVec.ofNat 64 (ev.cause.code + 2 ^ 8 + ev.slot * 2 ^ 9 + if ev.write then 2 ^ 12 else 0) ∧ c.faultva = ev.va ∧
         c.blamepc = ev.pc ∧ c.blameseq = BitVec.ofNat 64 ev.seq.toNat ∧ c.epc = p.pc ∧ c.status.getLsbD 0 = true ∧ c.status.getLsbD 1 = false ∧
         flagsAfter p.after.csr c (done.flatMap fun o => o.flags)) ∧
      t.me.a.pc = 0xFFFFFF0000000000 ∧ t.me.a.regs = p.after.regs ∧ t.me.a.dead = p.after.dead ∧ t.me.a.vh = p.after.vh ∧ t.me.a.kh = p.after.kh ∧
      (∀ a, t.coreByte s.me.core a = overwritten (done.flatMap fun o => o.writes) a (s.coreByte s.me.core a)) ∧ t.mem = s.mem) ∧
  ∀ (seq : Word32) (evs : List PassEvent),
    (evs = [] → blamed seq evs = none) ∧
    (evs ≠ [] → ∃ b ∈ evs, blamed seq evs = some b ∧
      ∀ y ∈ evs, (seq - y.seq).toNat ≤ (seq - b.seq).toNat ∧ (y.seq = b.seq → b.cause.priority ≤ y.cause.priority))

/-- 02 R45, R67, 10 R236: SINK_COMPLETE of a finished pass of one sink completes it: its entry is free, STRIP reads 0, FLAGS gains what the
end raises. Where the result is a scalar, d receives it (07 R197, R200, 05 R146, 06 R178); bkany and bknone branch on it; a store, cvwt or cvcom, whose elements have
committed their writes, changes no register; vforce makes every handle that names its node name its cell (06 R160), vldx names its cell
(07 R187), mwrr writes the MVL values of its tile row (12 R292). A batch probe completes once its rows have arrived, with the tree sum
of the gain terms of each row in its cell (13 R306).
What a sink holds once it has taken a list of elements, none standing for an inactive one (06 R178, 05 R146, 07 R201 to R203): the count of active elements, the first active one or
-1, the exact sum modulo 2^64, the greatest and the least element, and the first index of the greatest.
The format in which vext delivers, and that bkany and bknone read no VL, are the model's reading (assumption logs 17 and 34, DEDUCED). -/
def Obligations.SinkCompletes : Prop :=
  (∀ (s : State) (c : CtxId) (r : Run) (n : Nat) (e : Entry),
    c.toNat = s.me.id → s.me.run = some r → r.done = true → r.slots = [(n, e)] → s.me.held = [] → s.me.stopped = none → s.me.resume = none →
    let z := (partGet e r.parts n).result e s.freeCtr
    let d : SReg := BitVec.ofNat 7 e.dst
    let done (t : State) : Prop := exec (.sinkComplete c) s = .next t ∧ t.me.run = none ∧ t.me.pend = s.me.pend ∧ t.me.a.csr.strip = 0 ∧
      broodEntry t.me.a.brood n = none ∧ t.mem = s.mem ∧ s.OthersKept t ∧
      ∀ f, t.me.a.csr.flags.getLsbD (Flag.index f) = (s.me.a.csr.flags.getLsbD (Flag.index f) || z.2.any fun x => x.1 == f)
    let same (t : State) : Prop := t.me.a.regs = s.me.a.regs ∧ t.me.a.pc = s.me.a.pc
    (∀ (m : Bool) (x : SReg) (v : VReg) (b : SReg) (k : KReg) (j : CovReg) (o : BitOp),
      e.op ∈ [Instr.vrsumo m x v, .vrsumt m x v, .vrmax m x v, .vrmin m x v, .vrargx m x v, .vrbit o m x v, .vext x v b, .kpop x k,
        .kfirst x k, .cvprb x j v] →
      ∃ t, done t ∧ t.cores = s.cores ∧ t.reg d = (if d = 0 then 0 else z.1) ∧ t.me.a.pc = s.me.a.pc ∧ t.me.a.vh = s.me.a.vh ∧ t.me.a.kh = s.me.a.kh ∧
        ∀ p, d = 0 ∨ p ≠ s.me.a.phys d → Sparse.get 0 t.me.a.regs p = Sparse.get 0 s.me.a.regs p) ∧
    (∀ (k : KReg) (off : BitVec 15) (any : Bool), e.op = (if any then Instr.bkany k off else .bknone k off) →
      ∃ t, done t ∧ t.cores = s.cores ∧ t.me.a.pc = (if any = decide (z.1 ≠ 0) then e.val else s.me.a.pc) ∧ t.me.a.regs = s.me.a.regs ∧
        t.me.a.vh = s.me.a.vh ∧ t.me.a.kh = s.me.a.kh) ∧
    (∀ (m : Bool) (v w : VReg) (b : BaseReg) (off : BitVec 7) (x : SReg) (j : CovReg),
      e.op ∈ [Instr.vst m v b off, .vsts m v b x, .vstx m v b w, .vlpst m v w x, .vlpstB m v x, .cvwt j v, .cvcom j v] →
      ∃ t, done t ∧ same t ∧ t.cores = s.cores ∧ t.me.a.vh = s.me.a.vh ∧ t.me.a.kh = s.me.a.kh) ∧
    (∀ (v : VReg) (x : Nat) (q : CellRef), e.op = .vforce v → e.a.ref = .node x → e.c.ref = .cell q →
      ∃ t, done t ∧ same t ∧ t.cores = s.cores ∧
        (∀ w, t.me.a.vhandle w = if s.me.a.vhandle w = .node x then .cell q else s.me.a.vhandle w) ∧
        ∀ k, t.me.a.khandle k = if s.me.a.khandle k = .node x then .cell q else s.me.a.khandle k) ∧
    (∀ (m : Bool) (v w : VReg) (b : BaseReg) (q : CellRef), e.op = .vldx m v b w → e.c.ref = .cell q →
      ∃ t, done t ∧ same t ∧ t.cores = s.cores ∧ t.me.a.kh = s.me.a.kh ∧
        ∀ y, t.me.a.vhandle y = if y = BitVec.ofNat 7 e.dst then .cell q else s.me.a.vhandle y) ∧
    (∀ (a : AccReg) (v : VReg) (b : SReg) (as bs : List (List Nat)), e.op = .mwrr a v b → partGet e r.parts n = .operands as bs →
      let row := 4096 * e.dst + 64 * e.val.toNat
      ∃ t, done t ∧ same t ∧ t.me.a.vh = s.me.a.vh ∧ (∀ k, k ≠ s.me.core → t.core k = s.core k) ∧
        ∀ p, Sparse.get 0 (t.core s.me.core).tiles p =
          if row ≤ p ∧ p < row + as.flatten.length then BitVec.ofNat 32 ((as.flatten[p - row]?).getD 0)
          else Sparse.get 0 (s.core s.me.core).tiles p)) ∧
  (∀ (s : State) (c : CtxId) (p : Pend) (e : Entry) (v : VReg) (j : CovReg) (n : BitVec 6) (b : VReg) (q : CellRef) (gain : Nat → Nat → Nat),
    c.toNat = s.me.id → s.me.run = none → s.me.pend = [p] → s.me.held = [] → p.sink? = some e → e.op = .cvprbb v j n b → e.c.ref = .cell q →
    ((p.assigned.all fun x => s.me.arrived x) = false → exec (.sinkComplete c) s = .next s) ∧
    ((∀ x ∈ p.assigned, s.me.arrived x = true) → q.fmt = some .f32 → q.eg = 0 → q.addr.toNat % 4096 + 4 * p.assigned.length ≤ 4096 →
      s.spanReady q.addr (4 * p.assigned.length) .write → p.assigned ≠ [] → s.slotHits s.me q.addr.toNat (4 * p.assigned.length) .write = [] →
      region (s.physAt q.addr .write).toNat ≠ .pod →
      (∀ (i k : Nat) (x : Stream × Nat) (r : StreamRow), p.assigned[i]? = some x → s.me.row? x.1.uid x.2 = some r → k < e.len →
        let w := covSlot e (s.cov e.dst2) k
        r.fault x.1 (x.1.fmt.cls == .b || x.1.fmt == .ix4 || x.1.fmt == .ix8) 0 k = none ∧ (s.cov e.dst2).slotPoison w true = none ∧
          gain i k = (gainTerm (rowExact x.1.fmt ((r.elems[k]?).getD [])) (Sparse.get 0 (s.cov e.dst2).words w).toNat ((s.cov e.dst2).weight w)).1) →
      (∀ x ∈ p.assigned, s.me.row? x.1.uid x.2 ≠ none) →
      let sum (i : Nat) : Nat :=
        let l := (List.range e.len).foldl (fun a k => (treeStep e true (e.index k).toNat (Amount.ofNats 0 [gain i k]) a).1) []
        (((treeEnd e true (e.elbase.toNat + e.len) l 65 0 none []).1).getD (.bits 0)).pattern
      ∃ t, exec (.sinkComplete c) s = .next t ∧ t.me.pend = [] ∧ broodEntry t.me.a.brood p.entry = none ∧ t.me.a.regs = s.me.a.regs ∧
        t.me.a.pc = s.me.a.pc ∧ s.OthersKept t ∧
        ∀ i k, i < p.assigned.length → k < 4 →
          t.coreByte s.me.core ((s.physAt q.addr .write).toNat + 4 * i + k) = BitVec.ofNat 8 (sum i / 256 ^ k))) ∧
  ∀ (e : Entry) (vs : List (Option Nat)) (draw : Nat),
    let fold := (List.zip (List.range vs.length) vs).foldl (fun p x => (Part.commit e x.1 (x.2.map fun v => [v]) p).1) e.firstPart
    let z := (fold.result e draw).1
    let active := vs.filterMap id
    (∀ (d : SReg) (k : KReg) (off : BitVec 15), e.op ∈ [Instr.kpop d k, .bkany k off, .bknone k off] →
      z = BitVec.ofNat 64 active.length) ∧
    (∀ (d : SReg) (k : KReg), e.op = .kfirst d k →
      (active = [] → z = -1) ∧
      (∀ (i : Nat), (∃ v, vs[i]? = some (some v)) → (∀ j, j < i → vs[j]? = some none) → z = BitVec.ofNat 64 i)) ∧
    (∀ (m : Bool) (d : SReg) (a : VReg), e.fmt.cls = .i → e.sat = false → e.op ∈ [Instr.vrsumo m d a, .vrsumt m d a] →
      z = BitVec.ofInt 64 ((active.map fun v => computedInt e.fmt v).sum)) ∧
    (∀ (m : Bool) (d : SReg) (a : VReg), e.fmt.cls = .f → e.op = .vrsumo m d a → active.length ≤ 1 → z = BitVec.ofNat 64 ((active[0]?).getD 0)) ∧
    (∀ (m : Bool) (d : SReg) (a : VReg), e.fmt.cls = .i → (∀ v ∈ active, v < 2 ^ e.fmt.bits) → active ≠ [] →
      (e.op = .vrmax m d a → ∃ x ∈ active, (∀ v ∈ active, computedInt e.fmt v ≤ computedInt e.fmt x) ∧ z = delivered e.fmt e.fmt.bits x) ∧
      (e.op = .vrmin m d a → ∃ x ∈ active, (∀ v ∈ active, computedInt e.fmt x ≤ computedInt e.fmt v) ∧ z = delivered e.fmt e.fmt.bits x)) ∧
    (∀ (m : Bool) (d : SReg) (a : VReg), e.fmt.cls = .i → e.op = .vrargx m d a →
      (active = [] → z = -1) ∧
      (∀ (i x : Nat), vs[i]? = some (some x) → (∀ (j y : Nat), vs[j]? = some (some y) → computedInt e.fmt y ≤ computedInt e.fmt x) →
        (∀ (j y : Nat), j < i → vs[j]? = some (some y) → computedInt e.fmt y < computedInt e.fmt x) → z = BitVec.ofNat 64 i))

/-! ## Codebooks (11 R247, R258 to R266) -/

/-- 11 R263 to R266, R258, 01 R31: cbwr writes one word of an entry, cbval one word of the valid mask, both at once where nothing stands
before them; cbrd reads either; cbsel binds or frees one slot of CBSEL; cbfence changes nothing but PC once every earlier effect is done.
11 R261, R262: cbld copies n entries from memory as the core sees it into a bank from entry 0 and makes them valid; cbst copies them
out; n is the lesser of s[b] and 256; with n = 0 both only advance. Said of ranges whose translations the first-level TLB holds, and of
cbld at a core no cached line of which is stale.
The order in which the writes of cbst go out is the model's choice (assumption log 74, DESIGN CHOICE). -/
def Obligations.CodebookInstructions : Prop :=
  (∀ (s : State) (d : SReg) (b : BankReg) (x y : SReg), s.Clear → s.readable [x, y] →
      let sel := (s.reg x).toNat
      let n := 2 * (sel % 256) + sel / 256 % 2
      let old := s.myBank b
      (s.ownsBank b = true → s.unexpanded b →
        (∃ t, exec (.cbwr b x y) s = .next t ∧ s.OnlyCore t ∧ s.BankKept t b false true false false ∧ (t.myBank b).dirty = true ∧
          (∀ a, Sparse.get 0 (t.myBank b).bytes a =
            if 8 * n ≤ a ∧ a < 8 * n + 8 then byteOf (s.reg y) (a - 8 * n) else Sparse.get 0 old.bytes a) ∧
          ∀ w, (t.myBank b).poison.getLsbD w = (old.poison.getLsbD w && decide (w ≠ n))) ∧
        (∃ t, exec (.cbval b x y) s = .next t ∧ s.OnlyCore t ∧ s.BankKept t b true false true false ∧ (t.myBank b).dirty = true ∧
          ∀ w, w < 256 → (t.myBank b).valid.getLsbD w =
            if w / 64 = sel % 4 then (s.reg y).getLsbD (w % 64) else old.valid.getLsbD w)) ∧
      (s.ownsBank b = true →
        (sel.testBit 9 = true → s.Writes (.cbrd d b x) d (BitVec.ofNat 64 (old.valid.toNat / 2 ^ (64 * (sel % 4))))) ∧
        (sel.testBit 9 = false → old.poison.getLsbD n = false →
          ∃ v, s.Writes (.cbrd d b x) d v ∧ ∀ k < 8, byteOf v k = Sparse.get 0 old.bytes (8 * n + k))) ∧
      s.SetsCsr (.cbselB b) (fun c => { c with cbsel := (c.cbsel &&& ~~~0x1F) ||| BitVec.ofNat 64 (16 + b.toNat) }) ∧
      s.SetsCsr (.cbselM b) (fun c => { c with cbsel := (c.cbsel &&& ~~~0x1F00) ||| BitVec.ofNat 64 ((16 + b.toNat) * 256) }) ∧
      s.SetsCsr .cbselNb (fun c => { c with cbsel := c.cbsel &&& ~~~0x1F }) ∧
      s.SetsCsr .cbselNm (fun c => { c with cbsel := c.cbsel &&& ~~~0x1F00 }) ∧
      (s.Quiet → s.WritesDone → s.SetsCsr .cbfence id)) ∧
  (∀ (s : State) (b : BankReg) (x y : SReg), s.Clear → s.readable [x, y] → s.ownsBank b = true →
      let va := s.reg x
      let n := min (s.reg y).toNat 256
      let old := s.myBank b
      let at_ (k : Access) (i : Nat) : Nat := (s.physAt (va + BitVec.ofNat 64 (16 * i)) k).toNat
      let ready (k : Access) : Prop := va.toNat % 16 = 0 ∧ s.spanReady va (16 * n) k ∧ ∀ i, i < n → region (at_ k i) ≠ .pod
      (n = 0 → s.SetsCsr (.cbld b x y) id ∧ s.SetsCsr (.cbst b x y) id) ∧
      (0 < n → s.unexpanded b → ready .read → s.unstale →
        ∃ t, exec (.cbld b x y) s = .next t ∧ s.OnlyCoreAndFills t ∧ (t.myBank b).dirty = true ∧ (∀ c, c ≠ b → t.myBank c = s.myBank c) ∧
          (∀ i j, i < 256 → j < 16 → Sparse.get 0 (t.myBank b).bytes (16 * i + j) =
            if i < n then s.coreByte s.me.core (at_ .read i + j) else Sparse.get 0 old.bytes (16 * i + j)) ∧
          ∀ i, i < 256 → (t.myBank b).valid.getLsbD i = (decide (i < n) || old.valid.getLsbD i)) ∧
      (0 < n → s.guarded [{ base := va.toNat, len := 16 * n }] = [] → ready .write →
        (∀ i j, i < n → j < n → i ≠ j → at_ .write i + 16 ≤ at_ .write j ∨ at_ .write j + 16 ≤ at_ .write i) →
        ∃ t, exec (.cbst b x y) s = .next t ∧ s.Advanced t ∧ t.me.a.regs = s.me.a.regs ∧ s.OthersKept t ∧ t.mem = s.mem ∧ t.me.held = [] ∧
          t.myBank b = old ∧
          (∀ i j, i < n → j < 16 → t.coreByte s.me.core (at_ .write i + j) = Sparse.get 0 old.bytes (16 * i + j)) ∧
          ∀ a, (∀ i, i < n → a < at_ .write i ∨ at_ .write i + 16 ≤ a) → ∀ k, t.coreByte k a = s.coreByte k a))


/-! ## The comb and streams (12 R270 to R272, R283 to R294) -/

/-- 12 R291, R293, R294: mzero, mrdr and mrdc, mld and mst of an owner with nothing pending: a tile cleared; MVL elements of a row or a column
copied into a new cell that the handle names; 64 rows of 256 bytes copied from or to memory at s[a] + i * s[b]. Said of ranges that the
first-level TLB holds, each cell and each row within one page, and of mld at a core no cached line of which is stale.
12 R271, R272: msetvl, with nothing pending. A request of 0 frees the comb where the context owns it; another takes it where it is
free, with every tile zero, or keeps it, and grants the lesser of the request rounded up to 16 (at most 64) and MVLCAP; where another
context owns it the grant is 0. d and MVL hold the grant.
What mrdr and mrdc wait for is the model's reading (assumption log 23, DEDUCED). -/
def Obligations.TilesAndMatrixLength : Prop :=
  (∀ (s : State) (n : AccReg) (v : VReg) (a b : SReg), s.Clear → s.readable [a, b] → (s.core s.me.core).combOwner = some s.me.pos →
      let tile (t : State) (k r c : Nat) : Word32 := Sparse.get 0 (t.core s.me.core).tiles (4096 * k + 64 * r + c)
      let row (i : Nat) : Word := s.reg a + BitVec.ofNat 64 i * s.reg b
      let at_ (k : Access) (i : Nat) : Nat := (s.physAt (row i) k).toNat
      let ready (k : Access) : Prop := (s.reg a).toNat % 4 = 0 ∧ (s.reg b).toNat % 4 = 0 ∧
        ∀ i, i < 64 → (row i).toNat % 4096 ≤ 3840 ∧ s.spanReady (row i) 256 k ∧ region (at_ k i) ≠ .pod
      (∃ t, exec (.mzero n) s = .next t ∧ s.OnlyCore t ∧
        ∀ k r c, r < 64 → c < 64 → tile t k r c = if k = n.toNat then 0 else tile s k r c) ∧
      (s.VectorReady → s.me.a.csr.ill = false → s.me.a.streaming v = false → (s.reg b).toNat < 64 →
        ∀ column : Bool,
          let i : Instr := if column then .mrdc v n b else .mrdr v n b
          let m := s.me.a.csr.mvl.toNat
          let elem (j : Nat) : Word32 := if column then tile s n.toNat j (s.reg b).toNat else tile s n.toNat (s.reg b).toNat j
          let f : Option Fmt := some (if s.me.a.csr.fmt.cls = .i then .i32 else .f32)
          (m = 0 → ∃ t c, exec i s = .next t ∧ s.NamesCell t c (some v) none 0 f) ∧
          (∀ p r, m ≠ 0 → m ≤ 64 → s.me.a.takeCell (cellBytes m f 0) = some (p, r) → p % 4096 + 4 * m ≤ 4096 → p < 2 ^ 64 →
            s.spanReady (BitVec.ofNat 64 p) (4 * m) .write →
            ∃ t c, exec i s = .next t ∧ s.NamesCell t c (some v) none m f ∧ c.addr = BitVec.ofNat 64 p ∧
              ∀ j k, j < m → k < 4 → t.coreByte s.me.core ((s.physAt (BitVec.ofNat 64 p) .write).toNat + 4 * j + k) =
                BitVec.ofNat 8 ((elem j).toNat / 256 ^ k))) ∧
      (ready .read → s.unstale → (∀ i, i < 64 → s.corePoison s.me.core (at_ .read i) 256 = false) →
        ∃ t, exec (.mld n a b) s = .next t ∧ s.OnlyCoreAndFills t ∧
          (∀ r c k, r < 64 → c < 64 → k < 4 → BitVec.ofNat 8 ((tile t n.toNat r c).toNat / 256 ^ k) = s.coreByte s.me.core (at_ .read r + 4 * c + k)) ∧
          ∀ k r c, k ≠ n.toNat → r < 64 → c < 64 → tile t k r c = tile s k r c) ∧
      (ready .write → s.guarded ((List.range 64).map fun i => { base := (row i).toNat, len := 256 }) = [] →
        (∀ i j, i < 64 → j < 64 → i ≠ j → at_ .write i + 256 ≤ at_ .write j ∨ at_ .write j + 256 ≤ at_ .write i) →
        ∃ t, exec (.mst n a b) s = .next t ∧ s.Advanced t ∧ t.me.a.regs = s.me.a.regs ∧ s.OthersKept t ∧ t.mem = s.mem ∧
          (t.core s.me.core).tiles = (s.core s.me.core).tiles ∧
          (∀ r c k, r < 64 → c < 64 → k < 4 → t.coreByte s.me.core (at_ .write r + 4 * c + k) = BitVec.ofNat 8 ((tile s n.toNat r c).toNat / 256 ^ k)) ∧
          ∀ x, (∀ i, i < 64 → x < at_ .write i ∨ at_ .write i + 256 ≤ x) → ∀ k, t.coreByte k x = s.coreByte k x)) ∧
  (∀ (s : State) (d a : SReg), s.Clear → s.readable [a] →
      let q := (s.reg a).toNat
      let owner := (s.core s.me.core).combOwner
      let mine := owner = some s.me.pos
      let grant := if q ≠ 0 ∧ (owner = none ∨ mine) then min (min 64 ((q + 15) / 16 * 16)) (s.die s.me.die).mvlcap else 0
      ∃ t, exec (.msetvl d a) s = .next t ∧ t.me.a.csr.mvl = BitVec.ofNat 64 grant ∧ t.reg d = (if d = 0 then 0 else BitVec.ofNat 64 grant) ∧
        t.me.a.csr = { s.me.a.csr with mvl := t.me.a.csr.mvl, repc := t.me.a.csr.repc } ∧ s.Advanced t ∧
        (∀ p, d = 0 ∨ p ≠ s.me.a.phys d → Sparse.get 0 t.me.a.regs p = Sparse.get 0 s.me.a.regs p) ∧
        (t.core s.me.core).combOwner = (if q = 0 then (if mine then none else owner) else if owner = none then some s.me.pos else owner) ∧
        (t.core s.me.core).tiles = (if q ≠ 0 ∧ owner = none then [] else (s.core s.me.core).tiles) ∧
        s.SameBytes t ∧ s.OthersKept t)

/-- 12 R283 to R290: smode puts a handle in STREAM state with the pattern of four registers, none of its rows assigned; sexit makes it EMPTY;
sprog reads the rows assigned, with bit 62 for a fault recorded for the next row and bit 63 for a row that waits on its driver. A row
that is wanted and behind no store is fetched; a row in flight whose elements meet no event, and whose bytes no store behind it holds under another
virtual address, arrives with them. -/
def Obligations.StreamResults : Prop :=
  (∀ (s : State) (d : VReg) (a : SReg), s.me.nurse = false → a.toNat ≤ 124 → s.readable [a, a + 1, a + 2, a + 3] →
    let w := (s.reg (a + 2)).toNat
    w < 2 ^ 63 → w / 2 ^ 44 % 16 = 0 → w / 2 ^ 37 % 8 = 0 → 1 ≤ w / 2 ^ 48 % 2 ^ 15 → w / 2 ^ 48 % 2 ^ 15 ≤ 16384 → w % 2 ^ 32 ≠ 0 →
    w / 2 ^ 32 % 32 ≤ 18 → s.me.a.otherStreams d ≤ 3 →
    ∃ t x, exec (.smode d a) s = .next t ∧ t.me.a.vhandle d = .stream x ∧ x.base = s.reg a ∧ x.stride = s.reg (a + 1) ∧
      x.shape = s.reg (a + 2) ∧ x.rowStride = s.reg (a + 3) ∧ x.consumed = 0 ∧ x.decided = none ∧
      (∀ v, v ≠ d → t.me.a.vhandle v = s.me.a.vhandle v) ∧ t.me.a.regs = s.me.a.regs ∧ s.Advanced t ∧ s.SameBytes t ∧ s.OthersKept t) ∧
  (∀ (s : State) (d : VReg), s.me.nurse = false → s.me.a.streaming d = true →
    ∃ t, exec (.sexit d) s = .next t ∧ t.me.a.vhandle d = .empty ∧ (∀ v, v ≠ d → t.me.a.vhandle v = s.me.a.vhandle v) ∧
      t.me.a.regs = s.me.a.regs ∧ s.Advanced t ∧ s.SameBytes t ∧ s.OthersKept t) ∧
  (∀ (s : State) (d : SReg) (v : VReg) (x : Stream), s.me.nurse = false → s.me.a.vhandle v = .stream x →
    let fault : Bool := s.me.rows.any fun r => r.uid == x.uid && r.row == x.consumed && r.arrived && !r.faults.isEmpty
    let asked : Bool := s.me.rows.any fun r => r.uid == x.uid && r.asked.isSome
    s.Writes (.sprog d v) d
      (BitVec.ofNat 64 (x.consumed % 2 ^ 32 + (if fault then 2 ^ 62 else 0) + if asked then 2 ^ 63 else 0))) ∧
  (∀ (s : State) (c : CtxId) (v : VReg) (x : Stream) (q : Nat) (reader : Option Pend),
    c.toNat = s.me.id → s.me.rowWanted v = some (x, q, reader) → s.me.streamStalled x.uid = false →
    s.me.rowBlocked (x.footprint s.myTenant q) reader = false →
    ∃ t r, exec (.streamRowFetch c v) s = .next t ∧ t = { s with me := { s.me with rows := s.me.rows ++ [r] } } ∧ r.uid = x.uid ∧ r.row = q ∧
      r.arrived = false) ∧
  (∀ (s : State) (c : CtxId) (v : VReg) (r : StreamRow) (x : Stream) (p : PageAttr),
    c.toNat = s.me.id → s.me.rowInFlight v = some r → s.me.streamOf r.uid = some x → x.decided = some p →
    p.geo ≠ 4 → (∀ reader, s.me.rowBlocked r.footprint reader = false) →
    let g : Stg := { s := s, brood := [], len := x.len, at_ := 0, carries := [] }
    (∀ reader, s.me.rowHeldBack ((List.range x.len).flatMap fun j => (g.rowElem x p r.row j).touches) reader = false) →
    (∀ j, j < x.len → (g.rowElem x p r.row j).events = [] ∧ (g.rowElem x p r.row j).stall = false) →
    ∃ t y, exec (.streamRowArrive c v) s = .next t ∧ y ∈ t.me.rows ∧ y.uid = r.uid ∧ y.row = r.row ∧ y.arrived = true ∧ y.faults = [] ∧
      y.elems = (List.range x.len).map (fun j => (g.rowElem x p r.row j).vals) ∧ t.me.a = s.me.a ∧ s.OthersKept t)

/-! ## Coverage (13 R296 to R300, R308, R309) -/

/-- 13 R300: cvset of an accumulator that the context owns, with nothing pending: N, WT and GB are set, every slot reads INIT, with -0 read as
+0, every weight of a weighted accumulator 1.0, and every other word is as before. A malformed word traps ILLEGAL.
13 R309: cvrd copies VL best values, or weights where bit 0 of s[b] is set, from the slots of ELBASE on into a new `.f32` cell that vD
names; the weight of an unweighted accumulator reads 1.0. Said of a cell in one page that the first-level TLB holds.
13 R308: cvsel, once every earlier sink has completed: the index of the greatest gain that is no NaN, +0 above -0, among equals the one
of the greatest tie, an element's low 16 bits, then the lowest; -1 where every gain is a NaN; INV for a signalling one. Without a tie
operand all ties are equal. Said of cells whose translations the first-level TLB holds, at a core no cached line of which is stale.
What cvrd and cvsel wait for, and which of equal gains with equal ties cvsel takes, are the model's reading (assumption logs 23 and 41, DEDUCED). -/
def Obligations.CoverageUnits : Prop :=
  ((∀ (s : State) (j : CovReg) (a b : SReg), s.Clear →
        let w := (s.reg a).toNat
        let n := w % 2 ^ 16
        let wt := w.testBit 16
        let init := w / 2 ^ 32
        let good := w / 2 ^ 17 % 2 ^ 15 = 0 ∧ 1 ≤ n ∧ n ≤ (if wt then 8192 else 16384) ∧ nan32 init = false
        let cov (t : State) (k : Nat) : Cov := Sparse.get Cov.reset (t.core s.me.core).covs k
        (¬good → s.TrapsNow → s.Traps (.cvset j a b) 0x01 0 false) ∧
        (good → s.readable [a, b] → s.ownsCov j = true →
          ∃ t, exec (.cvset j a b) s = .next t ∧ s.OnlyCore t ∧ (cov t j.toNat).n = n ∧ (cov t j.toNat).wt = wt ∧ (cov t j.toNat).gb = s.reg b ∧
            (∀ i, Sparse.get 0 (cov t j.toNat).words i =
              if i < n then (if init = 2 ^ 31 then 0 else BitVec.ofNat 32 init)
              else if wt = true ∧ 8192 ≤ i ∧ i < 8192 + n then 0x3F800000 else Sparse.get 0 (cov s j.toNat).words i) ∧
            ∀ k, k ≠ j.toNat → cov t k = cov s k)) ∧
    (∀ (s : State) (d : VReg) (j : CovReg) (b : SReg) (p : Nat) (r : Arch), s.Clear → s.readable [b] → s.ownsCov j = true →
        let c := Sparse.get Cov.reset (s.core s.me.core).covs j.toNat
        let n := s.me.a.csr.vl.toNat
        let weights := (s.reg b).getLsbD 0
        let first := s.me.a.csr.elbase.toNat - c.gb.toNat
        let value (i : Nat) : Nat :=
          if weights then (if c.wt then (Sparse.get 0 c.words (8192 + first + i)).toNat else 0x3F800000) else (Sparse.get 0 c.words (first + i)).toNat
        let poisoned (i : Nat) : Prop := ((if weights then 8192 else 0) + first + i) / 2 ∈ c.poison ∧ (weights = false ∨ c.wt = true)
        c.n ≠ 0 → c.n ≤ 16384 → n ≠ 0 → c.gb.toNat ≤ s.me.a.csr.elbase.toNat → s.me.a.csr.elbase.toNat + n ≤ c.gb.toNat + c.n → s.me.a.streaming d = false →
        (∀ i, i < n → ¬poisoned i) → s.me.a.takeCell (cellBytes n (some .f32) 0) = some (p, r) → p % 4096 + 4 * n ≤ 4096 → p < 2 ^ 64 →
        s.spanReady (BitVec.ofNat 64 p) (4 * n) .write →
        ∃ t x, exec (.cvrd d j b) s = .next t ∧ s.NamesCell t x (some d) none n (some .f32) ∧ x.addr = BitVec.ofNat 64 p ∧
          ∀ i k, i < n → k < 4 →
            t.coreByte s.me.core ((s.physAt (BitVec.ofNat 64 p) .write).toNat + 4 * i + k) = BitVec.ofNat 8 (value i / 256 ^ k))) ∧
  (∀ (s : State) (d : SReg) (x y : VReg) (c : CellRef) (ties : Option CellRef), s.Clear → s.me.ahead = [] → s.unstale →
      s.me.a.vhandle x = .cell c → c.fmt = some .f32 → c.eg = 0 → c.len ≠ 0 →
      (ties = none → s.me.a.vhandle y = .empty ∧ s.me.a.csr.deadTrap = false) →
      (∀ e, ties = some e → s.me.a.vhandle y = .cell e ∧ e.len = c.len ∧ e.eg = 0 ∧ ∃ f ∈ [Fmt.i8, .i16, .i32, .i64, .n8, .n16, .n32, .n64],
        e.fmt = some f ∧ s.cellReady e (f.bits / 8)) → s.cellReady c 4 →
      let byte (e : CellRef) (i : Nat) : Byte := s.coreByte s.me.core ((s.physAt e.addr .read).toNat + i)
      let gain (i : Nat) : Nat := leNat ((List.range 4).map fun k => byte c (4 * i + k))
      let tie (i : Nat) : Nat := match ties with
        | some e =>
          let size := (e.fmt.getD .n8).bits / 8
          let v := leNat ((List.range size).map fun k => byte e (size * i + k))
          if e.fmt = some .i8 ∧ 128 ≤ v then v + 0xFF00 else v % 65536
        | none => 0
      let less (i j : Nat) : Prop := key32 (gain i) < key32 (gain j) ∨
        (key32 (gain i) = key32 (gain j) ∧ (gain j < gain i ∨ (gain i = gain j ∧ tie i < tie j)))
      ∃ t v, exec (.cvsel d x y) s = .next t ∧
        s.RegisterResult t d v (if (List.range c.len).any fun i => signalling32 (gain i) then 1 else 0) ∧ s.SameBytes t ∧ s.OthersKept t ∧
        ((∀ i, i < c.len → nan32 (gain i) = true) → v = -1) ∧
        ∀ r, r < c.len → nan32 (gain r) = false → (∀ i, i < c.len → nan32 (gain i) = false → ¬less r i) →
          (∀ i, i < r → nan32 (gain i) = false → less i r) → v = BitVec.ofNat 64 r)


/-! ## Comb barrier objects (15 R323 to R331) -/

/-- 15 R324, R325, R328, R329: bbini gives an object EXP and ARR = s[b] and zeros; bbexp adds to PEND and bbarv also counts one arrival, under the
release that it is; both at zero flip PHASE and reload ARR; bit 63 clears CHUNK; an update out of range records ERR, EVA and ECODE; an
object in error takes none.
That the core's own cached line of the object is dropped is the model's reading (assumption log 43, DEDUCED). -/
def Obligations.ObjectUpdates : Prop :=
  ∀ (s : State) (a b : SReg) (x : Xlat), s.Quiet → s.me.nurse = false → s.me.ahead = [] → s.readable [a, b] →
    let o := s.reg a
    let v := (s.reg b).toNat
    (1 ≤ v → v < 2 ^ 16 → s.ObjectAt o .write x →
      ∃ t, exec (.bbini a b) s = .next t ∧ s.Advanced t ∧ t.me.a.regs = s.me.a.regs ∧ t.me.held = [] ∧ s.OthersKept t ∧
        ∀ i, i < 64 → t.coreByte s.me.core (x.pa + i) =
          if i = 4 ∨ i = 6 then BitVec.ofNat 8 v else if i = 5 ∨ i = 7 then BitVec.ofNat 8 (v / 256) else 0) ∧
    (s.WritesDone → v / 2 ^ 23 % 2 ^ 40 = 0 → s.ObjectAt o .atomic x → s.homePoison x.pa 8 = false → s.pathToHome x.pa = false →
      ∀ arrive : Bool,
        let c := s.ctrl s.me x.pa
        let exp := c / 2 ^ 48
        let arr := c / 2 ^ 32 % 2 ^ 16
        let low : Nat := c / 2 ^ 8 % 2 ^ 24
        let gain : Nat := v % 2 ^ 23
        let pend : Int := (if low < 2 ^ 23 then (low : Int) else (low : Int) - 2 ^ 24) + (gain : Int)
        let left := if arrive then arr - 1 else arr
        ∃ t, exec (if arrive then .bbarv a b else .bbexp a b) s = .next t ∧ s.Advanced t ∧ t.me.a.regs = s.me.a.regs ∧ s.OthersKept t ∧
          (c / 2 % 2 = 1 → ∀ i, i < 64 → t.readByte s.me (x.pa + i) = s.readByte s.me (x.pa + i)) ∧
          (c / 2 % 2 = 0 → pend < 2 ^ 23 → (arrive = true → arr ≠ 0) →
            (if pend = 0 ∧ left = 0 then
              t.ctrl s.me x.pa = exp * 2 ^ 48 + exp * 2 ^ 32 + (if c % 2 = 0 then c % 256 + 1 else c % 256 - 1)
            else t.ctrl s.me x.pa = exp * 2 ^ 48 + left * 2 ^ 32 + (pend % 2 ^ 24).toNat * 2 ^ 8 + c % 256) ∧
            (∀ i, 8 ≤ i → i < 32 → t.readByte s.me (x.pa + i) = s.readByte s.me (x.pa + i)) ∧
            ∀ i, 32 ≤ i → i < 64 → t.readByte s.me (x.pa + i) = if v.testBit 63 then 0 else s.readByte s.me (x.pa + i)) ∧
          (c / 2 % 2 = 0 → (2 ^ 23 ≤ pend ∨ (arrive = true ∧ arr = 0)) →
            t.ctrl s.me x.pa = c + 2 ∧ t.objectWord s.me (x.pa + 8) = o.toNat ∧ t.readByte s.me (x.pa + 16) = 1))

/-- 15 R330: bbwait completes with CTRL in d once PHASE differs from bit 0 of s[b]; while it does not, the context waits, and BBWAIT_COMPLETE
polls again; an object in error traps with its ECODE and EVA.
15 R331: bbtest copies chunk bits from bit s[b][7:0] of CHUNK on into a new mask cell of VL bits, 0 past bit 255; k0 traps ILLEGAL. Said of
translations that the first-level TLB holds, the cell in one page.
Which poison a poll meets is the model's reading (assumption log 45, DEDUCED). -/
def Obligations.ObjectWaits : Prop :=
  (∀ (s : State) (d a b : SReg) (x : Xlat), s.Clear → s.readable [a, b] →
    let o := s.reg a
    let c := s.ctrl s.me x.pa
    let phase := (s.reg b).getLsbD 0
    s.ObjectAt o .read x → s.pathOverlaps x.pa 64 = false → s.homePoison x.pa 24 = false →
    let waits : State := { s with me := { s.me with wait := .bbwait o phase d } }
    ∀ later : Bool,
      let i : Instr := if later then .bbwaitComplete (BitVec.ofNat 12 s.me.id) else .bbwait d a b
      let u := if later then waits else s
      (c / 2 % 2 = 0 → decide (c % 2 = 1) ≠ phase →
        ∃ t, exec i u = .next t ∧ t.reg d = (if d = 0 then 0 else BitVec.ofNat 64 c) ∧ t.me.wait = (if later then .none else s.me.wait) ∧
          s.Advanced t ∧ (∀ p, d = 0 ∨ p ≠ s.me.a.phys d → Sparse.get 0 t.me.a.regs p = Sparse.get 0 s.me.a.regs p) ∧
          (∀ y, ¬s.touches x false y → Sparse.get 0 t.mem y = Sparse.get 0 s.mem y) ∧ s.OthersKept t) ∧
      (c / 2 % 2 = 0 → decide (c % 2 = 1) = phase →
        ∃ t, exec i u = .next t ∧ t.me.wait = .bbwait o phase d ∧ t.me.a = s.me.a ∧ s.OthersKept t) ∧
      (c / 2 % 2 = 1 → s.me.a.csr.sup = false →
        ∃ t, exec i u = .next t ∧ t.me.a.csr.cause = BitVec.ofNat 64 (s.readByte s.me (x.pa + 16)).toNat ∧
          t.me.a.csr.faultva = BitVec.ofNat 64 (s.objectWord s.me (x.pa + 8)) ∧ t.me.a.csr.epc = s.me.a.pc ∧
          t.me.a.pc = 0xFFFFFF0000000000 ∧ t.me.a.regs = s.me.a.regs)) ∧
  ∀ (s : State) (d : KReg) (a b : SReg),
    (s.TrapsNow → s.Traps (.bbtest 0 a b) 0x01 0 false) ∧
    (∀ (x : Xlat) (p : Nat) (r : Arch), d ≠ 0 → s.Clear → s.readable [a, b] → s.ObjectAt (s.reg a) .read x → x.found = 0 →
      s.pathOverlaps x.pa 64 = false → s.homePoison (x.pa + 32) 32 = false →
      let n := s.me.a.csr.vl.toNat
      let first := (s.reg b).toNat % 256
      let bytes := (n + 7) / 8
      n ≠ 0 → s.me.a.takeCell (cellBytes n none 0) = some (p, r) → p % 4096 + bytes ≤ 4096 → p < 2 ^ 64 →
      s.spanReady (BitVec.ofNat 64 p) bytes .write →
      ∃ t c, exec (.bbtest d a b) s = .next t ∧ s.NamesCell t c none (some d) n none ∧ c.addr = BitVec.ofNat 64 p ∧
        ∀ i, i < n → (t.coreByte s.me.core ((s.physAt (BitVec.ofNat 64 p) .write).toNat + i / 8)).getLsbD (i % 8) =
          (decide (first + i < 256) && (s.readByte s.me (x.pa + 32 + (first + i) / 8)).getLsbD ((first + i) % 8)))


/-! ## Transfers, barriers and bindings (15 R318 to R322, R334 to R340) -/

/-- 15 R317, R319, R345: bxfer captures its registers and holds the transfer; with W * H = 0 it does nothing; a launched transfer stands among those
in flight. Here with no earlier sink or held effect; the checks of R319 as hypotheses. 15 R320, R321, R324, R340: a chunk that lands through no link
graph writes the gathered source bytes, takes their number from PEND and sets its bit of CHUNK; the transfer ends with its last chunk. A parity error
has the chunk copied again; a second ends the transfer, and the object records POISON. Said of readable, unpoisoned bytes that stand apart from the
dirty bitmap. What a held transfer waits for, and which link slots its chunks take, are the model's (assumption logs 47, DEDUCED, and 61, DESIGN
CHOICE); that the report of a parity error names its quad as its place and the context in its data is the model's choice too (assumption logs 56 and
11, DESIGN CHOICE). -/
def Obligations.Transfers : Prop :=
  (∀ (s : State) (g : BitVec 4) (d a b : SReg), s.Clear → s.me.a.brood = [] → a.toNat ≤ 124 → s.readable [a, a + 1, a + 2, a + 3, d, b] →
      let w := (s.reg (a + 2)).toNat
      let h := (s.reg (a + 3)).toNat
      let n := w * h
      let dst := s.reg d
      let o := s.reg b
      w ≤ 131072 → h ≤ 131072 →
      (n = 0 → s.SetsCsr (.bxfer g d a b) id) ∧
      (n ≠ 0 → g = 0 → n ≤ 131072 → dst.toNat / 131072 = (dst.toNat + n - 1) / 131072 →
        (sourceRun (s.reg a) (s.reg (a + 1)) w h).overlaps { base := dst.toNat, len := n } = false → o.toNat % 64 = 0 →
        s.mapFault dst.toNat n .write = none → s.mapFault o.toNat 64 .atomic = none → s.spanLink dst.toNat n .write = none →
        s.spanLink o.toNat 64 .atomic = none → s.inQuad (s.physAt o .atomic).toNat = true →
        (∀ p ∈ pagePieces dst.toNat n, s.inQuad (s.physAt (word p.1) .write).toNat = true) →
        s.sourcePending (sourceRun (s.reg a) (s.reg (a + 1)) w h) = false → (s.inFlight s.me.quad).length < 32 →
        ∃ t x, exec (.bxfer g d a b) s = .next t ∧ s.Advanced t ∧ s.OthersKept t ∧ t.me.held = [x] ∧ x.instr = .bxfer g d a b ∧
          t.me.a = { s.me.a with pc := t.me.a.pc, rep := t.me.a.rep, csr := { s.me.a.csr with repc := t.me.a.csr.repc } } ∧
          x.args = [dst, o, s.reg a, s.reg (a + 1), s.reg (a + 2), s.reg (a + 3), 0, BitVec.ofNat 64 n, s.physAt o .atomic] ++
            (pagePieces dst.toNat n).map (fun p => s.physAt (word (p.1 / 4096 * 4096)) .write))) ∧
  (∀ (s : State) (c : CtxId) (x : Held) (dst o src stride w h g n opa : Word) (bases : List Word),
    let m := s.ctx c.toNat
    m.sinkless → m.held = [x] → x.isTransfer = true → x.args = dst :: o :: src :: stride :: w :: h :: g :: n :: opa :: bases →
    (∀ y ∈ (s.core m.core).path, y.of m = false) → s.podPending m = false → (s.inFlight m.quad).length < 32 →
    ∃ t places, exec (.foragerLaunch c) s = .next t ∧ t.ctx c.toNat = { m with held := [] } ∧ s.OnlyContexts t [c.toNat] ∧ t.mem = s.mem ∧
      t.cores = s.cores ∧ t.nextTransfer = s.nextTransfer + 1 ∧ t.transfers = s.transfers ++
        [{ id := s.nextTransfer, quad := m.quad, ctx := c.toNat, tenant := m.a.csr.tenant, launch := m.launch, pc := x.pc, src := src,
           rowStride := stride, rowBytes := w.toNat, rows := h.toNat, dst := dst, dstPa := bases.map fun b => b.toNat, obj := o,
           objPa := opa.toNat, graph := g.toNat, n := n.toNat, landed := [], recopied := [], stalled := none, slots := places }]) ∧
  ∀ (s : State) (x : Nat) (chunk : BitVec 8) (m : Transfer),
    s.transfers.find? (fun y => y.id == x) = some m → m.stalled = none → m.graph = 0 → m.objPa % 64 = 0 →
    let j := chunk.toNat
    let lo := (m.chunkBytes j).1
    let hi := (m.chunkBytes j).2
    let inObj (a : Nat) : Bool := decide (m.objPa ≤ a) && decide (a < m.objPa + 64)
    let inDst (a : Nat) : Bool := decide (m.destPa lo ≤ a) && decide (a < m.destPa lo + (hi - lo))
    let objs := (List.range 64).map fun i => m.objPa + i
    let dsts := (List.range (hi - lo)).map fun i => m.destPa lo + i
    let byte (t : State) (a : Nat) : Byte := t.readByte m.agent a
    j ∈ m.chunks → j ∉ m.landed → (∀ a, inObj a = true → inDst a = false) →
    s.dirtyApart m.agent (objs ++ dsts) (fun a => inObj a || inDst a) → s.homePoison m.objPa 64 = false →
    (∀ (read : Nat → Nat), s.homePoison (m.destPa lo) (hi - lo) = false →
      (∀ k, lo ≤ k → k < hi → m.destPa k = m.destPa lo + (k - lo)) →
      (∀ k, lo ≤ k → k < hi → ∃ y, s.lookup m.agent (m.sourceVa k) .read = .ok y ∧ y.found = 0 ∧ y.pa = read k ∧
        s.reach m.agent y.pa = .here ∧ region y.pa ≠ .pod ∧ s.homePoison y.pa 1 = false) →
      let c := s.ctrl m.agent m.objPa
      let low : Nat := c / 2 ^ 8 % 2 ^ 24
      let pend : Int := (if low < 2 ^ 23 then (low : Int) else (low : Int) - 2 ^ 24) - ((hi - lo : Nat) : Int)
      let arr := c / 2 ^ 32 % 2 ^ 16
      let exp := c / 2 ^ 48
      c / 2 % 2 = 0 → -(2 ^ 23 : Int) ≤ pend →
      ∃ t, exec (.foragerChunkLand x chunk) s = .next t ∧
        (∀ k, lo ≤ k → k < hi → byte t (m.destPa k) = byte s (read k)) ∧
        t.ctrl m.agent m.objPa = (if pend = 0 ∧ arr = 0 then exp * 2 ^ 48 + exp * 2 ^ 32 + (if c % 2 = 0 then c % 256 + 1 else c % 256 - 1)
          else exp * 2 ^ 48 + arr * 2 ^ 32 + (pend % 2 ^ 24).toNat * 2 ^ 8 + c % 256) ∧
        byte t (m.objPa + 32 + j / 8) = (byte s (m.objPa + 32 + j / 8) ||| BitVec.ofNat 8 (2 ^ (j % 8))) ∧
        (∀ i, 8 ≤ i → i < 64 → i ≠ 32 + j / 8 → byte t (m.objPa + i) = byte s (m.objPa + i)) ∧
        t.transfers = (if m.chunks.all fun k => (m.landed ++ [j]).contains k then s.transfers.filter fun y => decide (y.id ≠ x)
          else s.transfers.map fun y =>
            if y.id = x then { y with landed := m.landed ++ [j], slots := m.slots.map fun z => (z.1, z.2 - 2) } else y)) ∧
    ((s.die (m.quad / 36)).trslots = 0 →
      ∃ t, exec (.foragerBufferParity x chunk) s = .next t ∧ s.Reported t .foragerError (m.quad / 36) m.quad 0 [m.ctx] ∧
        (j ∉ m.recopied → t.mem = s.mem ∧
          t.transfers = s.transfers.map fun y => if y.id = x then { y with recopied := j :: y.recopied } else y) ∧
        (j ∈ m.recopied → s.ctrl m.agent m.objPa / 2 % 2 = 0 →
          t.transfers = s.transfers.filter (fun y => decide (y.id ≠ x)) ∧ t.ctrl m.agent m.objPa = s.ctrl m.agent m.objPa + 2 ∧
          t.objectWord m.agent (m.objPa + 8) = m.sourceVa lo ∧ byte t (m.objPa + 16) = 0x08))

/-- 15 R335, R340, 21 R394: bar, once every earlier write is done, waits; with every participant at the barrier or halted, each that waits goes on,
its data cache invalidated at quad or wider, and before that, or while a link holds the signals back, none does. The participants are those that the
dispatcher fixed: the members of the launch, a context frozen alone among them. A parity error of the wires has the signal sent again, a second one
traps POISON in every waiter. Registers but PC, and memory, are as before. 15 R337, R338: bind enters (object, base, length) in its core's table,
once; unbind removes the context's entries of an object; a base or length that is no multiple of 64, a length outside 64 to 2^30, or a fifth entry
traps ILLEGAL. That a barrier with participants in other packages completes by its own happening is the model's reading (assumption log 77, DEDUCED).
That the report of the wires names the waiter's quad as its place and the waiter in its data, and that the error can hit a barrier of any scope, are
the model's choices (assumption logs 56, 11 and 113, DESIGN CHOICE). -/
def Obligations.BarriersAndBindings : Prop :=
  (∀ (s : State) (sc : Scope), s.Quiet → s.me.nurse = false → s.WritesDone →
    exec (.bar sc) s = .next { s with me := { s.me with wait := .bar sc false } }) ∧
  (∀ (s : State) (x : Ctx) (l : Launch), (s.die x.die).launch? x.launch = some l →
    s.participants x .die = some (l.members.map fun id => (id, l.seq)) ∧
    s.participants x .quad = some ((l.members.filter fun id => id / 16 == x.id / 16).map fun id => (id, l.seq)) ∧
    s.participants x .core = some ((l.members.filter fun id => id / 4 == x.id / 4).map fun id => (id, l.seq))) ∧
  (∀ (s : State) (c : CtxId) (sc : Scope) (again : Bool), (s.ctx c.toNat).wait = .bar sc again →
    let x := s.ctx c.toNat
    (s.participants x sc = none → exec (.barEpisodeComplete c) s = .next s) ∧
    (∀ ps, s.participants x sc = some ps →
      ((∀ p ∈ ps, s.arrived sc p = true) → s.barHeld x sc = false →
        ∃ t, exec (.barEpisodeComplete c) s = .next t ∧ s.OnlyContexts t ((ps.filter fun p => s.waiting sc p).map fun p => p.1) ∧ t.mem = s.mem ∧
          ∀ p ∈ ps, s.waiting sc p = true →
            let id := p.1
            (t.ctx id).wait = .none ∧ (t.ctx id).state = (s.ctx id).state ∧ (t.ctx id).ahead = [] ∧
            ((s.ctx id).a.rep = none → (t.ctx id).a = { (s.ctx id).a with pc := (s.ctx id).a.pc + 4 }) ∧
            (t.core (s.ctx id).core).path = (s.core (s.ctx id).core).path ∧
            (2 ≤ sc.code → id < 4096 → (t.core (s.ctx id).core).cache = [])) ∧
      (((∃ p ∈ ps, s.arrived sc p = false) ∨ s.barHeld x sc = true) → exec (.barEpisodeComplete c) s = .next s)) ∧
    ((s.die x.die).trslots = 0 →
      let ids := s.waitersOf x sc
      (∀ id ∈ ids, id < 4096 ∧ (s.ctx id).a.csr.sup = false ∧ (s.die (s.ctx id).die).trslots = 0) →
      ∃ t, exec (.barrierWireParity c) s = .next t ∧ s.OnlyContexts t ids ∧ t.mem = s.mem ∧
        s.Reported t .barrierWire x.die x.quad 0 [x.id] ∧
        ∀ id ∈ ids,
          (again = false → t.ctx id = { s.ctx id with wait := .bar sc true }) ∧
          (again = true → (t.ctx id).wait = .none ∧ (t.ctx id).a.csr.cause = 0x08 ∧ (t.ctx id).a.csr.epc = (s.ctx id).a.pc ∧
            (t.ctx id).a.csr.faultva = 0 ∧ (t.ctx id).a.pc = 0xFFFFFF0000000000 ∧ (t.ctx id).a.csr.sup = true ∧
            (t.ctx id).a.regs = (s.ctx id).a.regs))) ∧
  ∀ (s : State) (d a b : SReg), s.readable [d, a, b] →
    let mine := (s.core s.me.core).binds.filter fun x => x.ctx == s.me.id
    let x : Binding := { ctx := s.me.id, obj := s.reg d, base := s.reg a, len := s.reg b }
    let bad : Prop := (s.reg a).toNat % 64 ≠ 0 ∨ (s.reg b).toNat % 64 ≠ 0 ∨ (s.reg b).toNat < 64 ∨ 2 ^ 30 < (s.reg b).toNat ∨
      (4 ≤ mine.length ∧ x ∉ mine)
    (s.Clear → ¬bad → ∃ t, exec (.bind d a b) s = .next t ∧ s.OnlyCore t ∧
      t.core s.me.core = { s.core s.me.core with
        binds := if x ∈ mine then (s.core s.me.core).binds else (s.core s.me.core).binds ++ [x] }) ∧
    (s.TrapsNow → s.me.held = [] → bad → s.Traps (.bind d a b) 0x01 0 false) ∧
    (s.Clear → ∃ t, exec (.unbind a) s = .next t ∧ s.OnlyCore t ∧
      t.core s.me.core = { s.core s.me.core with
        binds := (s.core s.me.core).binds.filter fun y => !(y.ctx == s.me.id && y.obj == s.reg a) })


/-! ## The nurse and the end of a context (19 R355 to R361, R366, R376, 10 R226, R227) -/

/-- 19 R355, R357, R376: on a nurse core, freeze answers 2^63 + 1, 2, 3 for no such context, a buffer off its alignment, a halted one, and otherwise
writes the snapshot, frees the position and answers its length; launch answers a sequence number and queues, or 2^63 + the refusal's code; lwait takes
the oldest message of the first tenant in rotation, and waits with none. The freeze is said of a context with nothing pending, none of whose writes is
on its way. That the firmware answers a LAUNCH at the launch instruction, and at lwait refuses an unknown TYPE with code 6 or keeps the message, is
the model's choice (assumption log 58, DESIGN CHOICE; 22 R418), and so is the layout of the bodies of NAK and ACCEPT (logs 57 and 11, DESIGN CHOICE).
That the position of a halted context answers code 3 while its launch stands, and 1 after (log 50), and that launch reads its record at any physical
address, where R356 has it in nurse SRAM (log 53), are the model's readings (DEDUCED). -/
def Obligations.NurseInstructions : Prop :=
  ∀ (s : State) (d a b : SReg), s.me.nurse = true → s.me.held = [] → s.me.ahead = [] → s.readable [a, b] →
    let die := s.me.die
    let dead : Word := 0x8000000000000000
    let id := (s.reg a).toNat % 4096
    let c := s.ctx id
    let pa := (s.reg b).toNat
    let absent : Prop := 36 ≤ id / 16 % 64 ∨ id / 1024 ≠ die ∨ c.state = .vacant ∨ c.state = .stopped ∨ (c.state = .halted ∧ s.occupied id = false)
    (absent → s.Answers (.freeze d a b) d (dead + 1)) ∧
    (¬absent → pa % 64 ≠ 0 → s.Answers (.freeze d a b) d (dead + 2)) ∧
    (¬absent → pa % 64 = 0 → c.state = .halted → s.Answers (.freeze d a b) d (dead + 3)) ∧
    (¬absent → pa % 64 = 0 → region pa ≠ .nothing → region pa ≠ .pod → s.freezable id →
      let tag := match (s.die die).launch? c.launch with | some l => l.kernel.tag | none => 0
      let bytes := (s.focus id).snapshot tag
      ∃ t, exec (.freeze d a b) s = .next t ∧ s.RegisterResult t d (BitVec.ofNat 64 bytes.length) 0 ∧ t.ctx id = Ctx.vacant id ∧
        t.occupied id = false ∧ (∀ k, k ≠ id → k ≠ s.me.id → (t.ctx k).a = (s.ctx k).a) ∧
        (∀ i, i < bytes.length → t.plain c.a.csr.tenant (pa + i) = (bytes[i]?).getD 0) ∧
        ∀ y, (y < pa ∨ pa + (bytes.length + 63) / 64 * 64 ≤ y) → Sparse.get 0 t.mem y = Sparse.get 0 s.mem y) ∧
    (let va := (s.reg a).toNat
      let bytes := s.coreBytes s.me.core va 128
      let k := parseKernel bytes
      let tenant := (s.reg b).toNat % 16
      let r := s.refusal die tenant k bytes
      let rec_ := (s.die die).tenant tenant
      va % 64 = 0 → region va ≠ .nothing → region (va + 64) ≠ .nothing → s.corePoison s.me.core va 128 = false →
      ((rec_.valid = false ∨ (∀ q, q < 36 → k.qset.getLsbD q = false) ∨ ∃ q, q < 36 ∧ k.qset.getLsbD q = true ∧ rec_.quads.getLsbD q = false) →
        r = some 1) ∧
      let asked := (s.die die).taken.find? fun m => m.tenant == tenant && messageType m.msg == 1 && m.record == bytes
      let told (t : State) (kind : Nat) (body : List Byte) : Prop :=
        (asked = none → (t.die die).events = (s.die die).events ∧ (t.die die).taken = (s.die die).taken) ∧
        ∀ m, asked = some m → s.Sent t die tenant kind (messageSeq m.msg) body ∧ (t.die die).taken = (s.die die).taken.erase m
      (∀ n, r = some n → 1 ≤ n ∧ n ≤ 5 ∧
        ∃ t, exec (.launch d a b) s = .next t ∧ s.RegisterResult t d (dead + BitVec.ofNat 64 n) 0 ∧ s.SameBytes t ∧ s.OthersKept t ∧
          told t 0x86 (leBytes n 8) ∧ (t.die die).launches = (s.die die).launches ∧ (t.die die).nextSeq = (s.die die).nextSeq) ∧
      (r = none →
        let seq := (s.die die).nextSeq
        ∃ t, exec (.launch d a b) s = .next t ∧ s.RegisterResult t d (BitVec.ofNat 64 seq) 0 ∧ s.SameBytes t ∧ s.OthersKept t ∧
          told t 0x87 (leBytes seq 4) ∧
          (t.die die).launches = (s.die die).launches ++
            [{ seq := seq, tenant := tenant, kernel := k, state := .waiting, ctxs := [], members := [], images := k.images, fault := none, rserr := 0,
               freezing := none, old := [] }] ∧
          (t.die die).nextSeq = (if (seq + 1) % 2 ^ 32 = 0 then 1 else (seq + 1) % 2 ^ 32))) ∧
    (let first : Nat := match (s.die die).lastTaken with | some x => x + 1 | none => 0
      let offered (i : Nat) : Bool := (s.reg a).getLsbD ((first + i) % 16) && (s.die die).inbox.any fun m => m.tenant == (first + i) % 16
      ((∀ i, i < 16 → offered i = false) → exec (.lwait d a) s = .next s) ∧
      ∀ i, i < 16 → offered i = true → (∀ j, j < i → offered j = false) →
        let x := (first + i) % 16
        ∃ t m, exec (.lwait d a) s = .next t ∧ (s.die die).inbox.find? (fun m => m.tenant == x) = some m ∧
          s.RegisterResult t d ((((s.die die).tenant x).inbox + BitVec.ofNat 64 (256 * m.slot)) ||| BitVec.ofNat 64 x) 0 ∧
          (t.die die).inbox = (s.die die).inbox.erase m ∧ (t.die die).lastTaken = some x ∧ s.SameBytes t ∧ s.OthersKept t ∧
          let msg := s.home (((s.die die).tenant x).inbox.toNat + 256 * m.slot) 256
          let kind := leNat (msg.take 1)
          let body := (msg.drop 64).take 128
          let kernel := parseKernel body
          let kept := kind ∈ [2, 3, 4, 5] ∨ (kind = 1 ∧ kernel.frzs = 0 ∧ kernel.restores = false ∧ ((s.die die).tenant x).imageKey = none)
          (kept → (t.die die).taken = (s.die die).taken ++ [{ tenant := x, msg := msg, record := if kind = 1 then body else [] }] ∧
            (t.die die).events = (s.die die).events) ∧
          (kind ∉ [1, 2, 3, 4, 5] → (t.die die).taken = (s.die die).taken ∧ s.Sent t die x 0x86 (BitVec.ofNat 32 (leNat ((msg.drop 4).take 4))) (leBytes 6 8)))

/-- 19 R360, R361, R366, 10 R226, R227, 04 R102: tlbinv drops the TLB entries of its die that match, once no access that used one is on its
way; vpart closes the groups that it changes while one of them runs a strip, then writes the group map and returns the
old; a failed fetch traps its own cause, or waits on a link; halt, once every earlier effect is done, frees handles, nodes and what the context held of its core,
and ends its launch with the last context (moved on, where a context was frozen alone).
That halt drops the loads that handles still reach is the model's reading (assumption log 15, DEDUCED). -/
def Obligations.MaintenanceInstructions : Prop :=
  (∀ (s : State) (a b : SReg), (s.me.nurse = true ∨ s.me.a.csr.sup = true) → s.readable [a, b] →
    let w := s.reg b
    let tenant : Nat := if s.me.nurse then (if w.getLsbD 8 then 16 else w.toNat % 16) else s.me.a.csr.tenant
    let gone (e : TlbEntry) : Bool := e.tenant == tenant && (w.getLsbD 4 || e.va / 2 ^ e.bits == (s.reg a).toNat / 2 ^ e.bits)
    s.tlbBlocker s.me.die tenant ((s.dieTlbs s.me.die).filter gone) = none →
    ∃ t, exec (.tlbinv a b) s = .next t ∧ s.Advanced t ∧ s.SameBytes t ∧ s.OthersKept t ∧
      t.me.a = { s.me.a with pc := t.me.a.pc, rep := t.me.a.rep, csr := { s.me.a.csr with repc := t.me.a.csr.repc } } ∧
      (t.die s.me.die).tlb = (s.die s.me.die).tlb.filter (fun e => !gone e) ∧
      ∀ k, t.core k = if k / 144 = s.me.die then { s.core k with tlb := (s.core k).tlb.filter fun e => !gone e } else s.core k) ∧
  (∀ (s : State) (d a : SReg), s.me.nurse = false → s.readable [a] →
    let x := (s.reg a).toNat
    let old := (s.core s.me.core).pmap.toNat
    let asked (j : Nat) : Nat := x / 16 ^ j % 16
    let now (j : Nat) : Nat := if asked j = 14 then old / 16 ^ j % 16 else asked j
    let bad : Prop := 2 ^ 32 ≤ x ∨ (∃ j, j < 8 ∧ 4 ≤ asked j ∧ asked j ≤ 13) ∨ ∃ p, p < 4 ∧ ∀ j, j < 8 → now j ≠ p ∧ now j ≠ 15
    (bad → s.TrapsNow → s.Traps (.vpart d a) 0x01 0 false) ∧
    let changed (j : Nat) : Prop := j < 8 ∧ now j ≠ old / 16 ^ j % 16
    (¬bad → s.me.busy = false → (∃ g ∈ s.busyGroups s.me.core, changed g) →
      ∃ t, exec (.vpart d a) s = .next t ∧ t.me.a = s.me.a ∧ t.cores = s.cores ∧ s.OthersKept t ∧ ∀ j, j ∈ t.me.closed ↔ changed j) ∧
    (¬bad → s.me.busy = false → (∀ g ∈ s.busyGroups s.me.core, ¬changed g) →
      ∃ t, exec (.vpart d a) s = .next t ∧ s.RegisterResult t d (BitVec.ofNat 64 old) 0 ∧ s.SameBytes t ∧ s.OthersKept t ∧
        t.me.closed = [] ∧ (∀ j, j < 8 → (t.core s.me.core).pmap.toNat / 16 ^ j % 16 = now j) ∧ ∀ k, k ≠ s.me.core → t.core k = s.core k)) ∧
  (∀ (s : State) (f : Cause), s.TrapsNow →
    (s.lookup s.me s.me.a.ipc.toNat .fetch = .fault f → f ≠ .poison → s.Traps .fetchFault f.code s.me.a.ipc false) ∧
    (∀ a b, s.lookup s.me s.me.a.ipc.toNat .fetch = .waits a b →
      exec .fetchFault s = .next { s with me := { s.me with wait := .link (BitVec.ofNat 2 a) (BitVec.ofNat 2 b) s.me.a.ipc false } }) ∧
    ∀ x, s.lookup s.me s.me.a.ipc.toNat .fetch = .ok x → s.homePoison x.pa 4 = true →
      s.Traps .fetchFault 0x08 (BitVec.ofNat 64 (s.me.a.ipc.toNat / 8 * 8)) false) ∧
  (∀ (s : State), s.me.nurse = true →
    exec .halt s = .next { s with me := { s.me with state := .halted, issueNo := s.me.issueNo + 1 } }) ∧
  ∀ (s : State), s.Clear → s.WritesDone →
    ∃ t, exec .halt s = .next t ∧ t.me.state = .halted ∧ t.me.a.vh = [] ∧ t.me.a.kh = [] ∧ t.me.a.brood = [] ∧ t.me.a.regs = s.me.a.regs ∧
      s.SameBytes t ∧ s.OthersKept t ∧ (t.core s.me.core).binds = ((s.core s.me.core).binds.filter fun x => decide (x.ctx ≠ s.me.id)) ∧
      (t.core s.me.core).combOwner ≠ some s.me.pos ∧ (∀ b, b < 16 → field (t.core s.me.core).cbown (3 * b) 3 ≠ 4 + s.me.pos) ∧
      (∀ j, j < 2 → field (t.core s.me.core).cvown (3 * j) 3 ≠ 4 + s.me.pos) ∧
      (∀ k, k ≠ s.me.core → t.core k = s.core k) ∧
      ∀ l, (s.die s.me.die).launch? s.me.launch = some l → l.state = .placed → (∀ id ∈ l.ctxs, id ≠ s.me.id → (s.ctx id).state = .halted) →
        (t.die s.me.die).launch? s.me.launch = some { l with state := if l.ctxs.length = l.members.length then .ended else .moved }


/-! ## Happenings of a core (02 R43, 10 R242, 12 R278 to R281, 15 R340, 19 R365, R373) -/

/-- 12 R278, R279, R281, 21 R401: a step of handle operands whose pass is done adds K products to every element of the leading MVL rows and columns of its
tile, combi exactly, comba and combs through the model's combUpdate (Units.lean), and no other
element changes; with the gate shut it does not commit. 02 R43: with a full
brood table and no pass due, a pass that materialises the oldest live node is queued; with a free entry nothing happens.
That a closed gate keeps a step from its commit is the model's reading (assumption log 75, DEDUCED). -/
def Obligations.CombStepsAndFullTables : Prop :=
  (∀ (s : State) (c : CtxId) (r : Run) (p : Pend) (n : Nat) (e : Entry) (as bs : List (List Nat)),
    c.toNat = s.me.id → s.me.run = some r → r.done = true → r.items = [p] → r.slots = [(n, e)] → p.assigned = [] →
    e.a.streamReg = none → e.b.streamReg = none → e.b.bank = none → p.before.csr.mprog = 0 → e.dst2 ≤ 64 → s.me.held = [] →
    partGet e r.parts n = .operands as bs →
    (∃ acc x y v, e.op ∈ [Instr.comba v acc x y, .combs v acc x y, .combi acc x y]) →
    (s.gateShut s.me.core = true → ∃ t, exec (.combStepCommit c) s = .next t ∧ t.cores = s.cores ∧ t.me = s.me) ∧
    (s.gateShut s.me.core = false →
      let k := combRank e.fmt
      let tile (t : State) (a i j : Nat) : Nat := (Sparse.get 0 (t.core s.me.core).tiles (4096 * a + 64 * i + j)).toNat
      ∃ t, exec (.combStepCommit c) s = .next t ∧ t.me.run = none ∧ t.me.a.regs = s.me.a.regs ∧ t.me.a.pc = s.me.a.pc ∧ t.mem = s.mem ∧
        broodEntry t.me.a.brood p.entry = none ∧ s.OthersKept t ∧
        (∀ a i j, i < 64 → j < 64 → ¬(a = e.dst ∧ i < e.dst2 ∧ j < e.dst2) → tile t a i j = tile s a i j) ∧
        ∀ i j, i < e.dst2 → j < e.dst2 →
          let old := tile s e.dst i j
          (∀ acc x y, e.op = .combi acc x y → e.sat = false →
            let u (l : List (List Nat)) (q : Nat) : Int := ((l.flatten[q]?).map (intOf e.fmt)).getD 0
            as.flatten.length = e.dst2 * k → bs.flatten.length = e.dst2 * k →
            tile t e.dst i j =
              (BitVec.ofInt 32 ((BitVec.ofNat 32 old).toInt + ((List.range k).map fun q => u as (i * k + q) * u bs (j * k + q)).sum)).toNat) ∧
          (∀ v acc x y, e.op = .comba v acc x y ∨ e.op = .combs v acc x y →
            let vals (l : List (List Nat)) : List FV := l.flatMap fun z => combValues e.fmt false z
            tile t e.dst i j = (combUpdate (e.op == .combs v acc x y) old
              (List.zip (((vals as).drop (i * k)).take k) (((vals bs).drop (j * k)).take k))).1 % 2 ^ 32))) ∧
  ∀ (s : State) (c : CtxId), c.toNat = s.me.id → s.me.state = .running → s.me.wait = .none →
    (s.me.a.freeEntry ≠ none → exec (.implicitMaterialisation c) s = .next s) ∧
    (s.me.a.freeEntry = none → s.me.busy = false → s.me.resume = none → ∀ n ns sts r,
      s.me.a.oldestFirst ((s.me.a.brood.filter fun e => e.2.kind != .sink).map fun e => e.1) = n :: ns → s.me.a.inOrder.stagesFor [n] = some (sts, r) →
      ∃ t p, exec (.implicitMaterialisation c) s = .next t ∧ t.me.pend = [p] ∧ p.implicit = true ∧ p.stages = sts ∧ p.resync = true ∧
        t.me.a.pc = s.me.a.pc ∧ t.me.a.regs = s.me.a.regs ∧ t.mem = s.mem ∧ s.OthersKept t)

/-- 19 R373: a wfe ends on its event or its line, or after its time, and clears the event; a yield ends. 15 R340: a mesh flit sent again is
logged and changes nothing else; a failed mesh link is remembered and logged, and the nurse notified. 19 R365: a completed walk sets A, and D for a write, in its entry, and enters the TLBs.
How a report names its place is the model's choice (assumption log 56, DESIGN CHOICE). -/
def Obligations.WaitsAndWalksComplete : Prop :=
  (∀ (s : State) (c : CtxId) (line : Option Nat) (woken : Bool), (s.ctx c.toNat).wait = .wfe line woken →
    let on (x : Ctx) : Ctx := { x.goesOn with event := false }
    s.TurnsCtx (.wfeTimeout c) c.toNat on ∧
    ((woken = true ∨ (s.ctx c.toNat).event = true) → s.TurnsCtx (.wfeWake c) c.toNat on) ∧
    (woken = false → (s.ctx c.toNat).event = false → s.TurnsCtx (.wfeWake c) c.toNat id)) ∧
  (∀ (s : State) (c : CtxId) (b : Bool), (s.ctx c.toNat).wait = .yield b → s.TurnsCtx (.yieldComplete c) c.toNat Ctx.goesOn) ∧
  (∀ (s : State) (core : CoreId) (dir : BitVec 2),
    let d := core.toNat / 144
    let q := core.toNat / 4
    (s.die d).trslots = 0 →
      (∃ t, exec (.meshFlitResend core dir) s = .next t ∧ t = { s with pkg := { s.pkg with reports := t.pkg.reports } } ∧
        s.Reported t .meshFlit d q 0 [core.toNat, dir.toNat]) ∧
      ∃ t, exec (.meshLinkFail core dir) s = .next t ∧ t.mem = s.mem ∧ t.me = s.me ∧ t.others = s.others ∧
        (∀ k, t.core k = if k = core.toNat then { s.core k with meshDown := (s.core k).meshDown ||| BitVec.ofNat 4 (2 ^ dir.toNat) } else s.core k) ∧
        s.Reported t .meshLink d q 0 [core.toNat, dir.toNat] ∧ (t.die d).notices.length = (s.die d).notices.length + 1) ∧
  ∀ (s : State) (c : CtxId) (va : Word) (write : Bool) (x : Xlat), (s.ctx c.toNat).state ≠ .vacant →
    s.lookup (s.ctx c.toNat) va.toNat (if write then .write else .read) = .ok x →
    let m := s.ctx c.toNat
    ∃ t, exec (.pageWalk c va write) s = .next t ∧ (∀ k, (t.ctx k).a = (s.ctx k).a) ∧
      (∀ a, Sparse.get 0 t.mem a =
        if x.found = 2 ∧ a = x.entry.pte then Sparse.get 0 s.mem a ||| (if write then 0x30 else 0x10) else Sparse.get 0 s.mem a) ∧
      (x.found = 0 → t = s) ∧
      (x.found ≠ 0 → x.entry ∈ (t.core m.core).tlb) ∧ (x.found = 2 → x.entry ∈ (t.die m.die).tlb) ∧
      ∀ k, k ≠ m.core → t.core k = s.core k

/-- 10 R242, 10 R241, 11 R247, 13 R296: a soft error of a core is logged, with the core, the context and the strip it concerns (in words of the
model's own, assumption log 11); a corrected one changes nothing else; an uncorrectable word of lane-private
SRAM, a bank or an accumulator is poisoned; a bad line leaves the data cache; a strip runs again once, to the same values, and a second error stops it with POISON;
an error in held effects drops them from the oldest on, the nurse is notified, and the context returns to that instruction with a soft error to take. -/
def Obligations.CoreSoftErrors : Prop :=
  ∀ (s : State) (core : CoreId),
    let k := core.toNat
    let who (e : CoreError) : Nat := match s.errorContext k e with | some c => c.id | none => 0xFFFF
    let told (t : State) (e : CoreError) (strip : Nat) : Prop := s.Reported t .coreError (k / 144) k 0 [k, who e, strip] ∧ t.mem = s.mem
    (s.die (k / 144)).trslots = 0 →
    (∀ l o, let e : CoreError := .lanePrivateCorrected l o
      ∃ t, exec (.coreParityError core e) s = .next t ∧ told t e 0xFFFF ∧ t.cores = s.cores ∧ t.me = s.me) ∧
    (∀ l o, let e : CoreError := .lanePrivateLost l o
      ∃ t, exec (.coreParityError core e) s = .next t ∧ told t e 0xFFFF ∧ t.me = s.me ∧
        ∀ w, w ∈ (t.core k).lprivPoison ↔ w ∈ (s.core k).lprivPoison ∨ w = (16384 * l.toNat + o.toNat) / 8) ∧
    (∀ b w, let e : CoreError := .bankLost b w
      ∃ t, exec (.coreParityError core e) s = .next t ∧ told t e 0xFFFF ∧ t.me = s.me ∧
        ∀ c i, (Sparse.get Bank.reset (t.core k).banks c).poison.getLsbD i =
          ((Sparse.get Bank.reset (s.core k).banks c).poison.getLsbD i || (decide (c = b.toNat) && decide (i = w.toNat)))) ∧
    (∀ j p, let e : CoreError := .covLost j p
      ∃ t, exec (.coreParityError core e) s = .next t ∧ told t e 0xFFFF ∧ t.me = s.me ∧
        ∀ i q, q ∈ (Sparse.get Cov.reset (t.core k).covs i).poison ↔
          q ∈ (Sparse.get Cov.reset (s.core k).covs i).poison ∨ (i = j.toNat ∧ q = p.toNat)) ∧
    (∀ n : Word, let e : CoreError := .cacheLine n
      ∃ t, exec (.coreParityError core e) s = .next t ∧ told t e 0xFFFF ∧ t.me = s.me ∧
        (t.core k).cache = (s.core k).cache.filter fun l => decide (l.num ≠ n.toNat)) ∧
    (∀ (g : BitVec 3) (r : Run) (st : Strip), s.onGroup k g.toNat = some s.me → s.me.run = some r → r.strips = [st] → st.group = g.toNat →
      st.finished = false →
      ∃ t q u, exec (.coreParityError core (.strip g)) s = .next t ∧ s.Reported t .coreError (k / 144) k 0 [k, s.me.id, st.num] ∧ t.mem = s.mem ∧
        t.me.run = some q ∧ q.strips = [u] ∧ t.me.a = s.me.a ∧
        (st.rerun = true → u.outs = [] ∧ ∃ ev, u.event = some ev ∧ ev.cause = .poison ∧ ev.va = 0) ∧
        (st.rerun = false → u = { st with rerun := true })) ∧
    ∀ (pos : BitVec 2) (h : Held) (hs : List Held),
      let id := ctxidOf k pos.toNat
      (s.ctx id).state = .running → (s.ctx id).run = none → (s.ctx id).held = h :: hs → (s.ctx id).pend = [] →
      (∀ x ∈ hs, h.no ≤ x.no) →
      ∃ t, exec (.coreParityError core (.held pos)) s = .next t ∧ s.Reported t .coreError (k / 144) k 0 [k, id, 0xFFFF] ∧ t.mem = s.mem ∧
        (t.ctx id).a = { h.before with rep := none } ∧ (t.ctx id).held = [] ∧ (t.ctx id).pend = [] ∧ (t.ctx id).softError = some 0 ∧
        (t.ctx id).wait = .none ∧ (t.ctx id).ahead = [] ∧ (t.die (k / 144)).notices.length = (s.die (k / 144)).notices.length + 1 ∧ s.OnlyContexts t [id]


/-! ## The die (19 R353 to R361, R383, 22 R416, R429, R432) -/

/-- 22 R416, R432, 19 R353, R354, R383: TENANT_CREATE makes a tenant, with one image key or none, on the dies named where no other has its quads (15
R315); a record's field is written, QUADS and VALID only where no other tenant has the quad, KEYSLOT only where none has the slot; TENANT_TEARDOWN
stops the tenant's launches, drops its TLB entries, transfers and requests, clears its slices and destroys its keys; a good BOOT ends the reset and
starts the nurse core, a bad one is reported; NURSE_FAILURE ends every launch of the die with POISON, and changes no other die (that the launches of
its groups on other dies go on is the model's reading, assumption log 102). Keys are free words, where the nurse core starts and its table stands are
free words, and a QUADS mask with another tenant's quad is not written: the model's choices (assumption logs 35, 36 and 55, DESIGN CHOICE), as are the
slot that a key gets (log 35), the place 0 in the reports of a boot that fails and of a lost die (log 56, DESIGN CHOICE), and the registers of a nurse
core that read 0 after BOOT (log 1, DESIGN CHOICE). -/
def Obligations.TenantsAndDies : Prop :=
  (∀ (s : State) (x : TenantId) (dies : BitVec 4),
    ∃ t, exec (.tenantCreate x dies) s = .next t ∧ t.mem = s.mem ∧ t.me = s.me ∧ t.others = s.others ∧ t.cores = s.cores ∧
      let made (d y : Nat) : Prop := y = x.toNat ∧ d < 4 ∧ dies.getLsbD d = true ∧ ((s.die d).tenant y).valid = false ∧
        ∀ z, z < 16 → z ≠ y → ((s.die d).tenant z).valid = true → ((s.die d).tenant z).quads &&& ((s.die d).tenant y).quads = 0
      (∀ d y, made d y → (t.die d).tenant y = { (s.die d).tenant y with
        valid := true, images := [], keyslot := ((t.die d).tenant y).keyslot, key := ((t.die d).tenant y).key, tss := ((t.die d).tenant y).tss,
        imageKey := ((t.die d).tenant y).imageKey }) ∧
      (∀ d e y, made d y → made e y → ((t.die d).tenant y).imageKey = ((t.die e).tenant y).imageKey) ∧
      ∀ d y, ¬made d y → (t.die d).tenant y = (s.die d).tenant y) ∧
  (∀ (s : State) (die : DieId) (x : TenantId) (f : TenantField) (v : Word),
    let d := die.toNat
    let old := (s.die d).tenant x.toNat
    let m := v.toNat % 2 ^ 36
    let other (p : Tenant → Prop) : Prop := ∃ y, y < 16 ∧ y ≠ x.toNat ∧ ((s.die d).tenant y).valid = true ∧ p ((s.die d).tenant y)
    let barred : Prop := (f = .quads ∧ other fun y => (y.quads.toNat &&& m) ≠ 0) ∨
      (f = .valid ∧ v.getLsbD 0 = true ∧ other fun y => (y.quads.toNat &&& old.quads.toNat) ≠ 0) ∨ (f = .keyslot ∧ other fun y => y.keyslot = v)
    (barred → exec (.tenantRecordWrite die x f v) s = .next s) ∧
    (¬barred →
      ∃ t, exec (.tenantRecordWrite die x f v) s = .next t ∧ s.TenantsKept t d x.toNat ∧ t.mem = s.mem ∧ t.me = s.me ∧ t.others = s.others ∧
        (t.die d).tenant x.toNat = match f with
          | .valid => if v.getLsbD 0 then
              { old with valid := true, keyslot := ((t.die d).tenant x.toNat).keyslot, key := ((t.die d).tenant x.toNat).key }
            else { old with valid := false }
          | .quads => { old with quads := BitVec.ofNat 64 m }
          | .ptroot => { old with ptroot := v }
          | .sidebase16 => { old with side16 := v }
          | .sidebase32 => { old with side32 := v }
          | .sidebase64 => { old with side64 := v }
          | .keyslot => { old with keyslot := v }
          | .inbox => { old with inbox := v }
          | .events => { old with events := v }
          | .dirtyb => { old with dirtyb := v })) ∧
  (∀ (s : State) (die : DieId) (x : TenantId),
    let d := die.toNat
    let owns (q : Nat) : Prop := q < 36 ∧ ((s.die d).tenant x.toNat).quads.getLsbD q = true
    let slice (q a : Nat) : Prop := 0x3000000000 + d * 0x40000000 + q * 0x1000000 ≤ a ∧ a < 0x3000000000 + d * 0x40000000 + (q + 1) * 0x1000000
    ∃ t, exec (.tenantTeardown die x) s = .next t ∧
      (t.die d).tenant x.toNat = { (s.die d).tenant x.toNat with keyslot := 0, key := 0, tss := 0, valid := false } ∧ s.TenantsKept t d x.toNat ∧
      (∀ l ∈ (t.die d).launches, l.tenant = x.toNat → l.state = .done) ∧
      (∀ l ∈ (s.die d).launches, l.tenant = x.toNat → l.state = .placed → ∀ id ∈ l.ctxs, (t.ctx id).state = .stopped) ∧
      (∀ y ∈ t.transfers, ¬(y.quad / 36 = d ∧ y.tenant = x.toNat)) ∧ (∀ r ∈ (t.die d).requests, r.tenant ≠ x.toNat) ∧
      (∀ e ∈ (t.die d).tlb, e.tenant ≠ x.toNat) ∧ (∀ k, k / 144 = d → ∀ e ∈ (t.core k).tlb, e.tenant ≠ x.toNat) ∧
      ∀ q, owns q → ∀ a, slice q a → Sparse.get 0 t.mem a = 0 ∧ Sparse.get 0 t.keys (a / 64) = 0 ∧ a / 8 ∉ t.poison) ∧
  (∀ (s : State) (die : DieId) (ok : Bool),
    let d := die.toNat
    ((s.die d).inReset = false → exec (.boot die ok) s = .next s) ∧
    ((s.die d).inReset = true → ok = true →
      ∃ t, exec (.boot die ok) s = .next t ∧ t.mem = s.mem ∧ s.OnlyContexts t [4096 + d] ∧
        t.ctx (4096 + d) = { Ctx.vacant (4096 + d) with
          state := .running, a := { (Ctx.vacant (4096 + d)).a with pc := (t.ctx (4096 + d)).a.pc } } ∧
        t.die d = { s.die d with inReset := false, lost := false, topClock := 3600, clock := 3600, fwRoot := (t.die d).fwRoot, firmware := (t.die d).firmware }) ∧
    ((s.die d).inReset = true → ok = false →
      ∃ t, exec (.boot die ok) s = .next t ∧ s.Reported t .bootFailed d 0 0 [] ∧ t.dies = s.dies ∧ t.me = s.me ∧ t.others = s.others ∧ t.mem = s.mem)) ∧
  ∀ (s : State) (die : DieId),
    let d := die.toNat
    ((s.die d).lost = true → exec (.nurseFailure die) s = .next s) ∧
    ((s.die d).lost = false →
      ∃ t, exec (.nurseFailure die) s = .next t ∧ (t.die d).lost = true ∧ (t.ctx (4096 + d)).state ≠ .running ∧
        s.Reported t .dieLost d 0 0 [] ∧ (∀ e, e ≠ d → t.die e = s.die e) ∧
        ∀ n l, (s.die d).launch? n = some l → (l.state = .waiting ∨ l.state = .placed ∨ l.state = .frozen) →
          (∃ m f, (t.die d).launch? n = some m ∧ m.state = .ended ∧ m.fault = some f ∧ f.status = 1 ∧ f.cause = 0x08) ∧
          (l.state = .placed → ∀ id ∈ l.ctxs, (t.ctx id).state ≠ .running))

/-- 19 R358, R359, R361, 01 R38, 22 R429: LAUNCH_PLACE places the head of the queue, of the highest priority, where it fits: each context at ENTRY
with its argument, index and size; COMPLETE sends the record of an ended launch once it has drained; FREEZE, taken by the firmware, answers NAK 8 for
no such launch, NAK 2 without slots, and otherwise frees every context, waits for the launch's transfers and writes to other packages, and tells the
lengths. New launches, and contexts with nothing pending. The layout of the bodies beyond the named fields, and NAK 2 for a buffer that cannot be
written, are the model's choices (assumption logs 57 and 67, DESIGN CHOICE), and so is that the firmware acts on a FREEZE that lwait has taken, out of
Die.taken (log 58, DESIGN CHOICE). -/
def Obligations.LaunchesAreServed : Prop :=
  (∀ (s : State) (die : DieId) (h : Launch) (rest : List Launch),
    let d := die.toNat
    ((s.die d).queue = [] → exec (.launchPlace die) s = .next s) ∧
    ((s.die d).queue = h :: rest →
      (h.state = .waiting ∨ h.state = .frozen) ∧
      (∀ l ∈ (s.die d).launches, (l.state = .waiting ∨ l.state = .frozen) → l.tenant < 16 → l.kernel.prio ≤ 3 → l.kernel.prio ≤ h.kernel.prio) ∧
      ∀ plan, s.placement [] d h = some plan → h.images = [] → h.kernel.restores = false → h.state = .waiting →
        (plan.map fun x => x.1).Nodup →
        ∃ t l, exec (.launchPlace die) s = .next t ∧ (t.die d).launch? h.seq = some l ∧ l.state = .placed ∧ l.ctxs = (plan.map fun x => x.1) ∧
          l.members = (plan.map fun x => x.1) ∧
          ∀ x ∈ plan,
            let c := t.ctx x.1
            let k := h.kernel
            c.state = .running ∧ c.launch = h.seq ∧ c.index = x.2.index ∧ c.lpriv = k.lpriv ∧ c.a.pc = k.entry ∧ c.a.reg 1 = k.argp ∧
              c.a.reg 2 = BitVec.ofNat 64 x.2.index ∧ c.a.reg 3 = BitVec.ofNat 64 (k.quads.length * 4 * k.ctx) ∧
              (∀ n : SReg, 4 ≤ n.toNat → c.a.reg n = 0) ∧ c.a.vh = [] ∧ c.a.kh = [] ∧ c.a.brood = [] ∧
              c.a.csr.cellbase = k.cellb + BitVec.ofNat 64 x.2.index * k.cells ∧ c.a.csr.celllim = k.cells ∧
              c.a.csr.status = BitVec.ofNat 64 (256 * h.tenant + 65536 * k.prio) ∧ c.pend = [] ∧ c.held = [] ∧ c.wait = .none)) ∧
  (∀ (s : State) (die : DieId) (seq : Word32) (l : Launch),
    let d := die.toNat
    (s.die d).launch? seq.toNat = some l →
    ((l.state ≠ .ended ∨ s.launchDrains d l.seq = true) → exec (.complete die seq) s = .next s) ∧
    (l.state = .ended → s.launchDrains d l.seq = false →
      ∃ t body, exec (.complete die seq) s = .next t ∧ (t.die d).launch? seq.toNat = some { l with state := .done } ∧
        s.Sent t d l.tenant 0x81 0 body ∧ body.length = 64 ∧ t.mem = s.mem ∧ t.me = s.me ∧ t.others = s.others ∧
        wordAt body 0 = l.kernel.tag ∧ numAt body 8 4 = seq.toNat ∧ numAt body 13 1 = d ∧
        (l.fault = none → numAt body 12 1 = (if l.rserr = 0 then 0 else 2)) ∧
        (∀ f, l.fault = some f → numAt body 12 1 = f.status % 256 ∧ wordAt body 24 = f.epc ∧ wordAt body 32 = f.faultva) ∧
        numAt body 60 4 = min l.rserr (2 ^ 32 - 1))) ∧
  ∀ (s : State) (die : DieId) (x : TenantId) (msg : List Byte), s.acting die.toNat x.toNat 3 msg = true →
    let d := die.toNat
    let found := (s.die d).launches.find? fun l => l.seq == leNat ((msg.drop 8).take 8) && l.tenant == x.toNat
    let hseq := BitVec.ofNat 32 (leNat ((msg.drop 4).take 4))
    let acted (t : State) : Prop := (t.die d).taken = (s.die d).taken.eraseP fun m => m.tenant == x.toNat && m.msg == msg
    let refused (code : Nat) : Prop :=
      ∃ t, exec (.freezeMessage die x msg) s = .next t ∧ s.Sent t d x.toNat 0x86 hseq (leBytes code 8) ∧ acted t ∧ t.mem = s.mem ∧ t.me = s.me
    let frozen (t : State) (l : Launch) (ns : List Nat) : Prop :=
      s.Sent t d x.toNat 0x84 hseq (leBytes l.seq 4 ++ leBytes ns.length 4 ++ ns.flatMap fun n => leBytes n 8) ∧ acted t
    (found = none → refused 8) ∧
    ∀ l, found = some l →
      (∀ h ns, l.freezing = some (h, ns) →
        (h ≠ hseq → refused 8) ∧ (h = hseq → s.launchDrains d l.seq = true → exec (.freezeMessage die x msg) s = .next s) ∧
        (h = hseq → s.launchDrains d l.seq = false → ∃ t, exec (.freezeMessage die x msg) s = .next t ∧ frozen t l ns ∧ t.mem = s.mem ∧ t.me = s.me)) ∧
      (l.freezing = none → l.state ≠ .placed → refused 8) ∧
      (l.freezing = none → l.state = .placed → l.kernel.frzs = 0 → refused 2) ∧
      (l.freezing = none → l.state = .placed → l.kernel.frzs ≠ 0 → (s.runningOf l).Nodup →
        (∀ id ∈ s.runningOf l, id < 4096 ∧ id / 1024 = d ∧ (s.ctx id).launch = l.seq ∧ s.freezable id ∧
          ∃ pa, s.contiguous (tenantAgent d x.toNat) (leNat ((msg.drop 16).take 8) + l.kernel.frzs * (s.ctx id).index) l.kernel.frzs = some pa ∧
            pa % 64 = 0) →
        ∃ (t : State) (ns : List Nat) (m : Launch), exec (.freezeMessage die x msg) s = .next t ∧ (∀ id ∈ s.runningOf l, t.ctx id = Ctx.vacant id) ∧
          ns.length = (s.runningOf l).length ∧ (t.die d).launch? l.seq = some m ∧ m.state = .moved ∧ m.ctxs = [] ∧
          (s.launchDrains d l.seq = false → frozen t l ns ∧ m.freezing = none) ∧
          (s.launchDrains d l.seq = true → (t.die d).events = (s.die d).events ∧ (t.die d).taken = (s.die d).taken ∧ m.freezing = some (hseq, ns)))

/-- 19 R379, R378, 01 R37: LAUNCH_PLACE of a launch with snapshots restores each context: it runs under the new launch at its index, and every scalar
register with its dead bit, PC, the sequence counter and the CSRs hold what the snapshot's sections say, CTXID, TENANT and PRIO being those of the placement
(01 R37). Said of snapshots of contexts without a stopped pass.
19 R359, R377: where the head of the queue does not fit, and the contexts in its way belong to launches of lower priority with slots, those are
frozen whole, each context into slot FRZB + FRZS times its index, and wait again at their own priority, and the head is placed; else the head waits, and only a
launch that shares no quad with it is placed. Said of one launch in the way, whose contexts have nothing pending.
That reserved bits of a saved CSR are not received is the model's reading of 00 R7. -/
def Obligations.RestoresAndPriorityFreeze : Prop :=
  (∀ (s : State) (die : DieId) (h : Launch) (rest : List Launch) (plan : List (Nat × Seat)),
    let d := die.toNat
    (s.die d).queue = h :: rest → s.placement [] d h = some plan → (plan.map fun x => x.1).Nodup → h.tenant < 16 → h.kernel.prio < 4 →
    ∃ t, exec (.launchPlace die) s = .next t ∧
      ∀ x ∈ plan, ∀ pa, x.2.image = some pa → x.1 < 4096 →
        let secs := parseSections (s.snapshotAt h.tenant pa)
        let ctx := sectionOf secs 1
        let saved (k : Nat) : Word := wordAt ctx (16 + 8 * k)
        let c := t.ctx x.1
        (saved 4).getLsbD 31 = false →
        c.state = .running ∧ c.launch = h.seq ∧ c.index = x.2.index ∧ c.a.pc = wordAt ctx 0 ∧ c.a.seq = BitVec.ofNat 32 (numAt ctx 8 8) ∧
          (∀ p, p < 512 → Sparse.get 0 c.a.regs p = wordAt (sectionOf secs 2) (8 * p)) ∧
          c.a.dead = BitVec.ofNat 512 (numAt (sectionOf secs 2) 4096 64) ∧
          c.a.csr.status = BitVec.ofNat 64 (256 * h.tenant + 65536 * h.kernel.prio + (saved 27).toNat % 4) ∧
          (∀ k e, csrMap[k]? = some e → e.1 ∉ [0x050, 0x100] → e.2.2.1 c.a.csr = saved k &&& e.2.2.2) ∧
          c.pend = [] ∧ c.run = none ∧ c.stopped = none ∧ c.held = [] ∧ c.wait = .none) ∧
  ∀ (s : State) (die : DieId) (h : Launch) (rest : List Launch),
    let d := die.toNat
    (s.die d).queue = h :: rest → s.placement [] d h = none →
    (∀ v ∈ s.victims d h, v.state = .placed ∧ v.kernel.prio < h.kernel.prio ∧ v.kernel.frzs ≠ 0) ∧
    (∀ v, s.victims d h = [v] → (s.placement v.ctxs d h).isSome = true → (s.die d).launch? v.seq = some v → (s.die d).launch? h.seq = some h → v.images = [] →
      h.seq ≠ v.seq → (s.runningOf v).Nodup → (∀ id ∈ s.runningOf v, id < 4096 ∧ id / 1024 = d ∧ (s.ctx id).launch = v.seq ∧ s.freezable id) →
      let slot (i : Nat) : Nat := v.kernel.frzb.toNat + v.kernel.frzs * i
      (∀ u ns, s.freezeLaunch d v slot .frozen = some (u, ns) → (u.placement [] d h).isSome = true) →
      ∃ t m l, exec (.launchPlace die) s = .next t ∧ (t.die d).launch? v.seq = some m ∧ m.state = .frozen ∧ m.ctxs = [] ∧ m.kernel = v.kernel ∧
        m.images = (s.runningOf v).map (fun id => slot (s.ctx id).index) ∧ (t.die d).launch? h.seq = some l ∧ l.state = .placed) ∧
    (s.victims d h = [] ∨ s.placement ((s.victims d h).flatMap fun v => v.ctxs) d h = none →
      ∃ t, exec (.launchPlace die) s = .next t ∧
        ∀ l ∈ (t.die d).launches, l.state = .placed → l ∉ (s.die d).launches → ∃ k ∈ rest, k.seq = l.seq ∧ ∀ q ∈ k.kernel.quads, q ∉ h.kernel.quads)


/-! ## The fabric (22 R417 to R433, 19 R367) -/

/-- 22 R417, R418, R429, R432, 19 R367, R380: a message to no endpoint, or that the firmware has not taken, does nothing; LAUNCH_MESSAGE lands in the
lowest free inbox slot, or is dropped with NAK 7; ANSWER wakes who asked on RESUME, after the TLBs have dropped its page, ends the launch on FATAL,
and gets NAK 8 for no such request; DIRTY copies the bitmap into the buffer and clears it; ATTEST reports nonce, package, firmware digest, tenant and
image digests. The DIRTY buffer stands in one contiguous range of whole lines. The layouts of NAK, ACCEPT and REPORT, the free digest and signature,
the inbox slot and that the firmware acts in the order of the messages taken are the model's choices (assumption logs 57, 35, 51 and 58), and so are
two more: any P1 but 0 is taken as FATAL, where R417 gives only 0 and 1 (log 59, DEDUCED), and a DIRTY buffer that does not translate, or is no memory
of this package, gets NAK 2 (log 67, DESIGN CHOICE). -/
def Obligations.HostMessages : Prop :=
  (∀ (s : State) (die : DieId) (x : TenantId) (msg : List Byte),
    let idle (kind : Nat) (i : Instr) : Prop := s.acting die.toNat x.toNat kind msg = false → exec i s = .next s
    (s.endpoint die.toNat x.toNat msg = false → exec (.launchMessage die x msg) s = .next s) ∧
    idle 2 (.answer die x msg) ∧ idle 3 (.freezeMessage die x msg) ∧ idle 4 (.attest die x msg) ∧ idle 5 (.dirty die x msg)) ∧
  ∀ (s : State) (die : DieId) (x : TenantId) (msg : List Byte), s.endpoint die.toNat x.toNat msg = true →
    let d := die.toNat
    let rec_ := (s.die d).tenant x.toNat
    let held (k : Nat) : Bool := (s.die d).inbox.any fun m => m.tenant == x.toNat && m.slot == k
    let hseq := BitVec.ofNat 32 (leNat ((msg.drop 4).take 4))
    let p0 := leNat ((msg.drop 8).take 8)
    let p1 := leNat ((msg.drop 16).take 8)
    let acted (t : State) : Prop := (t.die d).taken = (s.die d).taken.eraseP fun m => m.tenant == x.toNat && m.msg == msg
    ((∀ k, k < 64 → held k = true) →
      ∃ t, exec (.launchMessage die x msg) s = .next t ∧ s.Sent t d x.toNat 0x86 hseq (leBytes 7 8) ∧ t.mem = s.mem ∧ t.me = s.me) ∧
    (∀ k, k < 64 → held k = false → (∀ j, j < k → held j = true) →
      ∃ t, exec (.launchMessage die x msg) s = .next t ∧ (t.die d).inbox = (s.die d).inbox ++ [{ tenant := x.toNat, slot := k }] ∧
        t.home (rec_.inbox.toNat + 256 * k) 256 = msg ∧
        (∀ a, (a < rec_.inbox.toNat + 256 * k ∨ rec_.inbox.toNat + 256 * k + 256 ≤ a) → Sparse.get 0 t.mem a = Sparse.get 0 s.mem a) ∧
        (∀ id, (t.ctx id).a = (s.ctx id).a) ∧ (∀ e y, (t.die e).tenant y = (s.die e).tenant y) ∧ (t.die d).events = (s.die d).events) ∧
    (s.acting d x.toNat 2 msg = true →
      (s.requestOf d x.toNat (BitVec.ofNat 64 p0) = none →
        ∃ t, exec (.answer die x msg) s = .next t ∧ s.Sent t d x.toNat 0x86 hseq (leBytes 8 8) ∧ acted t ∧ t.mem = s.mem ∧ t.me = s.me ∧
          t.others = s.others) ∧
      ∀ r, s.requestOf d x.toNat (BitVec.ofNat 64 p0) = some r →
        let gone (e : TlbEntry) : Bool := e.tenant == x.toNat && e.va / 2 ^ e.bits == r.va.toNat / 2 ^ e.bits
        (p1 = 0 → s.tlbBlocker d x.toNat ((s.dieTlbs d).filter gone) ≠ none → exec (.answer die x msg) s = .next s) ∧
        ((p1 = 0 → s.tlbBlocker d x.toNat ((s.dieTlbs d).filter gone) = none) →
          let closed (t : State) : Prop := exec (.answer die x msg) s = .next t ∧ acted t ∧ (t.die d).requests = (s.die d).requests.erase r ∧
            (p1 = 0 → (∀ e ∈ (t.die d).tlb, gone e = false) ∧ ∀ k, k / 144 = d → ∀ e ∈ (t.core k).tlb, gone e = false)
          (∀ id v, r.from_ = .context id → (s.ctx id).launch = r.launch → (s.ctx id).state = .running → (s.ctx id).service = some v →
            v.token = r.token → v.answer = none →
            (p1 = 0 → ∃ t, closed t ∧ t.ctx id = { s.ctx id with event := true, service := some { v with answer := some true } } ∧
              s.OnlyContexts t [id] ∧ t.mem = s.mem) ∧
            (p1 ≠ 0 → ∀ l, (s.die d).launch? r.launch = some l → l.state = .placed →
              ∃ t m f, closed t ∧ (t.die d).launch? r.launch = some m ∧ m.state = .ended ∧ m.fault = some f ∧ f.status = 1 ∧
                f.cause = (s.ctx id).a.csr.cause ∧ f.epc = (s.ctx id).a.csr.epc ∧ ∀ y ∈ l.ctxs, (t.ctx y).state = .stopped)) ∧
          (∀ id uid row, r.from_ = .stream id uid row → (s.ctx id).launch = r.launch →
            ∃ t, closed t ∧ s.OnlyContexts t [id] ∧ (t.ctx id).rows = (s.ctx id).rows.map fun y =>
              if y.uid = uid ∧ y.row = row ∧ y.asked = some r.token then { y with asked := none, arrived := decide (p1 ≠ 0) } else y) ∧
          ∀ id m z, r.from_ = .transfer id → s.transfers.find? (fun y => y.id == id) = some m → m.stalled = some z → p1 = 0 →
            ∃ t, closed t ∧ t.transfers = s.transfers.map fun y => if y.id = id then { y with stalled := none } else y)) ∧
    (s.acting d x.toNat 5 msg = true →
      ((∃ p ∈ pagePieces p1 397824, ∀ y, s.translate (tenantAgent d x.toNat) p.1 .write = .ok y → inMemory y.pa = false) →
        ∃ t, exec (.dirty die x msg) s = .next t ∧ s.Sent t d x.toNat 0x86 hseq (leBytes 2 8) ∧ acted t ∧ t.mem = s.mem) ∧
      ∀ base : Nat,
        let map := rec_.dirtyb.toNat
        let n : Nat := 397824
        p1 + n ≤ 2 ^ 64 → base % 64 = 0 →
        (∀ p ∈ pagePieces p1 n, ∃ y, s.translate (tenantAgent d x.toNat) p.1 .write = .ok y ∧ y.pa = base + (p.1 - p1) ∧ inMemory y.pa = true) →
        ∃ t, exec (.dirty die x msg) s = .next t ∧ s.Sent t d x.toNat 0x87 hseq (leBytes p0 4) ∧ acted t ∧
          (∀ i, i < n → t.plain x.toNat (base + i) = Sparse.get 0 s.mem (map + i)) ∧
          (∀ a, (a < base ∨ base + n ≤ a) → Sparse.get 0 t.mem a = if map ≤ a ∧ a < map + n then 0 else Sparse.get 0 s.mem a)) ∧
    (s.acting d x.toNat 4 msg = true →
      ∃ t body, exec (.attest die x msg) s = .next t ∧ s.Sent t d x.toNat 0x85 hseq body ∧ acted t ∧ t.mem = s.mem ∧ t.me = s.me ∧
        body.length = 132 + 32 * rec_.images.length ∧ body.take 32 = (msg.drop 16).take 32 ∧ numAt body 32 2 = s.pkg.podid.toNat % 4096 ∧
        (body.drop 34).take 32 = leBytes (s.die d).firmware.toNat 32 ∧ numAt body 66 2 = x.toNat ∧ (body.drop 68).take (32 * rec_.images.length) = rec_.images.flatMap fun y => leBytes y.toNat 32)

/-- 22 R419, R420, R424: PODID, a tenant's pod entry, a grant of multiples of 64 that is not empty and a valid link graph are written, others are not. 22 R420, R422, 15 R316: a granted
write or atomic of another package performs at its home, as the tenant whose grant it is. 22 R421 to R423: an acknowledged store ends its request, a failed one counts as a store error; an
answer completes a waiting load or atomic; an error, or none in time, traps REMOTE; an offset outside the physical map, or this package's own
number without a grant, is an error whatever arrives.
What another package answers is a value of the event, when a unit's read of the window fails is free, and an ill grant is not written: the model's choices
(assumption logs 9 and 69, DESIGN CHOICE); whose bitmap a write marks is log 78 (DEDUCED). -/
def Obligations.PodWindow : Prop :=
  (∀ (s : State) (v : Word) (x : TenantId) (g : BitVec 4) (bytes : List Byte) (p : BitVec 16) (k : BitVec 6) (b n : Word) (perm : BitVec 2),
    let old := Sparse.get PodEntry.reset s.pkg.pods x.toNat
    exec (.podidWrite v) s = .next { s with pkg := { s.pkg with podid := v &&& 0x1FFF } } ∧
    (∃ t, exec (.grantWrite x (.ptid p)) s = .next t ∧ t = { s with pkg := { s.pkg with pods := t.pkg.pods } } ∧
      ∀ y, Sparse.get PodEntry.reset t.pkg.pods y = if y = x.toNat then { old with ptid := p } else Sparse.get PodEntry.reset s.pkg.pods y) ∧
    ((b.toNat % 64 ≠ 0 ∨ n.toNat % 64 ≠ 0 ∨ n = 0) → exec (.grantWrite x (.entry k b n p perm)) s = .next s) ∧
    (b.toNat % 64 = 0 → n.toNat % 64 = 0 → n ≠ 0 →
      ∃ t, exec (.grantWrite x (.entry k b n p perm)) s = .next t ∧ t = { s with pkg := { s.pkg with pods := t.pkg.pods } } ∧
        (∀ y, y ≠ x.toNat → Sparse.get PodEntry.reset t.pkg.pods y = Sparse.get PodEntry.reset s.pkg.pods y) ∧
        ∀ j, Sparse.get Grant.empty (Sparse.get PodEntry.reset t.pkg.pods x.toNat).grants j =
          if j = k.toNat then { base := b, len := n, ptid := p, perm := perm } else Sparse.get Grant.empty old.grants j) ∧
    ((g = 0 ∨ bytes.length ≠ 32 ∨ (graphByte bytes 0 ≠ 0 ∧ goodGraph bytes = false)) → exec (.linkGraphWrite x g bytes) s = .next s) ∧
    (g ≠ 0 → bytes.length = 32 → (graphByte bytes 0 = 0 ∨ goodGraph bytes = true) →
      ∃ t, exec (.linkGraphWrite x g bytes) s = .next t ∧ t = { s with pkg := { s.pkg with graphs := t.pkg.graphs } } ∧
        ∀ y, Sparse.get [] t.pkg.graphs y = if y = 16 * x.toNat + g.toNat then bytes else Sparse.get [] s.pkg.graphs y)) ∧
  (∀ (s : State) (p : BitVec 16) (off : Word) (a : PodAccess),
    let o := off.toNat
    let c (y : Nat) : Ctx := tenantAgent ((region o).die?.getD 0) y
    let kept (t : State) (y n : Nat) : Prop := (∀ id, (t.ctx id).a = (s.ctx id).a) ∧
      ∀ b, (b < o ∨ o + n ≤ b) → s.undirtied (c y) o n b → t.plain y b = s.plain y b
    ((s.pkg.podid.getLsbD 12 = false ∨ p = 0 ∨ a.size = 0) → exec (.podRequestAccept p off a) s = .next s) ∧
    ∀ y, s.granting p o a = some y →
      (∀ n, a = .read n → ∃ t, exec (.podRequestAccept p off a) s = .next t ∧ t = { s with dies := t.dies } ∧
        ∀ d, t.die d = { s.die d with traffic := (t.die d).traffic }) ∧
      (∀ data, a = .write data → s.partOfPoison o data.length = false →
        ∃ t, exec (.podRequestAccept p off a) s = .next t ∧ kept t y data.length ∧
          ∀ i, i < data.length → t.plain y (o + i) = (data[i]?).getD 0) ∧
      ∀ op wide v e, a = .atomic op wide v e →
        let n := if wide then 8 else 4
        let cut (z : Nat) : Nat := z % 2 ^ (8 * n)
        ((o % n ≠ 0 ∨ s.homePoison o n = true) → exec (.podRequestAccept p off a) s = .next s) ∧
        (o % n = 0 → s.homePoison o n = false →
          ∃ t, exec (.podRequestAccept p off a) s = .next t ∧ kept t y n ∧
            leNat (t.homeFor y o n) = cut (op.apply (8 * n) (leNat (s.homeFor y o n)) (cut v.toNat) (cut e.toNat)))) ∧
  ∀ (s : State) (req : Nat) (data : List Byte) (r : PodRequest) (ok : Bool), s.pkg.requests.find? (fun q => q.id == req) = some r →
    let left := s.pkg.requests.filter fun q => decide (q.id ≠ req)
    let ends (t : State) : Prop := exec (.podAck req ok data) s = .next t ∧ (ok = false → exec (.podTimeout req) s = .next t) ∧
      t.pkg.requests = left ∧ t.mem = s.mem
    let c := s.ctx r.ctx
    let outside : Prop := 0x3800000000 ≤ podOffset r.pa
    let barred : Prop := s.ownPackage r.pa = true ∧ s.granting r.ptid (podOffset r.pa) r.access = none
    ((outside ∨ barred) → exec (.podAck req ok data) s = exec (.podTimeout req) s) ∧
    (∀ y bs, ¬outside → s.ownPackage r.pa = true → s.granting r.ptid (podOffset r.pa) r.access = some y → r.kind = .write bs →
      ∃ t, exec (.podAck req ok data) s = .next t ∧ t.pkg.requests = left ∧
        ∀ i, i < bs.length → t.plain y (podOffset r.pa + i) = (bs[i]?).getD 0) ∧
    (¬outside → s.ownPackage r.pa = false →
      (∀ bs, r.kind = .write bs → ∃ t, ends t ∧ t.me = s.me ∧ t.others = s.others ∧
        ∀ l, (s.die r.die).launch? r.launch = some l → (t.die r.die).launch? r.launch = some { l with rserr := l.rserr + if ok then 0 else 1 }) ∧
      (c.wait = .remote req → ok = true → c.a.rep = none → ∀ (d : SReg) (sx : Bool) (b : BaseReg) (size : Nat),
        let low := leNat (data.take size)
        let top : Bool := sx && decide (128 ≤ ((data[size - 1]?).getD 0).toNat)
        let lands (v : Word) : Prop := ∃ t, ends t ∧ (t.ctx r.ctx).wait = .none ∧ (t.ctx r.ctx).a.pc = c.a.pc + 4 ∧
          (t.ctx r.ctx).a.reg d = (if d = 0 then 0 else v) ∧ (∀ p, d = 0 ∨ p ≠ c.a.phys d →
            Sparse.get 0 (t.ctx r.ctx).a.regs p = Sparse.get 0 c.a.regs p) ∧ s.OnlyContexts t [r.ctx]
        (∀ n, r.kind = .read n → size ∈ [1, 2, 4] → size ≤ data.length →
          (∃ acq off1, (size = 1 ∧ r.instr = .ldb sx acq off1 b d) ∨ (∃ off2, size = 2 ∧ r.instr = .ldh sx acq off2 b d) ∨
            ∃ off4, size = 4 ∧ r.instr = .ldw sx acq off4 b d) →
          lands (if top then BitVec.ofInt 64 ((low : Int) - 2 ^ (8 * size)) else BitVec.ofNat 64 low)) ∧
        (∀ n acq off, r.kind = .read n → r.instr = .ldd acq off b d → lands (BitVec.ofNat 64 (leNat (data.take 8)))) ∧
        ∀ x e o sc wd b2, r.kind = .atomic x e → r.instr = .amoadd o sc wd b2 b d →
          lands (BitVec.ofNat 64 (leNat (data.take (if wd then 8 else 4))))) ∧
      (c.wait = .remote req → ok = false → c.busy = false → c.a.csr.sup = false → c.nurse = false → (∀ bs, r.kind ≠ .write bs) →
        (s.die c.die).trslots = 0 →
        ∃ t, ends t ∧ (t.ctx r.ctx).wait = .none ∧ (t.ctx r.ctx).a.csr.cause = BitVec.ofNat 64 (0x15 + if r.isAtomic then 2 ^ 12 else 0) ∧
          (t.ctx r.ctx).a.csr.faultva = r.va ∧ (t.ctx r.ctx).a.csr.epc = c.a.pc ∧ (t.ctx r.ctx).a.pc = 0xFFFFFF0000000000 ∧
          (t.ctx r.ctx).a.regs = c.a.regs ∧ s.OnlyContexts t [r.ctx]))


/-! ## Links and the writes that travel (21 R387 to R391, 15 R316) -/

/-- 21 R388 to R391: what the link happenings do to one direction: a CRC error replays and changes nothing; an acknowledgement empties the retry buffer up to its
flit; returns and audits move FK up to FREED, an audit in a slot of SIDE against the direction; a count without its parity, a return above the capacity and a bad audit take
the link down; a retrain's completion exchanges the counts afresh; a lost link's slots are reclaimed. Of a return that comes late, an audit that waits for a credit and
what a count is set to beside its parity the model's own words speak (assumption logs 61, 62). -/
def Obligations.LinkFlowControl : Prop :=
  ∀ (s : State) (l : LinkDir) (ch : Channel) (seq k : Nat) (ok : Bool),
    let a := l.src.toNat
    let b := l.dst.toNat
    let x := s.link a b
    let y := s.link b a
    let c := x.channel ch
    let stops (z : Link) : Link := { z with state := if z.state = .up then .retraining else z.state }
    let knows (n : ChannelCounts) (f : Word32) : ChannelCounts := { n with fk := f, fkPar := parity f }
    let frees (z w : Link) (n : Nat) : Prop :=
      let q := z.channel .side
      z.channelBecomes w .side { q with freed := q.freed + BitVec.ofNat 32 n, freedPar := parity (q.freed + BitVec.ofNat 32 n) }
    let becomes (i : Instr) (z : Link) : Prop := ∃ t, exec i s = .next t ∧ s.LinkBecomes t l z
    exec (.linkCrcError l seq) s = .next s ∧
    becomes (.flitAcknowledgement l seq) { x with retry := x.retry.filter fun n => decide (seq < n) } ∧
    (c.sound = false → becomes (.slotReturn l ch k) (stops x) ∧ becomes (.auditSend l ch) (stops x) ∧ becomes (.auditReceive l ch ok) (stops x)) ∧
    (c.sound = true →
      let limit := match c.audit with | some f => f | none => c.freed
      (k ≤ (limit - c.fk).toNat → ∃ z, becomes (.slotReturn l ch k) z ∧ x.channelBecomes z ch (knows c (c.fk + BitVec.ofNat 32 k))) ∧
      ((limit - c.fk).toNat < k → (c.sent - c.fk).toNat < k →
        ∃ z, becomes (.slotReturn l ch k) (stops z) ∧ x.channelBecomes z ch (knows c (c.fk + BitVec.ofNat 32 k))) ∧
      ((limit - c.fk).toNat < k → k ≤ (c.sent - c.fk).toNat → exec (.slotReturn l ch k) s = .next s) ∧
      ((c.audit ≠ none ∨ s.linkUp a b = false ∨ y.maySend .side = false) → exec (.auditSend l ch) s = .next s) ∧
      (c.audit = none → exec (.auditReceive l ch ok) s = .next s) ∧
      (a ≠ b →
        (c.audit = none → s.linkUp a b = true → y.maySend .side = true →
          ∃ t z w, exec (.auditSend l ch) s = .next t ∧ s.LinksBecome t l z w ∧ x.channelBecomes z ch { c with audit := some c.freed } ∧
            let q := y.channel .side
            Link.channelBecomes { y with retry := y.retry ++ [y.nextFlit], nextFlit := y.nextFlit + 1 } w .side
              { q with sent := q.sent + 1, sentPar := parity (q.sent + 1) }) ∧
        ∀ f, c.audit = some f →
          ∃ t z w, exec (.auditReceive l ch ok) s = .next t ∧ s.LinksBecome t l (if ok then z else stops z) w ∧ frees y w 1 ∧
            x.channelBecomes z ch { (if ok then knows c f else c) with audit := none })) ∧
    becomes (.retrain l) (stops x) ∧
    (x.state = .retraining → a ≠ b →
      ∃ t z w, exec (.retrainComplete l) s = .next t ∧ s.LinksBecome t l z w ∧ z = { x with state := .up, channels := z.channels } ∧
        frees y w (([Channel.req, .rsp, .bulk, .side].filter fun e => (x.channel e).audit.isSome).length) ∧
        ∀ e, let n := x.channel e
          z.channel e = { n with fk := n.freed, audit := none, sentPar := parity n.sent, fkPar := parity n.freed, freedPar := parity n.freed }) ∧
    (x.state ≠ .retraining → exec (.retrainComplete l) s = .next s) ∧
    (x.state = .lost → ∃ z, becomes (.slotReclaim l ch) z ∧ x.channelBecomes z ch { c with reserved := 0 }) ∧
    (x.state ≠ .lost → becomes (.slotReclaim l ch) x)

/-- 15 R316, 21 R387, R391, R397, 22 R422: a write performs at its home, and sets its dirty bits, once no earlier one of its core to that home is on
the path, and its links may send; over a link under retrain it waits; for another package it becomes a request; over a lost link it is lost and its
context learns of it. A link whose retrain fails is lost in both directions, with the writes on it. Of a lost link, with no pass, row or transfer in
flight. Which flits take slots, and the place 4 * a + b in the report of a lost link, are the model's choices (assumption logs 61 and 56, DESIGN
CHOICE); what a lost link takes with it is log 62 and what becomes of a write to a lost die log 64 (DEDUCED). -/
def Obligations.WritesReachTheirHomes : Prop :=
  (∀ (s : State) (core : CoreId) (k : Nat) (w : PathWrite), (s.core core.toNat).path[k]? = some w →
    (∀ j x, j < k → (s.core core.toNat).path[j]? = some x → homeOf x.pa ≠ homeOf w.pa) →
    let c := w.agent
    let n := w.data.length
    let inRun (b : Nat) : Prop := w.pa ≤ b ∧ b < w.pa + n
    let off (t : State) : Prop := (t.core core.toNat).path = (s.core core.toNat).path.eraseIdx k
    let way := (s.route c.die ((region w.pa).die?.getD c.die)).getD []
    (∀ a b, s.reach c w.pa = .waits a b → exec (.performAtHome core k) s = .next s) ∧
    (s.reach c w.pa = .here → region w.pa ≠ .pod → (∃ h ∈ way, (s.link h.1 h.2).maySend .req = false) → exec (.performAtHome core k) s = .next s) ∧
    (s.reach c w.pa = .here → region w.pa ≠ .pod → (∀ h ∈ way, (s.link h.1 h.2).maySend .req = true) → s.partOfPoison w.pa n = false →
      ∃ t, exec (.performAtHome core k) s = .next t ∧ off t ∧ (∀ id, (t.ctx id).a = (s.ctx id).a) ∧
        (∀ i, i < n → t.readByte c (w.pa + i) = (w.data[i]?).getD 0) ∧
        (∀ b, ¬inRun b → s.undirtied c w.pa n b → t.readByte c b = s.readByte c b) ∧
        ∀ p g, inRun p → c.nurse = false → granule p = some g →
          let z := ((s.die c.die).tenant c.a.csr.tenant).dirtyb.toNat + g / 8
          (∀ b, inRun b → b / 64 ≠ z / 64) → (Sparse.get 0 t.mem z).getLsbD (g % 8) = true) ∧
    (s.reach c w.pa = .here → region w.pa = .pod → (∀ r ∈ s.pkg.requests, ¬(r.ctx = w.ctx ∧ r.launch = w.launch ∧ r.pa / 64 = w.pa / 64)) →
      ∃ t, exec (.performAtHome core k) s = .next t ∧ off t ∧ t.mem = s.mem ∧ t.me = s.me ∧ t.others = s.others ∧
        t.pkg.requests = s.pkg.requests ++
          [{ id := s.pkg.nextRequest, ctx := w.ctx, tenant := c.a.csr.tenant, ptid := s.ptid c.a.csr.tenant, die := c.die, launch := w.launch,
             va := w.va, pa := w.pa, kind := .write w.data, instr := .nop 0 }]) ∧
    (s.reach c w.pa = .here → region w.pa = .pod → (∃ r ∈ s.pkg.requests, r.ctx = w.ctx ∧ r.launch = w.launch ∧ r.pa / 64 = w.pa / 64) →
      exec (.performAtHome core k) s = .next s) ∧
    ∀ f, s.reach c w.pa = .fails f →
      ∃ t, exec (.performAtHome core k) s = .next t ∧ off t ∧ t.mem = s.mem ∧ s.OnlyContexts t [w.ctx] ∧
        (region w.pa = .pod → ∀ l, (s.die c.die).launch? w.launch = some l → (t.die c.die).launch? w.launch = some { l with rserr := l.rserr + 1 }) ∧
        (region w.pa ≠ .pod → f = .linkLost → (s.ctx w.ctx).state = .running → (s.ctx w.ctx).launch = w.launch →
          t.ctx w.ctx = { s.ctx w.ctx with lostWrite := some ((s.ctx w.ctx).lostWrite.getD w.va) })) ∧
  ∀ (s : State) (l : LinkDir),
    let a := l.src.toNat
    let b := l.dst.toNat
    let crosses (k : Nat) (w : PathWrite) : Prop :=
      let die := if k < 576 then k / 144 else k - 576
      ∃ h ∈ (s.route die ((region w.pa).die?.getD die)).getD [], h = (a, b) ∨ h = (b, a)
    (((s.link a b).state ≠ .retraining ∨ a = b) → exec (.linkLost l) s = .next s) ∧
    ((s.link a b).state = .retraining → a ≠ b → (∀ id, (s.ctx id).run = none ∧ (s.ctx id).rows = []) → s.transfers = [] →
      ∃ t, exec (.linkLost l) s = .next t ∧ (t.link a b).state = .lost ∧ (t.link b a).state = .lost ∧ s.Reported t .linkLost a (4 * a + b) 0 [] ∧
        (∀ x y, ¬(x = a ∧ y = b) → ¬(x = b ∧ y = a) → x < 4 → y < 4 → t.link x y = s.link x y) ∧ t.mem = s.mem ∧
        ∀ k, k < 580 →
          (∀ w, w ∈ (t.core k).path ↔ w ∈ (s.core k).path ∧ ¬crosses k w) ∧
          ∀ w ∈ (s.core k).path, crosses k w → (s.ctx w.ctx).state = .running → (s.ctx w.ctx).launch = w.launch → (t.ctx w.ctx).lostWrite ≠ none)


/-! ## Memory errors, power, samples and registers (19 R382, 21 R399 to R412, 11 R249, 13 R297) -/

/-- 19 R382: an uncorrectable error poisons its word, is logged and told to the driver of the tenant whose word it is; a corrected one is logged;
scrubbing changes nothing. 21 R400 to R404: one power step down or up, in the order MVLCAP, clock, gate and back, logged with the new clock, MVLCAP
and gate; a power cut, after which nothing moves; a reading of the monitors gives the plan, the lowest 5 mV step at which all 64 keep their margin at
each clock step, lowers the top clock to the fastest step that a voltage reaches, or loses the die. The place of a report, what else it says and the
form of a reading are the model's own (assumption logs 56, 11, 103, DESIGN CHOICE). Who hears of an uncorrectable word, of which R382 does not say
whose tenant it is, is log 66 (DEDUCED): the owner of the slice's quad, and in DRAM the tenant under whose key the line was written. That a planned
voltage is one of the 100 to 150 steps of 5 mV, 0.50 V to 0.75 V, is read from R399 (log 73, DEDUCED). -/
def Obligations.ErrorsAndPower : Prop :=
  (∀ (s : State) (die : DieId) (pa : Word),
    let at_ := BitVec.ofNat 64 (pa.toNat / 8 * 8)
    exec (.scrub die) s = .next s ∧
    ((region pa.toNat).die? = none → ∀ b, exec (.eccError pa b) s = .next s) ∧
    ∀ d, (region pa.toNat).die? = some d → (s.die d).trslots = 0 →
      let key := Sparse.get 0 s.keys (pa.toNat / 64)
      let owns (x : Nat) : Prop := x < 16 ∧ ((s.die d).tenant x).valid = true ∧
        ((∃ n, region pa.toNat = .sram d n ∧ ((s.die d).tenant x).quads.getLsbD (n / 4) = true) ∨
          (region pa.toNat = .dram d ∧ key ≠ 0 ∧ ((s.die d).tenant x).key = key))
      let place : Nat := match region pa.toNat with | .sram e n => 36 * e + n / 4 | _ => 0
      (∃ t, exec (.eccError pa false) s = .next t ∧ s.Reported t .memoryCorrected d place at_ [] ∧ t.mem = s.mem ∧ t.poison = s.poison) ∧
      ∃ t, exec (.eccError pa true) s = .next t ∧ s.Reported t .memoryPoisoned d place at_ [] ∧ t.mem = s.mem ∧ t.me = s.me ∧
        (∀ w, w ∈ t.poison ↔ w ∈ s.poison ∨ w = pa.toNat / 8) ∧ ((∀ x, ¬owns x) → (t.die d).events = (s.die d).events) ∧
        ∀ x, owns x → (∀ y, y < x → ¬owns y) → ∃ body, s.Sent t d x 0x83 0 body ∧ body.take 8 = leBytes (pa.toNat / 8 * 8) 8) ∧
  (∀ (s : State) (die : DieId) (riseOk : Bool),
    let d := die.toNat
    let x := s.die d
    let rested : Bool := match x.lastRise with | some u => decide (50000 ≤ (s.pkg.tick - u).toNat) | none => true
    let sets (i : Instr) (k : ReportKind) (y : Die) : Prop :=
      ∃ t, exec i s = .next t ∧ t.die d = y ∧ (∀ e, e ≠ d → t.die e = s.die e) ∧ s.Reported t k d 0 0 [y.clock, y.mvlcap, y.gate] ∧ t.mem = s.mem ∧ t.me = s.me
    (16 < x.mvlcap → sets (.powerSample die true riseOk) .powerStep { x with mvlcap := x.mvlcap - 16 }) ∧
    (x.mvlcap ≤ 16 → 2000 < x.clock → sets (.powerSample die true riseOk) .powerStep { x with clock := x.clock - 100 }) ∧
    (x.mvlcap ≤ 16 → x.clock ≤ 2000 → 0 < x.gate → sets (.powerSample die true riseOk) .gate { x with gate := x.gate - 1 }) ∧
    (x.mvlcap ≤ 16 → x.clock ≤ 2000 → x.gate = 0 → exec (.powerSample die true riseOk) s = .next s) ∧
    ((riseOk = false ∨ rested = false) → exec (.powerSample die false riseOk) s = .next s) ∧
    (rested = true →
      let now := some s.pkg.tick
      (x.gate < 16 → sets (.powerSample die false true) .gate { x with gate := x.gate + 1, lastRise := now }) ∧
      (16 ≤ x.gate → x.clock < x.topClock → sets (.powerSample die false true) .powerStep { x with clock := x.clock + 100, lastRise := now }) ∧
      (16 ≤ x.gate → x.topClock ≤ x.clock → x.mvlcap < 64 →
        sets (.powerSample die false true) .powerStep { x with mvlcap := x.mvlcap + 16, lastRise := now }) ∧
      (16 ≤ x.gate → x.topClock ≤ x.clock → 64 ≤ x.mvlcap → exec (.powerSample die false true) s = .next s))) ∧
  (∀ (s : State),
    (∃ t, exec .railCut s = .next t ∧ t.pkg.powerCut = true ∧ s.Reported t .powerFault 0 0 0 [] ∧ t.me = s.me ∧ t.others = s.others ∧ t.cores = s.cores) ∧
    (s.pkg.powerCut = true → step s = .next s)) ∧
  ∀ (s : State) (die : DieId) (readings : List (Nat × List Nat)),
    let d := die.toNat
    let x := s.die d
    let allow (f v : Nat) : Prop := 100 ≤ v ∧ v ≤ 150 ∧ ∃ ds, (v, ds) ∈ readings ∧ ds.length = 64 ∧ ∀ y ∈ ds, (y + 25000) * f ≤ 1000000000
    let step_ (f : Nat) : Prop := ∃ i, i ≤ (x.topClock - 2000) / 100 ∧ f = x.topClock - 100 * i
    let fits (f : Nat) : Prop := step_ f ∧ ∃ v, allow f v
    let planned (y : Die) : Prop := ∀ f v, (f, v) ∈ y.plan ↔ step_ f ∧ allow f v ∧ ∀ w, w < v → ¬allow f w
    (x.inReset = true → exec (.monitorReading die readings) s = .next s) ∧
    (x.inReset = false →
      ((∀ f, ¬fits f) → ∃ t data, exec (.monitorReading die readings) s = .next t ∧ (t.die d).lost = true ∧ (t.die d).inReset = true ∧
        (t.die d).plan = [] ∧ s.Reported t .dieLost d 0 0 data ∧ (t.ctx (4096 + d)).state ≠ .running) ∧
      ∀ f, fits f → (∀ g, fits g → g ≤ f) →
        ∃ t, exec (.monitorReading die readings) s = .next t ∧ t.me = s.me ∧ t.mem = s.mem ∧ planned (t.die d) ∧
          t.die d = { x with plan := (t.die d).plan, topClock := f, clock := if f < x.topClock then min x.clock f else x.clock } ∧
          (f < x.topClock → s.Reported t .topClock d f 0 []) ∧ (f = x.topClock → t.pkg = s.pkg))

/-- 21 R405 to R412, 11 R249, R250, 13 R297: the waggle registers of every die; each tick is sampled once, in order, into its slot of the ring: the
tick, the die, its settings, the bytes of DRAM, links and Ethernet since the last sample, and for each core all ones where no context has issued;
SKCTL clears its unit and draws odd multipliers; a unit changes hands only when its owner does not run, and is reset; the debug slots and the trace
ring. Which ticks are due after the registers are written is the model's choice (assumption log 70, DESIGN CHOICE), and so is where a die's record
stands: at WGBASE within its own DRAM (log 123, DESIGN CHOICE). That a field whose owner runs keeps its value is log 71 (DEDUCED), and that a slot for
a launch without DEBUG is not enabled log 72 (DESIGN CHOICE). -/
def Obligations.SamplesAndRegisters : Prop :=
  (∀ (s : State) (ctl start base slots : Word),
    let k := ctl.toNat % 32
    ∃ t, exec (.waggleConfigure ctl start base slots) s = .next t ∧ t.me = s.me ∧ t.mem = s.mem ∧
      ∀ d, d < 4 → t.die d = { s.die d with
        wgctl := if 10 ≤ k ∧ k ≤ 24 then ctl &&& 0x11F else ctl &&& 0x1F, wgstart := start, wgbase := base &&& 0xFFFFFFFFFFFFF000, wgslots := slots,
        sampled := some s.pkg.tick }) ∧
  (∀ (s : State) (tick : Word),
    let least (d : Nat) : Nat := max (s.die d).wgstart.toNat (match (s.die d).sampled with | some u => u.toNat + 1 | none => 0)
    let unit (d : Nat) : Nat := 2 ^ ((s.die d).wgctl.toNat % 32)
    let due (d : Nat) : Prop := (s.die d).wgctl.getLsbD 8 = true ∧ tick.toNat % unit d = 0 ∧ least d ≤ tick.toNat ∧ tick.toNat < least d + unit d
    ((s.pkg.tick.toNat < tick.toNat ∨ ∀ d, d < 4 → ¬due d) → exec (.waggleSample tick) s = .next s) ∧
    ∀ d, d < 4 → tick.toNat ≤ s.pkg.tick.toNat → due d → (∀ e, e < 4 → e ≠ d → ¬due e) →
      let x := s.die d
      let a := d * 0xC00000000 + (x.wgbase.toNat + tick.toNat / unit d % x.wgslots.toNat * 9344) % 0xC00000000
      ∃ t, exec (.waggleSample tick) s = .next t ∧ t.me = s.me ∧ (∀ e, e ≠ d → t.die e = s.die e) ∧
        t.die d = { x with sampled := some tick, issuers := [], traffic := (t.die d).traffic } ∧ (x.wgslots = 0 → t.mem = s.mem) ∧
        (x.wgslots ≠ 0 →
          let at_ (o n : Nat) : Nat := leNat (t.home (a + o) n)
          let bytes (k : Nat) : Nat := Sparse.get 0 x.traffic k / 64 % 2 ^ 64
          at_ 0 8 = tick.toNat ∧ at_ 8 1 = d ∧ at_ 9 1 = x.wgctl.toNat % 32 ∧ at_ 10 2 = x.topClock % 65536 ∧
          (∀ j, j < 52 → at_ (12 + j) 1 = 0) ∧ at_ 64 8 = bytes 0 ∧ at_ 72 8 = bytes 1 ∧
          (∀ e, e < 4 → e ≠ d → at_ (80 + 8 * (if e < d then e else e - 1)) 8 = bytes (2 + e)) ∧ at_ 104 8 = bytes 6 ∧ at_ 112 8 = bytes 7 ∧
          at_ 124 2 = x.clock % 65536 ∧ at_ 126 1 = x.mvlcap % 256 ∧ at_ 127 1 = 0 ∧
          (∀ n, n < 144 → (∀ pos, pos < 4 → ctxidOf (144 * d + n) pos ∉ x.issuers) →
            at_ (128 + 64 * n) 4 = 0 ∧ t.home (a + 160 + 64 * n) 32 = List.replicate 32 0xFF) ∧
          (∀ w, a ≤ 8 * w → 8 * w + 8 ≤ a + 9344 → w ∉ t.poison) ∧
          ∀ b, (b < a ∨ a + 9344 ≤ b) → Sparse.get 0 t.mem b = Sparse.get 0 s.mem b)) ∧
  (∀ (s : State) (die : DieId) (u : BitVec 1) (v : Word),
    ∃ t x, exec (.skctlWrite die u v) s = .next t ∧ t.me = s.me ∧ t.mem = s.mem ∧
      Sparse.get Sketch.reset (t.die die.toNat).sketches u.toNat = x ∧ x.ctl = v &&& 0xFF03 ∧ x.counts = [] ∧ x.total = 0 ∧
      x.consts.length = 4 ∧ (∀ e ∈ x.consts, e.1.getLsbD 0 = true) ∧
      t.die die.toNat = { s.die die.toNat with sketches := (t.die die.toNat).sketches }) ∧
  ∀ (s : State) (die : DieId) (k : CoreId) (n : BitVec 3) (v : Word),
    let d := die.toNat
    let q := s.core k.toNat
    let idle (w : Word) (j : Nat) : Bool := !w.getLsbD (3 * j + 2) || (s.ctx (ctxidOf k.toNat (field w (3 * j) 2))).state != .running
    let moves (w : Word) (j : Nat) : Bool := (field w (3 * j) 3 != field v (3 * j) 3) && idle w j
    (k.toNat / 144 ≠ d → exec (.registerWrite die (.cbown k) v) s = .next s ∧ exec (.registerWrite die (.cvown k) v) s = .next s) ∧
    (k.toNat / 144 = d →
      (∃ t, exec (.registerWrite die (.cbown k) v) s = .next t ∧ t.me = s.me ∧ t.mem = s.mem ∧ (∀ c, c ≠ k.toNat → t.core c = s.core c) ∧
        t.core k.toNat = { q with cbown := (t.core k.toNat).cbown, banks := (t.core k.toNat).banks } ∧ ∀ j, j < 16 →
        field (t.core k.toNat).cbown (3 * j) 3 = (if moves q.cbown j then field v (3 * j) 3 else field q.cbown (3 * j) 3) ∧
        Sparse.get Bank.reset (t.core k.toNat).banks j = if moves q.cbown j then Bank.reset else Sparse.get Bank.reset q.banks j) ∧
      ∃ t, exec (.registerWrite die (.cvown k) v) s = .next t ∧ t.me = s.me ∧ t.mem = s.mem ∧ ∀ j, j < 2 →
        field (t.core k.toNat).cvown (3 * j) 3 = (if moves q.cvown j then field v (3 * j) 3 else field q.cvown (3 * j) 3) ∧
        Sparse.get Cov.reset (t.core k.toNat).covs j = if moves q.cvown j then Cov.reset else Sparse.get Cov.reset q.covs j) ∧
    (let slot (t : State) (j : Nat) : DebugSlot := Sparse.get DebugSlot.reset (t.die d).debug j
      let sets (r : HwReg) (f : DebugSlot → DebugSlot) : Prop := ∃ t, exec (.registerWrite die r v) s = .next t ∧ t.me = s.me ∧ t.mem = s.mem ∧
        t.die d = { s.die d with debug := (t.die d).debug } ∧ ∀ j, slot t j = if j = n.toNat then f (slot s j) else slot s j
      let barred : Prop := v.getLsbD 0 = true ∧ field v 12 32 ≠ 0 ∧
        ∀ l ∈ (s.die d).launches, l.seq = field v 12 32 → l.kernel.mode.testBit 0 = false
      (barred → exec (.registerWrite die (.wpctl n) v) s = .next s) ∧
      (¬barred → sets (.wpctl n) fun w => { w with ctl := v &&& 0xFFFFFFFFF1F }) ∧
      sets (.wpbase n) (fun w => { w with base := v }) ∧ sets (.wplen n) (fun w => { w with len := v })) ∧
    (∃ t, exec (.registerWrite die .trbase v) s = .next t ∧ t.die d = { s.die d with trbase := v } ∧ t.me = s.me ∧ t.mem = s.mem) ∧
    ∃ t, exec (.registerWrite die .trslots v) s = .next t ∧ t.die d = { s.die d with trslots := v } ∧ t.me = s.me ∧ t.mem = s.mem


/-! ## The whole machine: fetch, decode, encode, memory, reset -/

/-- 04 R102, R114, 05 R127: a context at an instruction boundary, whose fetch finds a word and meets no debug slot, runs the instruction that the word
decodes to; a word that is no instruction traps ILLEGAL; a fetch that fails traps its cause, and one whose way lies over a link under retrain waits. A
fetch whose translation the first-level TLB holds, from a home that it reaches with no poison, and that no trace slot and no draw touches, changes
nothing but what counts it (21 R387, R406); the word is then the four bytes at the home. Said of a context that has no restored materialisation to
force again (02 R71). That turns of a list come before the fetch, that a word which has been written since its launch was placed is the old or the new
one, and that each instruction reads its word at the home once, are the model's (assumption logs 3 and 124, DESIGN CHOICE, 27 and 125, DEDUCED). -/
def Obligations.StepRunsDecodedInstruction : Prop :=
  ∀ (s : State), s.pkg.powerCut = false → s.turns = [] → s.me.state = .running → s.me.wait = .none → s.me.lostWrite = none →
    s.me.softError = none → s.mustWait = false → s.forceAgain.2 = [] →
    let u := { s with me := { s.me with closed := [] } }
    let va := s.me.a.ipc
    (∀ c, u.lookup u.me va.toNat .fetch = .fault c → step s = exec .fetchFault u) ∧
    (∀ a b, u.lookup u.me va.toNat .fetch = .waits a b → step s = .next (u.waitLink a b va false)) ∧
    ∀ y, u.lookup u.me va.toNat .fetch = .ok y → u.watched u.me va.toNat 4 .fetch = false →
      (∀ c, u.fetch va = .fault c → step s = exec .fetchFault u) ∧
      (∀ x w, u.fetch va = .ok x w →
        (∀ i, decode (u.issueWord w) = .ok i → step s = mapNext (u.afterIssue va) (exec i ((u.fetchDone x).keepAhead i))) ∧
        (∀ e, decode (u.issueWord w) = .error e → step s = exec .undefinedWord (u.fetchDone x)) ∧
        (x.found = 0 → u.traceSlots [] va.toNat 4 .fetch = [] → u.fetchDrew x.pa = false →
          let t := u.fetchDone x
          t = { u with me := { u.me with fetched := t.me.fetched }, dies := t.dies, pkg := { u.pkg with links := t.pkg.links } } ∧
            (∀ d, t.die d = { u.die d with traffic := (t.die d).traffic, sketches := (t.die d).sketches }) ∧
            ∀ a d, (t.link a d).state = (u.link a d).state)) ∧
      (u.homePoison y.pa 4 = false → u.reach u.me y.pa = .here → region y.pa ≠ .pod → u.fetchDrew y.pa = false →
        u.fetch va = .ok y (leNat (u.readHome u.me y.pa 4))) ∧
      ∀ i, u.me.ahead = [] → u.keepAhead i = u

/-- 04 R102 and the encoding tables: words that the spec writes out decode to the instructions for which it writes them. -/
def Obligations.DecodeWords : Prop :=
  decode 0x4122_0383 = .ok (.fsh 7 8 9) ∧ decode 0x2001_C50B = .ok (.bfxZ 10 7 0 4) ∧ decode 0xC021_4210 = .ok (.fcvtFromF32 .bf16 4 5) ∧
  decode 0x5412_8321 = .ok (.ldw true (some .quad) 1 10 6) ∧ decode 0xD002_8023 = .ok (.std (some .quad) 0 10 0) ∧
  decode 0x5462_82A7 = .ok (.amocas .acq .quad true 6 10 5) ∧ decode 0xFFC0_0230 = .ok (.beq 4 0 (-2)) ∧ decode 0x2004_0137 = .ok (.wcall 2 16) ∧
  decode 0x7021_02D6 = .ok (.setvli 5 4 0x381) ∧ decode 0x1060_83C6 = .ok (.vfma .vv true 7 2 3) ∧ decode 0x00A1_1150 = .ok (.vcmp .vv false .lt 2 4 5) ∧
  decode 0x1FF2_8360 = .ok (.vldb false 6 10 (-1)) ∧ decode 0x02A0_4469 = .ok (.vrbit .xor false 8 1) ∧ decode 0x7060_82F1 = .ok (.vcbx 5 2 3) ∧
  decode 0x0060_80F2 = .ok (.comba false 1 2 3) ∧ decode 0x8000_003C = .ok .halt ∧ decode 0 = .error .undefinedWord

/-- 04 R102 to R118: decoding the word of a well-formed instruction gives it back, with every operand at every value; the word has 32 bits, and no two
well-formed instructions have one word. -/
def Obligations.EncodeDecodeRoundTrip : Prop :=
  (∀ (i : Instr) (w : Nat), i.wellFormed = true → encode i = some w → w < 2 ^ 32 ∧ decode w = .ok i) ∧
  ∀ (i j : Instr) (w : Nat), i.wellFormed = true → j.wellFormed = true → encode i = some w → encode j = some w → i = j

/-- The model's memory, and its maps of cores, dies and links (assumption log 2: the form is the model's choice), stay in their canonical form, whatever step is
taken from whatever state. -/
def Obligations.MemoryStaysCanonical : Prop :=
  (∀ (s t : State), Memory.wf s.mem = true → step s = .next t → Memory.wf t.mem = true) ∧
    ∀ (s t : State), s.wf = true → step s = .next t → t.wf = true

/-- 04 R103, 01 R13, R34, R36: what every instruction keeps, whatever its operands, when it issues with no effect held: PC stays a multiple of 4;
WDEPTH stays at most 24, so that WDEPTH + 8 is at most 32; CTXID, TENANT and PRIO never change; and in user mode no supervisor register changes but
by the entry of a trap, which goes to the supervisor entry point in supervisor mode. Said of every instruction that has an encoding. -/
def Obligations.InstructionsKeepRules : Prop :=
  ∀ (s t : State) (i : Instr), (encode i).isSome = true → s.me.nurse = false → s.me.held = [] → exec i s = .next t →
    let depth (u : State) : Nat := u.me.a.csr.win.toNat / 2 ^ 8 % 64
    t.me.id = s.me.id ∧
    (s.me.a.pc.toNat % 4 = 0 → t.me.a.pc.toNat % 4 = 0) ∧
    (depth s ≤ 24 → depth t ≤ 24) ∧
    t.me.a.csr.ctxid = s.me.a.csr.ctxid ∧ (∀ k, 2 ≤ k → t.me.a.csr.status.getLsbD k = s.me.a.csr.status.getLsbD k) ∧
    (s.me.a.csr.sup = false →
      (∀ m ∈ csrMap, m.2.1 = .s → m.2.2.1 t.me.a.csr = m.2.2.1 s.me.a.csr) ∨
        (t.me.a.pc = 0xFFFFFF0000000000 ∧ t.me.a.csr.sup = true))


/-- 22 R432, 19 R355, 01 R38 and assumption log 1: after reset every die is in reset, no context is placed, memory lists nothing and is canonical, no
debug slot, trace ring, tenant or launch stands, the gate is open at full clock, and nothing moves until an event comes. That memory without an entry
reads 0 (assumption log 2, DESIGN CHOICE), that nothing moves from reset until an event comes (log 37, DESIGN CHOICE), and the registers that the spec
gives no reset value (log 1, DESIGN CHOICE) are the model's choices. -/
def Obligations.ResetIsCanonical : Prop :=
  Memory.wf State.reset.mem = true ∧ State.reset.mem = [] ∧ State.reset.wf = true ∧ State.reset.aligned = true ∧ step State.reset = .next State.reset ∧
    (∀ id, (State.reset.ctx id).state = .vacant) ∧ (∀ k, State.reset.core k = Core.reset) ∧
    ∀ d, (State.reset.die d).inReset = true ∧ (State.reset.die d).tenants = [] ∧ (State.reset.die d).launches = [] ∧ (State.reset.die d).debug = [] ∧
      (State.reset.die d).trslots = 0 ∧ (State.reset.die d).gate = 16 ∧ (State.reset.die d).clock = 3600 ∧ (State.reset.die d).mvlcap = 64
end

