-- ==== Sys2Proof/Laws/State.lean ====
section
/-!
SUPPORT. The fields of the machine after the shared updates of Ops.lean: one lemma per field per update, true by definition.
-/

namespace Sys2Proof.Machine

/-! ## setArch -/

@[simp] theorem State.setArch_others (s : State) (f : Arch → Arch) : (s.setArch f).others = s.others := rfl
@[simp] theorem State.setArch_cores (s : State) (f : Arch → Arch) : (s.setArch f).cores = s.cores := rfl
@[simp] theorem State.setArch_transfers (s : State) (f : Arch → Arch) : (s.setArch f).transfers = s.transfers := rfl
@[simp] theorem State.setArch_nextTransfer (s : State) (f : Arch → Arch) : (s.setArch f).nextTransfer = s.nextTransfer := rfl
@[simp] theorem State.setArch_dies (s : State) (f : Arch → Arch) : (s.setArch f).dies = s.dies := rfl
@[simp] theorem State.setArch_pkg (s : State) (f : Arch → Arch) : (s.setArch f).pkg = s.pkg := rfl
@[simp] theorem State.setArch_mem (s : State) (f : Arch → Arch) : (s.setArch f).mem = s.mem := rfl
@[simp] theorem State.setArch_poison (s : State) (f : Arch → Arch) : (s.setArch f).poison = s.poison := rfl
@[simp] theorem State.setArch_keys (s : State) (f : Arch → Arch) : (s.setArch f).keys = s.keys := rfl
@[simp] theorem State.setArch_turns (s : State) (f : Arch → Arch) : (s.setArch f).turns = s.turns := rfl
@[simp] theorem State.setArch_freeCtr (s : State) (f : Arch → Arch) : (s.setArch f).freeCtr = s.freeCtr := rfl
@[simp] theorem State.setArch_me_id (s : State) (f : Arch → Arch) : (s.setArch f).me.id = s.me.id := rfl
@[simp] theorem State.setArch_me_state (s : State) (f : Arch → Arch) : (s.setArch f).me.state = s.me.state := rfl
@[simp] theorem State.setArch_me_pend (s : State) (f : Arch → Arch) : (s.setArch f).me.pend = s.me.pend := rfl
@[simp] theorem State.setArch_me_run (s : State) (f : Arch → Arch) : (s.setArch f).me.run = s.me.run := rfl
@[simp] theorem State.setArch_me_stopped (s : State) (f : Arch → Arch) : (s.setArch f).me.stopped = s.me.stopped := rfl
@[simp] theorem State.setArch_me_resume (s : State) (f : Arch → Arch) : (s.setArch f).me.resume = s.me.resume := rfl
@[simp] theorem State.setArch_me_held (s : State) (f : Arch → Arch) : (s.setArch f).me.held = s.me.held := rfl
@[simp] theorem State.setArch_me_wait (s : State) (f : Arch → Arch) : (s.setArch f).me.wait = s.me.wait := rfl
@[simp] theorem State.setArch_me_issueNo (s : State) (f : Arch → Arch) : (s.setArch f).me.issueNo = s.me.issueNo := rfl
@[simp] theorem State.setArch_me_epoch (s : State) (f : Arch → Arch) : (s.setArch f).me.epoch = s.me.epoch := rfl
@[simp] theorem State.setArch_me_nextUid (s : State) (f : Arch → Arch) : (s.setArch f).me.nextUid = s.me.nextUid := rfl
@[simp] theorem State.setArch_me_rows (s : State) (f : Arch → Arch) : (s.setArch f).me.rows = s.me.rows := rfl
@[simp] theorem State.setArch_me_event (s : State) (f : Arch → Arch) : (s.setArch f).me.event = s.me.event := rfl
@[simp] theorem State.setArch_me_launch (s : State) (f : Arch → Arch) : (s.setArch f).me.launch = s.me.launch := rfl
@[simp] theorem State.setArch_me_index (s : State) (f : Arch → Arch) : (s.setArch f).me.index = s.me.index := rfl
@[simp] theorem State.setArch_me_size (s : State) (f : Arch → Arch) : (s.setArch f).me.size = s.me.size := rfl
@[simp] theorem State.setArch_me_lpriv (s : State) (f : Arch → Arch) : (s.setArch f).me.lpriv = s.me.lpriv := rfl
@[simp] theorem State.setArch_me_service (s : State) (f : Arch → Arch) : (s.setArch f).me.service = s.me.service := rfl
@[simp] theorem State.setArch_me_lostWrite (s : State) (f : Arch → Arch) : (s.setArch f).me.lostWrite = s.me.lostWrite := rfl
@[simp] theorem State.setArch_me_softError (s : State) (f : Arch → Arch) : (s.setArch f).me.softError = s.me.softError := rfl
@[simp] theorem State.setArch_me_lag (s : State) (f : Arch → Arch) : (s.setArch f).me.lag = s.me.lag := rfl
@[simp] theorem State.setArch_me_ahead (s : State) (f : Arch → Arch) : (s.setArch f).me.ahead = s.me.ahead := rfl
@[simp] theorem State.setArch_me_closed (s : State) (f : Arch → Arch) : (s.setArch f).me.closed = s.me.closed := rfl
@[simp] theorem State.setArch_me_fresh (s : State) (f : Arch → Arch) : (s.setArch f).me.fresh = s.me.fresh := rfl
@[simp] theorem State.setArch_me_fetched (s : State) (f : Arch → Arch) : (s.setArch f).me.fetched = s.me.fetched := rfl
@[simp] theorem State.setArch_me_a (s : State) (f : Arch → Arch) : (s.setArch f).me.a = f s.me.a := rfl

/-! ## setCsr -/

@[simp] theorem State.setCsr_others (s : State) (f : Csrs → Csrs) : (s.setCsr f).others = s.others := rfl
@[simp] theorem State.setCsr_cores (s : State) (f : Csrs → Csrs) : (s.setCsr f).cores = s.cores := rfl
@[simp] theorem State.setCsr_transfers (s : State) (f : Csrs → Csrs) : (s.setCsr f).transfers = s.transfers := rfl
@[simp] theorem State.setCsr_nextTransfer (s : State) (f : Csrs → Csrs) : (s.setCsr f).nextTransfer = s.nextTransfer := rfl
@[simp] theorem State.setCsr_dies (s : State) (f : Csrs → Csrs) : (s.setCsr f).dies = s.dies := rfl
@[simp] theorem State.setCsr_pkg (s : State) (f : Csrs → Csrs) : (s.setCsr f).pkg = s.pkg := rfl
@[simp] theorem State.setCsr_mem (s : State) (f : Csrs → Csrs) : (s.setCsr f).mem = s.mem := rfl
@[simp] theorem State.setCsr_poison (s : State) (f : Csrs → Csrs) : (s.setCsr f).poison = s.poison := rfl
@[simp] theorem State.setCsr_keys (s : State) (f : Csrs → Csrs) : (s.setCsr f).keys = s.keys := rfl
@[simp] theorem State.setCsr_turns (s : State) (f : Csrs → Csrs) : (s.setCsr f).turns = s.turns := rfl
@[simp] theorem State.setCsr_freeCtr (s : State) (f : Csrs → Csrs) : (s.setCsr f).freeCtr = s.freeCtr := rfl
@[simp] theorem State.setCsr_me_id (s : State) (f : Csrs → Csrs) : (s.setCsr f).me.id = s.me.id := rfl
@[simp] theorem State.setCsr_me_state (s : State) (f : Csrs → Csrs) : (s.setCsr f).me.state = s.me.state := rfl
@[simp] theorem State.setCsr_me_pend (s : State) (f : Csrs → Csrs) : (s.setCsr f).me.pend = s.me.pend := rfl
@[simp] theorem State.setCsr_me_run (s : State) (f : Csrs → Csrs) : (s.setCsr f).me.run = s.me.run := rfl
@[simp] theorem State.setCsr_me_stopped (s : State) (f : Csrs → Csrs) : (s.setCsr f).me.stopped = s.me.stopped := rfl
@[simp] theorem State.setCsr_me_resume (s : State) (f : Csrs → Csrs) : (s.setCsr f).me.resume = s.me.resume := rfl
@[simp] theorem State.setCsr_me_held (s : State) (f : Csrs → Csrs) : (s.setCsr f).me.held = s.me.held := rfl
@[simp] theorem State.setCsr_me_wait (s : State) (f : Csrs → Csrs) : (s.setCsr f).me.wait = s.me.wait := rfl
@[simp] theorem State.setCsr_me_issueNo (s : State) (f : Csrs → Csrs) : (s.setCsr f).me.issueNo = s.me.issueNo := rfl
@[simp] theorem State.setCsr_me_epoch (s : State) (f : Csrs → Csrs) : (s.setCsr f).me.epoch = s.me.epoch := rfl
@[simp] theorem State.setCsr_me_nextUid (s : State) (f : Csrs → Csrs) : (s.setCsr f).me.nextUid = s.me.nextUid := rfl
@[simp] theorem State.setCsr_me_rows (s : State) (f : Csrs → Csrs) : (s.setCsr f).me.rows = s.me.rows := rfl
@[simp] theorem State.setCsr_me_event (s : State) (f : Csrs → Csrs) : (s.setCsr f).me.event = s.me.event := rfl
@[simp] theorem State.setCsr_me_launch (s : State) (f : Csrs → Csrs) : (s.setCsr f).me.launch = s.me.launch := rfl
@[simp] theorem State.setCsr_me_index (s : State) (f : Csrs → Csrs) : (s.setCsr f).me.index = s.me.index := rfl
@[simp] theorem State.setCsr_me_size (s : State) (f : Csrs → Csrs) : (s.setCsr f).me.size = s.me.size := rfl
@[simp] theorem State.setCsr_me_lpriv (s : State) (f : Csrs → Csrs) : (s.setCsr f).me.lpriv = s.me.lpriv := rfl
@[simp] theorem State.setCsr_me_service (s : State) (f : Csrs → Csrs) : (s.setCsr f).me.service = s.me.service := rfl
@[simp] theorem State.setCsr_me_lostWrite (s : State) (f : Csrs → Csrs) : (s.setCsr f).me.lostWrite = s.me.lostWrite := rfl
@[simp] theorem State.setCsr_me_softError (s : State) (f : Csrs → Csrs) : (s.setCsr f).me.softError = s.me.softError := rfl
@[simp] theorem State.setCsr_me_lag (s : State) (f : Csrs → Csrs) : (s.setCsr f).me.lag = s.me.lag := rfl
@[simp] theorem State.setCsr_me_ahead (s : State) (f : Csrs → Csrs) : (s.setCsr f).me.ahead = s.me.ahead := rfl
@[simp] theorem State.setCsr_me_closed (s : State) (f : Csrs → Csrs) : (s.setCsr f).me.closed = s.me.closed := rfl
@[simp] theorem State.setCsr_me_fresh (s : State) (f : Csrs → Csrs) : (s.setCsr f).me.fresh = s.me.fresh := rfl
@[simp] theorem State.setCsr_me_fetched (s : State) (f : Csrs → Csrs) : (s.setCsr f).me.fetched = s.me.fetched := rfl
@[simp] theorem State.setCsr_me_a (s : State) (f : Csrs → Csrs) : (s.setCsr f).me.a = { s.me.a with csr := f s.me.a.csr } := rfl

/-! ## setReg -/

@[simp] theorem State.setReg_others (s : State) (n : SReg) (v : Word) : (s.setReg n v).others = s.others := rfl
@[simp] theorem State.setReg_cores (s : State) (n : SReg) (v : Word) : (s.setReg n v).cores = s.cores := rfl
@[simp] theorem State.setReg_transfers (s : State) (n : SReg) (v : Word) : (s.setReg n v).transfers = s.transfers := rfl
@[simp] theorem State.setReg_nextTransfer (s : State) (n : SReg) (v : Word) : (s.setReg n v).nextTransfer = s.nextTransfer := rfl
@[simp] theorem State.setReg_dies (s : State) (n : SReg) (v : Word) : (s.setReg n v).dies = s.dies := rfl
@[simp] theorem State.setReg_pkg (s : State) (n : SReg) (v : Word) : (s.setReg n v).pkg = s.pkg := rfl
@[simp] theorem State.setReg_mem (s : State) (n : SReg) (v : Word) : (s.setReg n v).mem = s.mem := rfl
@[simp] theorem State.setReg_poison (s : State) (n : SReg) (v : Word) : (s.setReg n v).poison = s.poison := rfl
@[simp] theorem State.setReg_keys (s : State) (n : SReg) (v : Word) : (s.setReg n v).keys = s.keys := rfl
@[simp] theorem State.setReg_turns (s : State) (n : SReg) (v : Word) : (s.setReg n v).turns = s.turns := rfl
@[simp] theorem State.setReg_freeCtr (s : State) (n : SReg) (v : Word) : (s.setReg n v).freeCtr = s.freeCtr := rfl
@[simp] theorem State.setReg_me_id (s : State) (n : SReg) (v : Word) : (s.setReg n v).me.id = s.me.id := rfl
@[simp] theorem State.setReg_me_state (s : State) (n : SReg) (v : Word) : (s.setReg n v).me.state = s.me.state := rfl
@[simp] theorem State.setReg_me_pend (s : State) (n : SReg) (v : Word) : (s.setReg n v).me.pend = s.me.pend := rfl
@[simp] theorem State.setReg_me_run (s : State) (n : SReg) (v : Word) : (s.setReg n v).me.run = s.me.run := rfl
@[simp] theorem State.setReg_me_stopped (s : State) (n : SReg) (v : Word) : (s.setReg n v).me.stopped = s.me.stopped := rfl
@[simp] theorem State.setReg_me_resume (s : State) (n : SReg) (v : Word) : (s.setReg n v).me.resume = s.me.resume := rfl
@[simp] theorem State.setReg_me_held (s : State) (n : SReg) (v : Word) : (s.setReg n v).me.held = s.me.held := rfl
@[simp] theorem State.setReg_me_wait (s : State) (n : SReg) (v : Word) : (s.setReg n v).me.wait = s.me.wait := rfl
@[simp] theorem State.setReg_me_issueNo (s : State) (n : SReg) (v : Word) : (s.setReg n v).me.issueNo = s.me.issueNo := rfl
@[simp] theorem State.setReg_me_epoch (s : State) (n : SReg) (v : Word) : (s.setReg n v).me.epoch = s.me.epoch := rfl
@[simp] theorem State.setReg_me_nextUid (s : State) (n : SReg) (v : Word) : (s.setReg n v).me.nextUid = s.me.nextUid := rfl
@[simp] theorem State.setReg_me_rows (s : State) (n : SReg) (v : Word) : (s.setReg n v).me.rows = s.me.rows := rfl
@[simp] theorem State.setReg_me_event (s : State) (n : SReg) (v : Word) : (s.setReg n v).me.event = s.me.event := rfl
@[simp] theorem State.setReg_me_launch (s : State) (n : SReg) (v : Word) : (s.setReg n v).me.launch = s.me.launch := rfl
@[simp] theorem State.setReg_me_index (s : State) (n : SReg) (v : Word) : (s.setReg n v).me.index = s.me.index := rfl
@[simp] theorem State.setReg_me_size (s : State) (n : SReg) (v : Word) : (s.setReg n v).me.size = s.me.size := rfl
@[simp] theorem State.setReg_me_lpriv (s : State) (n : SReg) (v : Word) : (s.setReg n v).me.lpriv = s.me.lpriv := rfl
@[simp] theorem State.setReg_me_service (s : State) (n : SReg) (v : Word) : (s.setReg n v).me.service = s.me.service := rfl
@[simp] theorem State.setReg_me_lostWrite (s : State) (n : SReg) (v : Word) : (s.setReg n v).me.lostWrite = s.me.lostWrite := rfl
@[simp] theorem State.setReg_me_softError (s : State) (n : SReg) (v : Word) : (s.setReg n v).me.softError = s.me.softError := rfl
@[simp] theorem State.setReg_me_lag (s : State) (n : SReg) (v : Word) : (s.setReg n v).me.lag = s.me.lag := rfl
@[simp] theorem State.setReg_me_ahead (s : State) (n : SReg) (v : Word) : (s.setReg n v).me.ahead = s.me.ahead := rfl
@[simp] theorem State.setReg_me_closed (s : State) (n : SReg) (v : Word) : (s.setReg n v).me.closed = s.me.closed := rfl
@[simp] theorem State.setReg_me_fresh (s : State) (n : SReg) (v : Word) : (s.setReg n v).me.fresh = s.me.fresh := rfl
@[simp] theorem State.setReg_me_fetched (s : State) (n : SReg) (v : Word) : (s.setReg n v).me.fetched = s.me.fetched := rfl
@[simp] theorem State.setReg_me_a (s : State) (n : SReg) (v : Word) : (s.setReg n v).me.a = s.me.a.setReg n v := rfl

/-! ## issued -/

@[simp] theorem State.issued_others (s : State) : (s.issued).others = s.others := rfl
@[simp] theorem State.issued_cores (s : State) : (s.issued).cores = s.cores := rfl
@[simp] theorem State.issued_transfers (s : State) : (s.issued).transfers = s.transfers := rfl
@[simp] theorem State.issued_nextTransfer (s : State) : (s.issued).nextTransfer = s.nextTransfer := rfl
@[simp] theorem State.issued_dies (s : State) : (s.issued).dies = s.dies := rfl
@[simp] theorem State.issued_pkg (s : State) : (s.issued).pkg = s.pkg := rfl
@[simp] theorem State.issued_mem (s : State) : (s.issued).mem = s.mem := rfl
@[simp] theorem State.issued_poison (s : State) : (s.issued).poison = s.poison := rfl
@[simp] theorem State.issued_keys (s : State) : (s.issued).keys = s.keys := rfl
@[simp] theorem State.issued_turns (s : State) : (s.issued).turns = s.turns := rfl
@[simp] theorem State.issued_freeCtr (s : State) : (s.issued).freeCtr = s.freeCtr := rfl
@[simp] theorem State.issued_me_id (s : State) : (s.issued).me.id = s.me.id := rfl
@[simp] theorem State.issued_me_state (s : State) : (s.issued).me.state = s.me.state := rfl
@[simp] theorem State.issued_me_pend (s : State) : (s.issued).me.pend = s.me.pend := rfl
@[simp] theorem State.issued_me_run (s : State) : (s.issued).me.run = s.me.run := rfl
@[simp] theorem State.issued_me_stopped (s : State) : (s.issued).me.stopped = s.me.stopped := rfl
@[simp] theorem State.issued_me_resume (s : State) : (s.issued).me.resume = s.me.resume := rfl
@[simp] theorem State.issued_me_held (s : State) : (s.issued).me.held = s.me.held := rfl
@[simp] theorem State.issued_me_wait (s : State) : (s.issued).me.wait = s.me.wait := rfl
@[simp] theorem State.issued_me_issueNo (s : State) : (s.issued).me.issueNo = s.me.issueNo + 1 := rfl
@[simp] theorem State.issued_me_epoch (s : State) : (s.issued).me.epoch = s.me.epoch := rfl
@[simp] theorem State.issued_me_nextUid (s : State) : (s.issued).me.nextUid = s.me.nextUid := rfl
@[simp] theorem State.issued_me_rows (s : State) : (s.issued).me.rows = s.me.rows := rfl
@[simp] theorem State.issued_me_event (s : State) : (s.issued).me.event = s.me.event := rfl
@[simp] theorem State.issued_me_launch (s : State) : (s.issued).me.launch = s.me.launch := rfl
@[simp] theorem State.issued_me_index (s : State) : (s.issued).me.index = s.me.index := rfl
@[simp] theorem State.issued_me_size (s : State) : (s.issued).me.size = s.me.size := rfl
@[simp] theorem State.issued_me_lpriv (s : State) : (s.issued).me.lpriv = s.me.lpriv := rfl
@[simp] theorem State.issued_me_service (s : State) : (s.issued).me.service = s.me.service := rfl
@[simp] theorem State.issued_me_lostWrite (s : State) : (s.issued).me.lostWrite = s.me.lostWrite := rfl
@[simp] theorem State.issued_me_softError (s : State) : (s.issued).me.softError = s.me.softError := rfl
@[simp] theorem State.issued_me_lag (s : State) : (s.issued).me.lag = s.me.lag := rfl
@[simp] theorem State.issued_me_ahead (s : State) : (s.issued).me.ahead = s.me.ahead := rfl
@[simp] theorem State.issued_me_closed (s : State) : (s.issued).me.closed = s.me.closed := rfl
@[simp] theorem State.issued_me_fresh (s : State) : (s.issued).me.fresh = s.me.fresh := rfl
@[simp] theorem State.issued_me_fetched (s : State) : (s.issued).me.fetched = s.me.fetched := rfl
@[simp] theorem State.issued_me_a (s : State) : (s.issued).me.a = s.me.a := rfl

/-! ## retire -/

@[simp] theorem State.retire_others (s : State) : (s.retire).others = s.others := rfl
@[simp] theorem State.retire_cores (s : State) : (s.retire).cores = s.cores := rfl
@[simp] theorem State.retire_transfers (s : State) : (s.retire).transfers = s.transfers := rfl
@[simp] theorem State.retire_nextTransfer (s : State) : (s.retire).nextTransfer = s.nextTransfer := rfl
@[simp] theorem State.retire_dies (s : State) : (s.retire).dies = s.dies := rfl
@[simp] theorem State.retire_pkg (s : State) : (s.retire).pkg = s.pkg := rfl
@[simp] theorem State.retire_mem (s : State) : (s.retire).mem = s.mem := rfl
@[simp] theorem State.retire_poison (s : State) : (s.retire).poison = s.poison := rfl
@[simp] theorem State.retire_keys (s : State) : (s.retire).keys = s.keys := rfl
@[simp] theorem State.retire_turns (s : State) : (s.retire).turns = s.turns := rfl
@[simp] theorem State.retire_freeCtr (s : State) : (s.retire).freeCtr = s.freeCtr := rfl
@[simp] theorem State.retire_me_id (s : State) : (s.retire).me.id = s.me.id := rfl
@[simp] theorem State.retire_me_state (s : State) : (s.retire).me.state = s.me.state := rfl
@[simp] theorem State.retire_me_pend (s : State) : (s.retire).me.pend = s.me.pend := rfl
@[simp] theorem State.retire_me_run (s : State) : (s.retire).me.run = s.me.run := rfl
@[simp] theorem State.retire_me_stopped (s : State) : (s.retire).me.stopped = s.me.stopped := rfl
@[simp] theorem State.retire_me_resume (s : State) : (s.retire).me.resume = s.me.resume := rfl
@[simp] theorem State.retire_me_held (s : State) : (s.retire).me.held = s.me.held := rfl
@[simp] theorem State.retire_me_wait (s : State) : (s.retire).me.wait = s.me.wait := rfl
@[simp] theorem State.retire_me_issueNo (s : State) : (s.retire).me.issueNo = s.me.issueNo + 1 := rfl
@[simp] theorem State.retire_me_epoch (s : State) : (s.retire).me.epoch = s.me.epoch := rfl
@[simp] theorem State.retire_me_nextUid (s : State) : (s.retire).me.nextUid = s.me.nextUid := rfl
@[simp] theorem State.retire_me_rows (s : State) : (s.retire).me.rows = s.me.rows := rfl
@[simp] theorem State.retire_me_event (s : State) : (s.retire).me.event = s.me.event := rfl
@[simp] theorem State.retire_me_launch (s : State) : (s.retire).me.launch = s.me.launch := rfl
@[simp] theorem State.retire_me_index (s : State) : (s.retire).me.index = s.me.index := rfl
@[simp] theorem State.retire_me_size (s : State) : (s.retire).me.size = s.me.size := rfl
@[simp] theorem State.retire_me_lpriv (s : State) : (s.retire).me.lpriv = s.me.lpriv := rfl
@[simp] theorem State.retire_me_service (s : State) : (s.retire).me.service = s.me.service := rfl
@[simp] theorem State.retire_me_lostWrite (s : State) : (s.retire).me.lostWrite = s.me.lostWrite := rfl
@[simp] theorem State.retire_me_softError (s : State) : (s.retire).me.softError = s.me.softError := rfl
@[simp] theorem State.retire_me_lag (s : State) : (s.retire).me.lag = s.me.lag := rfl
@[simp] theorem State.retire_me_ahead (s : State) : (s.retire).me.ahead = s.me.ahead := rfl
@[simp] theorem State.retire_me_closed (s : State) : (s.retire).me.closed = s.me.closed := rfl
@[simp] theorem State.retire_me_fresh (s : State) : (s.retire).me.fresh = s.me.fresh := rfl
@[simp] theorem State.retire_me_fetched (s : State) : (s.retire).me.fetched = s.me.fetched := rfl
@[simp] theorem State.retire_me_a (s : State) : (s.retire).me.a = s.me.a.next := rfl

/-! ## jump -/

@[simp] theorem State.jump_others (s : State) (t : Word) : (s.jump t).others = s.others := rfl
@[simp] theorem State.jump_cores (s : State) (t : Word) : (s.jump t).cores = s.cores := rfl
@[simp] theorem State.jump_transfers (s : State) (t : Word) : (s.jump t).transfers = s.transfers := rfl
@[simp] theorem State.jump_nextTransfer (s : State) (t : Word) : (s.jump t).nextTransfer = s.nextTransfer := rfl
@[simp] theorem State.jump_dies (s : State) (t : Word) : (s.jump t).dies = s.dies := rfl
@[simp] theorem State.jump_pkg (s : State) (t : Word) : (s.jump t).pkg = s.pkg := rfl
@[simp] theorem State.jump_mem (s : State) (t : Word) : (s.jump t).mem = s.mem := rfl
@[simp] theorem State.jump_poison (s : State) (t : Word) : (s.jump t).poison = s.poison := rfl
@[simp] theorem State.jump_keys (s : State) (t : Word) : (s.jump t).keys = s.keys := rfl
@[simp] theorem State.jump_turns (s : State) (t : Word) : (s.jump t).turns = s.turns := rfl
@[simp] theorem State.jump_freeCtr (s : State) (t : Word) : (s.jump t).freeCtr = s.freeCtr := rfl
@[simp] theorem State.jump_me_id (s : State) (t : Word) : (s.jump t).me.id = s.me.id := rfl
@[simp] theorem State.jump_me_state (s : State) (t : Word) : (s.jump t).me.state = s.me.state := rfl
@[simp] theorem State.jump_me_pend (s : State) (t : Word) : (s.jump t).me.pend = s.me.pend := rfl
@[simp] theorem State.jump_me_run (s : State) (t : Word) : (s.jump t).me.run = s.me.run := rfl
@[simp] theorem State.jump_me_stopped (s : State) (t : Word) : (s.jump t).me.stopped = s.me.stopped := rfl
@[simp] theorem State.jump_me_resume (s : State) (t : Word) : (s.jump t).me.resume = s.me.resume := rfl
@[simp] theorem State.jump_me_held (s : State) (t : Word) : (s.jump t).me.held = s.me.held := rfl
@[simp] theorem State.jump_me_wait (s : State) (t : Word) : (s.jump t).me.wait = s.me.wait := rfl
@[simp] theorem State.jump_me_issueNo (s : State) (t : Word) : (s.jump t).me.issueNo = s.me.issueNo + 1 := rfl
@[simp] theorem State.jump_me_epoch (s : State) (t : Word) : (s.jump t).me.epoch = s.me.epoch := rfl
@[simp] theorem State.jump_me_nextUid (s : State) (t : Word) : (s.jump t).me.nextUid = s.me.nextUid := rfl
@[simp] theorem State.jump_me_rows (s : State) (t : Word) : (s.jump t).me.rows = s.me.rows := rfl
@[simp] theorem State.jump_me_event (s : State) (t : Word) : (s.jump t).me.event = s.me.event := rfl
@[simp] theorem State.jump_me_launch (s : State) (t : Word) : (s.jump t).me.launch = s.me.launch := rfl
@[simp] theorem State.jump_me_index (s : State) (t : Word) : (s.jump t).me.index = s.me.index := rfl
@[simp] theorem State.jump_me_size (s : State) (t : Word) : (s.jump t).me.size = s.me.size := rfl
@[simp] theorem State.jump_me_lpriv (s : State) (t : Word) : (s.jump t).me.lpriv = s.me.lpriv := rfl
@[simp] theorem State.jump_me_service (s : State) (t : Word) : (s.jump t).me.service = s.me.service := rfl
@[simp] theorem State.jump_me_lostWrite (s : State) (t : Word) : (s.jump t).me.lostWrite = s.me.lostWrite := rfl
@[simp] theorem State.jump_me_softError (s : State) (t : Word) : (s.jump t).me.softError = s.me.softError := rfl
@[simp] theorem State.jump_me_lag (s : State) (t : Word) : (s.jump t).me.lag = s.me.lag := rfl
@[simp] theorem State.jump_me_ahead (s : State) (t : Word) : (s.jump t).me.ahead = s.me.ahead := rfl
@[simp] theorem State.jump_me_closed (s : State) (t : Word) : (s.jump t).me.closed = s.me.closed := rfl
@[simp] theorem State.jump_me_fresh (s : State) (t : Word) : (s.jump t).me.fresh = s.me.fresh := rfl
@[simp] theorem State.jump_me_fetched (s : State) (t : Word) : (s.jump t).me.fetched = s.me.fetched := rfl
@[simp] theorem State.jump_me_a (s : State) (t : Word) : (s.jump t).me.a = { s.me.a with pc := t } := rfl

/-! ## apart -/

@[simp] theorem State.apart_others (s : State) : (s.apart).others = s.others := rfl
@[simp] theorem State.apart_cores (s : State) : (s.apart).cores = s.cores := rfl
@[simp] theorem State.apart_transfers (s : State) : (s.apart).transfers = s.transfers := rfl
@[simp] theorem State.apart_nextTransfer (s : State) : (s.apart).nextTransfer = s.nextTransfer := rfl
@[simp] theorem State.apart_dies (s : State) : (s.apart).dies = s.dies := rfl
@[simp] theorem State.apart_pkg (s : State) : (s.apart).pkg = s.pkg := rfl
@[simp] theorem State.apart_mem (s : State) : (s.apart).mem = s.mem := rfl
@[simp] theorem State.apart_poison (s : State) : (s.apart).poison = s.poison := rfl
@[simp] theorem State.apart_keys (s : State) : (s.apart).keys = s.keys := rfl
@[simp] theorem State.apart_turns (s : State) : (s.apart).turns = s.turns := rfl
@[simp] theorem State.apart_freeCtr (s : State) : (s.apart).freeCtr = s.freeCtr := rfl
@[simp] theorem State.apart_me_id (s : State) : (s.apart).me.id = s.me.id := rfl
@[simp] theorem State.apart_me_state (s : State) : (s.apart).me.state = s.me.state := rfl
@[simp] theorem State.apart_me_pend (s : State) : (s.apart).me.pend = s.me.pend := rfl
@[simp] theorem State.apart_me_run (s : State) : (s.apart).me.run = s.me.run := rfl
@[simp] theorem State.apart_me_stopped (s : State) : (s.apart).me.stopped = s.me.stopped := rfl
@[simp] theorem State.apart_me_resume (s : State) : (s.apart).me.resume = s.me.resume := rfl
@[simp] theorem State.apart_me_held (s : State) : (s.apart).me.held = s.me.held := rfl
@[simp] theorem State.apart_me_wait (s : State) : (s.apart).me.wait = s.me.wait := rfl
@[simp] theorem State.apart_me_issueNo (s : State) : (s.apart).me.issueNo = s.me.issueNo := rfl
@[simp] theorem State.apart_me_epoch (s : State) : s.apart.me.epoch = s.me.epoch + 1 := rfl
@[simp] theorem State.apart_me_nextUid (s : State) : (s.apart).me.nextUid = s.me.nextUid := rfl
@[simp] theorem State.apart_me_rows (s : State) : (s.apart).me.rows = s.me.rows := rfl
@[simp] theorem State.apart_me_event (s : State) : (s.apart).me.event = s.me.event := rfl
@[simp] theorem State.apart_me_launch (s : State) : (s.apart).me.launch = s.me.launch := rfl
@[simp] theorem State.apart_me_index (s : State) : (s.apart).me.index = s.me.index := rfl
@[simp] theorem State.apart_me_size (s : State) : (s.apart).me.size = s.me.size := rfl
@[simp] theorem State.apart_me_lpriv (s : State) : (s.apart).me.lpriv = s.me.lpriv := rfl
@[simp] theorem State.apart_me_service (s : State) : (s.apart).me.service = s.me.service := rfl
@[simp] theorem State.apart_me_lostWrite (s : State) : (s.apart).me.lostWrite = s.me.lostWrite := rfl
@[simp] theorem State.apart_me_softError (s : State) : (s.apart).me.softError = s.me.softError := rfl
@[simp] theorem State.apart_me_lag (s : State) : (s.apart).me.lag = s.me.lag := rfl
@[simp] theorem State.apart_me_ahead (s : State) : (s.apart).me.ahead = s.me.ahead := rfl
@[simp] theorem State.apart_me_closed (s : State) : (s.apart).me.closed = s.me.closed := rfl
@[simp] theorem State.apart_me_fresh (s : State) : (s.apart).me.fresh = s.me.fresh := rfl
@[simp] theorem State.apart_me_fetched (s : State) : (s.apart).me.fetched = s.me.fetched := rfl
@[simp] theorem State.apart_me_a (s : State) : (s.apart).me.a = s.me.a := rfl

/-! ## draw -/

@[simp] theorem State.draw_others (s : State) : (s.draw).others = s.others := rfl
@[simp] theorem State.draw_cores (s : State) : (s.draw).cores = s.cores := rfl
@[simp] theorem State.draw_transfers (s : State) : (s.draw).transfers = s.transfers := rfl
@[simp] theorem State.draw_nextTransfer (s : State) : (s.draw).nextTransfer = s.nextTransfer := rfl
@[simp] theorem State.draw_dies (s : State) : (s.draw).dies = s.dies := rfl
@[simp] theorem State.draw_pkg (s : State) : (s.draw).pkg = s.pkg := rfl
@[simp] theorem State.draw_mem (s : State) : (s.draw).mem = s.mem := rfl
@[simp] theorem State.draw_poison (s : State) : (s.draw).poison = s.poison := rfl
@[simp] theorem State.draw_keys (s : State) : (s.draw).keys = s.keys := rfl
@[simp] theorem State.draw_turns (s : State) : (s.draw).turns = s.turns := rfl
@[simp] theorem State.draw_me (s : State) : (s.draw).me = s.me := rfl
@[simp] theorem State.draw_freeCtr (s : State) : s.draw.freeCtr = s.freeCtr + 1 := rfl

/-! ## setCore -/

@[simp] theorem State.setCore_others (s : State) (k : Nat) (f : Core → Core) : (s.setCore k f).others = s.others := rfl
@[simp] theorem State.setCore_transfers (s : State) (k : Nat) (f : Core → Core) : (s.setCore k f).transfers = s.transfers := rfl
@[simp] theorem State.setCore_nextTransfer (s : State) (k : Nat) (f : Core → Core) : (s.setCore k f).nextTransfer = s.nextTransfer := rfl
@[simp] theorem State.setCore_dies (s : State) (k : Nat) (f : Core → Core) : (s.setCore k f).dies = s.dies := rfl
@[simp] theorem State.setCore_pkg (s : State) (k : Nat) (f : Core → Core) : (s.setCore k f).pkg = s.pkg := rfl
@[simp] theorem State.setCore_mem (s : State) (k : Nat) (f : Core → Core) : (s.setCore k f).mem = s.mem := rfl
@[simp] theorem State.setCore_poison (s : State) (k : Nat) (f : Core → Core) : (s.setCore k f).poison = s.poison := rfl
@[simp] theorem State.setCore_keys (s : State) (k : Nat) (f : Core → Core) : (s.setCore k f).keys = s.keys := rfl
@[simp] theorem State.setCore_turns (s : State) (k : Nat) (f : Core → Core) : (s.setCore k f).turns = s.turns := rfl
@[simp] theorem State.setCore_freeCtr (s : State) (k : Nat) (f : Core → Core) : (s.setCore k f).freeCtr = s.freeCtr := rfl
@[simp] theorem State.setCore_me (s : State) (k : Nat) (f : Core → Core) : (s.setCore k f).me = s.me := rfl

/-! ## setDie -/

@[simp] theorem State.setDie_others (s : State) (d : Nat) (f : Die → Die) : (s.setDie d f).others = s.others := rfl
@[simp] theorem State.setDie_cores (s : State) (d : Nat) (f : Die → Die) : (s.setDie d f).cores = s.cores := rfl
@[simp] theorem State.setDie_transfers (s : State) (d : Nat) (f : Die → Die) : (s.setDie d f).transfers = s.transfers := rfl
@[simp] theorem State.setDie_nextTransfer (s : State) (d : Nat) (f : Die → Die) : (s.setDie d f).nextTransfer = s.nextTransfer := rfl
@[simp] theorem State.setDie_pkg (s : State) (d : Nat) (f : Die → Die) : (s.setDie d f).pkg = s.pkg := rfl
@[simp] theorem State.setDie_mem (s : State) (d : Nat) (f : Die → Die) : (s.setDie d f).mem = s.mem := rfl
@[simp] theorem State.setDie_poison (s : State) (d : Nat) (f : Die → Die) : (s.setDie d f).poison = s.poison := rfl
@[simp] theorem State.setDie_keys (s : State) (d : Nat) (f : Die → Die) : (s.setDie d f).keys = s.keys := rfl
@[simp] theorem State.setDie_turns (s : State) (d : Nat) (f : Die → Die) : (s.setDie d f).turns = s.turns := rfl
@[simp] theorem State.setDie_freeCtr (s : State) (d : Nat) (f : Die → Die) : (s.setDie d f).freeCtr = s.freeCtr := rfl
@[simp] theorem State.setDie_me (s : State) (d : Nat) (f : Die → Die) : (s.setDie d f).me = s.me := rfl

/-! ## wait -/

@[simp] theorem State.wait_others (s : State) : (s.wait).others = s.others := rfl
@[simp] theorem State.wait_cores (s : State) : (s.wait).cores = s.cores := rfl
@[simp] theorem State.wait_transfers (s : State) : (s.wait).transfers = s.transfers := rfl
@[simp] theorem State.wait_nextTransfer (s : State) : (s.wait).nextTransfer = s.nextTransfer := rfl
@[simp] theorem State.wait_dies (s : State) : (s.wait).dies = s.dies := rfl
@[simp] theorem State.wait_pkg (s : State) : (s.wait).pkg = s.pkg := rfl
@[simp] theorem State.wait_mem (s : State) : (s.wait).mem = s.mem := rfl
@[simp] theorem State.wait_poison (s : State) : (s.wait).poison = s.poison := rfl
@[simp] theorem State.wait_keys (s : State) : (s.wait).keys = s.keys := rfl
@[simp] theorem State.wait_freeCtr (s : State) : (s.wait).freeCtr = s.freeCtr := rfl
@[simp] theorem State.wait_me (s : State) : (s.wait).me = s.me := rfl
@[simp] theorem State.wait_turns (s : State) : s.wait.turns = .advance s.me.id :: s.turns := rfl

end Sys2Proof.Machine
end

