-- ==== Sys2Proof/Laws/Contexts.lean ====
section
/-!
SUPPORT. The agents of the machine: which context a number names, and that making another agent the one that moves changes no context.
-/

namespace Sys2Proof.Machine

theorem findCtx_id (id : Nat) (cs : List Ctx) : (findCtx id cs).id = id := by
  induction cs with
  | nil => rfl
  | cons x r ih =>
    simp only [findCtx]
    split
    · assumption
    · exact ih

@[simp] theorem State.ctx_me (s : State) : s.ctx s.me.id = s.me := if_pos rfl

theorem State.ctx_id (s : State) (id : Nat) : (s.ctx id).id = id := by
  simp only [State.ctx]
  split
  · assumption
  · exact findCtx_id _ _

theorem findCtx_filter (id k : Nat) (cs : List Ctx) (h : k ≠ id) : findCtx k (cs.filter fun x => decide (x.id ≠ id)) = findCtx k cs := by
  induction cs with
  | nil => rfl
  | cons x r ih =>
    by_cases hx : x.id = id
    · rw [List.filter_cons_of_neg (by simp [hx]), ih]
      exact (if_neg fun e => h (e.symm.trans hx)).symm
    · rw [List.filter_cons_of_pos (by simp [hx])]
      simp only [findCtx, ih]

theorem findCtx_absent (id : Nat) (cs : List Ctx) (h : ∀ x ∈ cs, x.id ≠ id) : findCtx id cs = Ctx.vacant id := by
  induction cs with
  | nil => rfl
  | cons x r ih =>
    simp only [findCtx, if_neg (h x (by simp))]
    exact ih fun y hy => h y (by simp [hy])

theorem findCtx_place (c : Ctx) (k : Nat) (cs : List Ctx) (h : ∀ x ∈ cs, x.id ≠ c.id) :
    findCtx k (placeCtx c cs) = if k = c.id then c else findCtx k cs := by
  induction cs with
  | nil => simp only [placeCtx, findCtx, eq_comm]
  | cons x r ih =>
    have hx := h x (by simp)
    simp only [placeCtx]
    split
    · simp only [findCtx, eq_comm]
    · simp only [findCtx]
      rw [ih fun y hy => h y (by simp [hy])]
      by_cases hk : k = c.id
      · simp [hk, hx]
      · simp [hk]

/-- A list of contexts with one replaced. -/
theorem findCtx_insert (c : Ctx) (k : Nat) (cs : List Ctx) : findCtx k (insertCtx c cs) = if k = c.id then c else findCtx k cs := by
  have ha : ∀ x ∈ cs.filter fun x => decide (x.id ≠ c.id), x.id ≠ c.id := by
    intro x hx
    simpa using (List.mem_filter.mp hx).2
  simp only [insertCtx]
  split
  · rename_i h
    by_cases hk : k = c.id
    · rw [if_pos hk, hk, findCtx_absent _ _ ha]
      exact h.symm
    · rw [if_neg hk, findCtx_filter _ _ _ hk]
  · rw [findCtx_place _ _ _ ha]
    by_cases hk : k = c.id
    · simp [hk]
    · simp only [if_neg hk]
      exact findCtx_filter _ _ _ hk

/-- The agent that has been made the one that moves. -/
@[simp] theorem State.focus_me (s : State) (id : Nat) : (s.focus id).me = s.ctx id := by
  simp only [State.focus, State.ctx]
  split <;> rfl

@[simp] theorem State.focus_id (s : State) (id : Nat) : (s.focus id).me.id = id := by rw [State.focus_me]; exact s.ctx_id id

@[simp] theorem State.focus_self (s : State) : s.focus s.me.id = s := if_pos rfl

/-- Making another agent the one that moves changes no context. -/
@[simp] theorem State.ctx_focus (s : State) (id k : Nat) : (s.focus id).ctx k = s.ctx k := by
  by_cases h : s.me.id = id
  · simp [State.focus, h]
  · have hi : (s.focus id).me.id = id := s.focus_id id
    by_cases hk : k = id
    · subst hk
      have := State.ctx_me (s.focus k)
      rw [hi] at this
      rw [this, State.focus_me]
    · have h1 : (s.focus id).ctx k = findCtx k (s.focus id).others := by
        simp only [State.ctx, hi]
        exact if_neg fun e => hk e.symm
      rw [h1]
      have h2 : (s.focus id).others = insertCtx s.me (s.others.filter fun x => decide (x.id ≠ id)) := by simp only [State.focus, if_neg h]
      rw [h2, findCtx_insert, findCtx_filter _ _ _ hk]
      simp only [State.ctx]
      by_cases hm : k = s.me.id
      · rw [if_pos hm, if_pos hm.symm]
      · rw [if_neg hm, if_neg fun e => hm e.symm]

/-- It changes nothing but who moves. -/
theorem State.focus_frame (s : State) (id : Nat) : s.focus id = { s with me := (s.focus id).me, others := (s.focus id).others } := by
  simp only [State.focus]
  split <;> rfl

/-- An operation of another agent, in terms of that agent. -/
theorem State.onCtx_next (s t : State) (id : Nat) (f : State → Res) (h : f (s.focus id) = .next t) :
    s.onCtx id f = .next (t.focus s.me.id) := by simp only [State.onCtx, h]

/-- An operation that changes one context alone. -/
theorem State.modifyCtx_ctx (s : State) (id k : Nat) (f : Ctx → Ctx) (hf : (f (s.ctx id)).id = id) :
    (s.modifyCtx id f).ctx k = if k = id then f (s.ctx id) else s.ctx k := by
  by_cases h : s.me.id = id
  · subst h
    simp only [State.ctx_me] at hf ⊢
    simp only [State.modifyCtx, if_true, State.ctx, hf]
    by_cases hk : k = s.me.id
    · simp [hk]
    · simp only [if_neg hk, if_neg fun e => hk (Eq.symm e)]
  · have hx : s.ctx id = findCtx id s.others := if_neg h
    rw [hx] at hf ⊢
    simp only [State.modifyCtx, if_neg h, State.ctx, findCtx_insert, hf]
    by_cases hk : k = id
    · subst hk; simp [h]
    · simp [hk]

end Sys2Proof.Machine
end

