-- ==== Sys2Proof/Laws/Exec.lean ====
section
/-!
SUPPORT. One equation for each arm of Dispatch: what exec does with an instruction is its meaning. Proofs rewrite with these and never
unfold exec.
-/

namespace Sys2Proof.Machine

@[simp] theorem exec_add d a b s : exec (.add d a b) s = execAdd d a b s := rfl
@[simp] theorem exec_sub d a b s : exec (.sub d a b) s = execSub d a b s := rfl
@[simp] theorem exec_and d a b s : exec (.and d a b) s = execAnd d a b s := rfl
@[simp] theorem exec_or d a b s : exec (.or d a b) s = execOr d a b s := rfl
@[simp] theorem exec_xor d a b s : exec (.xor d a b) s = execXor d a b s := rfl
@[simp] theorem exec_shl d a b s : exec (.shl d a b) s = execShl d a b s := rfl
@[simp] theorem exec_shr d a b s : exec (.shr d a b) s = execShr d a b s := rfl
@[simp] theorem exec_sra d a b s : exec (.sra d a b) s = execSra d a b s := rfl
@[simp] theorem exec_slt d a b s : exec (.slt d a b) s = execSlt d a b s := rfl
@[simp] theorem exec_sltn d a b s : exec (.sltn d a b) s = execSltn d a b s := rfl
@[simp] theorem exec_minS d a b s : exec (.minS d a b) s = execMinS d a b s := rfl
@[simp] theorem exec_minZ d a b s : exec (.minZ d a b) s = execMinZ d a b s := rfl
@[simp] theorem exec_maxS d a b s : exec (.maxS d a b) s = execMaxS d a b s := rfl
@[simp] theorem exec_maxZ d a b s : exec (.maxZ d a b) s = execMaxZ d a b s := rfl
@[simp] theorem exec_mul d a b s : exec (.mul d a b) s = execMul d a b s := rfl
@[simp] theorem exec_mulhS d a b s : exec (.mulhS d a b) s = execMulhS d a b s := rfl
@[simp] theorem exec_mulhZ d a b s : exec (.mulhZ d a b) s = execMulhZ d a b s := rfl
@[simp] theorem exec_divS d a b s : exec (.divS d a b) s = execDivS d a b s := rfl
@[simp] theorem exec_divZ d a b s : exec (.divZ d a b) s = execDivZ d a b s := rfl
@[simp] theorem exec_remS d a b s : exec (.remS d a b) s = execRemS d a b s := rfl
@[simp] theorem exec_remZ d a b s : exec (.remZ d a b) s = execRemZ d a b s := rfl
@[simp] theorem exec_clz d a s : exec (.clz d a) s = execClz d a s := rfl
@[simp] theorem exec_ctz d a s : exec (.ctz d a) s = execCtz d a s := rfl
@[simp] theorem exec_popc d a s : exec (.popc d a) s = execPopc d a s := rfl
@[simp] theorem exec_bswap d a s : exec (.bswap d a) s = execBswap d a s := rfl
@[simp] theorem exec_fsh d a b s : exec (.fsh d a b) s = execFsh d a b s := rfl
@[simp] theorem exec_addi d a imm s : exec (.addi d a imm) s = execAddi d a imm s := rfl
@[simp] theorem exec_andi d a imm s : exec (.andi d a imm) s = execAndi d a imm s := rfl
@[simp] theorem exec_ori d a imm s : exec (.ori d a imm) s = execOri d a imm s := rfl
@[simp] theorem exec_xori d a imm s : exec (.xori d a imm) s = execXori d a imm s := rfl
@[simp] theorem exec_shli d a sh s : exec (.shli d a sh) s = execShli d a sh s := rfl
@[simp] theorem exec_shri d a sh s : exec (.shri d a sh) s = execShri d a sh s := rfl
@[simp] theorem exec_srai d a sh s : exec (.srai d a sh) s = execSrai d a sh s := rfl
@[simp] theorem exec_bfxZ d a pos len s : exec (.bfxZ d a pos len) s = execBfxZ d a pos len s := rfl
@[simp] theorem exec_bfxS d a pos len s : exec (.bfxS d a pos len) s = execBfxS d a pos len s := rfl
@[simp] theorem exec_bfi d a pos len s : exec (.bfi d a pos len) s = execBfi d a pos len s := rfl
@[simp] theorem exec_lui d imm s : exec (.lui d imm) s = execLui d imm s := rfl
@[simp] theorem exec_pcadd d imm s : exec (.pcadd d imm) s = execPcadd d imm s := rfl
@[simp] theorem exec_fadd d a b s : exec (.fadd d a b) s = execFadd d a b s := rfl
@[simp] theorem exec_fsub d a b s : exec (.fsub d a b) s = execFsub d a b s := rfl
@[simp] theorem exec_fmul d a b s : exec (.fmul d a b) s = execFmul d a b s := rfl
@[simp] theorem exec_fdiv d a b s : exec (.fdiv d a b) s = execFdiv d a b s := rfl
@[simp] theorem exec_fmin d a b s : exec (.fmin d a b) s = execFmin d a b s := rfl
@[simp] theorem exec_fmax d a b s : exec (.fmax d a b) s = execFmax d a b s := rfl
@[simp] theorem exec_fsqrt d a s : exec (.fsqrt d a) s = execFsqrt d a s := rfl
@[simp] theorem exec_fma d a b s : exec (.fma d a b) s = execFma d a b s := rfl
@[simp] theorem exec_fcmpEq d a b s : exec (.fcmpEq d a b) s = execFcmpEq d a b s := rfl
@[simp] theorem exec_fcmpLt d a b s : exec (.fcmpLt d a b) s = execFcmpLt d a b s := rfl
@[simp] theorem exec_fcmpLe d a b s : exec (.fcmpLe d a b) s = execFcmpLe d a b s := rfl
@[simp] theorem exec_fcmpUn d a b s : exec (.fcmpUn d a b) s = execFcmpUn d a b s := rfl
@[simp] theorem exec_fcvtFromF32 t d a s : exec (.fcvtFromF32 t d a) s = execFcvtFromF32 t d a s := rfl
@[simp] theorem exec_fcvtToF32 t d a s : exec (.fcvtToF32 t d a) s = execFcvtToF32 t d a s := rfl
@[simp] theorem exec_ldb sx acq off base d s : exec (.ldb sx acq off base d) s = execLdb sx acq off base d s := rfl
@[simp] theorem exec_ldh sx acq off base d s : exec (.ldh sx acq off base d) s = execLdh sx acq off base d s := rfl
@[simp] theorem exec_ldw sx acq off base d s : exec (.ldw sx acq off base d) s = execLdw sx acq off base d s := rfl
@[simp] theorem exec_ldd acq off base d s : exec (.ldd acq off base d) s = execLdd acq off base d s := rfl
@[simp] theorem exec_stb rel off base d s : exec (.stb rel off base d) s = execStb rel off base d s := rfl
@[simp] theorem exec_sth rel off base d s : exec (.sth rel off base d) s = execSth rel off base d s := rfl
@[simp] theorem exec_stw rel off base d s : exec (.stw rel off base d) s = execStw rel off base d s := rfl
@[simp] theorem exec_std rel off base d s : exec (.std rel off base d) s = execStd rel off base d s := rfl
@[simp] theorem exec_fence o sc s : exec (.fence o sc) s = execFence o sc s := rfl
@[simp] theorem exec_amoadd o sc wd val base d s : exec (.amoadd o sc wd val base d) s = execAmoadd o sc wd val base d s := rfl
@[simp] theorem exec_amoswp o sc wd val base d s : exec (.amoswp o sc wd val base d) s = execAmoswp o sc wd val base d s := rfl
@[simp] theorem exec_amocas o sc wd val base d s : exec (.amocas o sc wd val base d) s = execAmocas o sc wd val base d s := rfl
@[simp] theorem exec_amominS o sc wd val base d s : exec (.amominS o sc wd val base d) s = execAmominS o sc wd val base d s := rfl
@[simp] theorem exec_amominZ o sc wd val base d s : exec (.amominZ o sc wd val base d) s = execAmominZ o sc wd val base d s := rfl
@[simp] theorem exec_amomaxS o sc wd val base d s : exec (.amomaxS o sc wd val base d) s = execAmomaxS o sc wd val base d s := rfl
@[simp] theorem exec_amomaxZ o sc wd val base d s : exec (.amomaxZ o sc wd val base d) s = execAmomaxZ o sc wd val base d s := rfl
@[simp] theorem exec_amoand o sc wd val base d s : exec (.amoand o sc wd val base d) s = execAmoand o sc wd val base d s := rfl
@[simp] theorem exec_amoor o sc wd val base d s : exec (.amoor o sc wd val base d) s = execAmoor o sc wd val base d s := rfl
@[simp] theorem exec_amoxor o sc wd val base d s : exec (.amoxor o sc wd val base d) s = execAmoxor o sc wd val base d s := rfl
@[simp] theorem exec_beq a b off s : exec (.beq a b off) s = execBeq a b off s := rfl
@[simp] theorem exec_bne a b off s : exec (.bne a b off) s = execBne a b off s := rfl
@[simp] theorem exec_blt a b off s : exec (.blt a b off) s = execBlt a b off s := rfl
@[simp] theorem exec_bge a b off s : exec (.bge a b off) s = execBge a b off s := rfl
@[simp] theorem exec_bltn a b off s : exec (.bltn a b off) s = execBltn a b off s := rfl
@[simp] theorem exec_bgen a b off s : exec (.bgen a b off) s = execBgen a b off s := rfl
@[simp] theorem exec_jal d off s : exec (.jal d off) s = execJal d off s := rfl
@[simp] theorem exec_jalr d a imm s : exec (.jalr d a imm) s = execJalr d a imm s := rfl
@[simp] theorem exec_wcall n off s : exec (.wcall n off) s = execWcall n off s := rfl
@[simp] theorem exec_wret n s : exec (.wret n) s = execWret n s := rfl
@[simp] theorem exec_winb n s : exec (.winb n) s = execWinb n s := rfl
@[simp] theorem exec_rep st cnt fm s : exec (.rep st cnt fm) s = execRep st cnt fm s := rfl
@[simp] theorem exec_bkany k off s : exec (.bkany k off) s = execBkany k off s := rfl
@[simp] theorem exec_bknone k off s : exec (.bknone k off) s = execBknone k off s := rfl
@[simp] theorem exec_csrr d n s : exec (.csrr d n) s = execCsrr d n s := rfl
@[simp] theorem exec_csrw d a n s : exec (.csrw d a n) s = execCsrw d a n s := rfl
@[simp] theorem exec_csrset d a n s : exec (.csrset d a n) s = execCsrset d a n s := rfl
@[simp] theorem exec_csrclr d a n s : exec (.csrclr d a n) s = execCsrclr d a n s := rfl
@[simp] theorem exec_trap a s : exec (.trap a) s = execTrap a s := rfl
@[simp] theorem exec_wfe a s : exec (.wfe a) s = execWfe a s := rfl
@[simp] theorem exec_tlbinv a b s : exec (.tlbinv a b) s = execTlbinv a b s := rfl
@[simp] theorem exec_dcinv a b s : exec (.dcinv a b) s = execDcinv a b s := rfl
@[simp] theorem exec_freeze d a b s : exec (.freeze d a b) s = execFreeze d a b s := rfl
@[simp] theorem exec_launch d a b s : exec (.launch d a b) s = execLaunch d a b s := rfl
@[simp] theorem exec_lwait d a s : exec (.lwait d a) s = execLwait d a s := rfl
@[simp] theorem exec_vadd f m d a b s : exec (.vadd f m d a b) s = execVadd f m d a b s := rfl
@[simp] theorem exec_vsub f m d a b s : exec (.vsub f m d a b) s = execVsub f m d a b s := rfl
@[simp] theorem exec_vmul f m d a b s : exec (.vmul f m d a b) s = execVmul f m d a b s := rfl
@[simp] theorem exec_vdiv f m d a b s : exec (.vdiv f m d a b) s = execVdiv f m d a b s := rfl
@[simp] theorem exec_vmin f m d a b s : exec (.vmin f m d a b) s = execVmin f m d a b s := rfl
@[simp] theorem exec_vmax f m d a b s : exec (.vmax f m d a b) s = execVmax f m d a b s := rfl
@[simp] theorem exec_vfma f m d a b s : exec (.vfma f m d a b) s = execVfma f m d a b s := rfl
@[simp] theorem exec_vfms f m d a b s : exec (.vfms f m d a b) s = execVfms f m d a b s := rfl
@[simp] theorem exec_vsqrt m d a s : exec (.vsqrt m d a) s = execVsqrt m d a s := rfl
@[simp] theorem exec_vabs m d a s : exec (.vabs m d a) s = execVabs m d a s := rfl
@[simp] theorem exec_vneg m d a s : exec (.vneg m d a) s = execVneg m d a s := rfl
@[simp] theorem exec_vrcp m d a s : exec (.vrcp m d a) s = execVrcp m d a s := rfl
@[simp] theorem exec_vrsq m d a s : exec (.vrsq m d a) s = execVrsq m d a s := rfl
@[simp] theorem exec_vexp2 m d a s : exec (.vexp2 m d a) s = execVexp2 m d a s := rfl
@[simp] theorem exec_vlog2 m d a s : exec (.vlog2 m d a) s = execVlog2 m d a s := rfl
@[simp] theorem exec_vtanh m d a s : exec (.vtanh m d a) s = execVtanh m d a s := rfl
@[simp] theorem exec_vsigm m d a s : exec (.vsigm m d a) s = execVsigm m d a s := rfl
@[simp] theorem exec_vand f m d a b s : exec (.vand f m d a b) s = execVand f m d a b s := rfl
@[simp] theorem exec_vor f m d a b s : exec (.vor f m d a b) s = execVor f m d a b s := rfl
@[simp] theorem exec_vxor f m d a b s : exec (.vxor f m d a b) s = execVxor f m d a b s := rfl
@[simp] theorem exec_vshl f m d a b s : exec (.vshl f m d a b) s = execVshl f m d a b s := rfl
@[simp] theorem exec_vshr f m d a b s : exec (.vshr f m d a b) s = execVshr f m d a b s := rfl
@[simp] theorem exec_vsra f m d a b s : exec (.vsra f m d a b) s = execVsra f m d a b s := rfl
@[simp] theorem exec_vmulh f m d a b s : exec (.vmulh f m d a b) s = execVmulh f m d a b s := rfl
@[simp] theorem exec_vcmp f m cc kd a b s : exec (.vcmp f m cc kd a b) s = execVcmp f m cc kd a b s := rfl
@[simp] theorem exec_vsel f d a b s : exec (.vsel f d a b) s = execVsel f d a b s := rfl
@[simp] theorem exec_vcvt t m d a s : exec (.vcvt t m d a) s = execVcvt t m d a s := rfl
@[simp] theorem exec_vscl f m d a b s : exec (.vscl f m d a b) s = execVscl f m d a b s := rfl
@[simp] theorem exec_vblk g m d a s : exec (.vblk g m d a) s = execVblk g m d a s := rfl
@[simp] theorem exec_vrngRaw m d a s : exec (.vrngRaw m d a) s = execVrngRaw m d a s := rfl
@[simp] theorem exec_vrngUnif m d a s : exec (.vrngUnif m d a) s = execVrngUnif m d a s := rfl
@[simp] theorem exec_setvli d a req s : exec (.setvli d a req) s = execSetvli d a req s := rfl
@[simp] theorem exec_setvl d a b s : exec (.setvl d a b) s = execSetvl d a b s := rfl
@[simp] theorem exec_setel a s : exec (.setel a) s = execSetel a s := rfl
@[simp] theorem exec_vforce d s : exec (.vforce d) s = execVforce d s := rfl
@[simp] theorem exec_deadScalar d a s : exec (.deadScalar d a) s = execDeadScalar d a s := rfl
@[simp] theorem exec_deadVector d a s : exec (.deadVector d a) s = execDeadVector d a s := rfl
@[simp] theorem exec_deadMask d a s : exec (.deadMask d a) s = execDeadMask d a s := rfl
@[simp] theorem exec_kmeet d a b s : exec (.kmeet d a b) s = execKmeet d a b s := rfl
@[simp] theorem exec_kjoin d a b s : exec (.kjoin d a b) s = execKjoin d a b s := rfl
@[simp] theorem exec_kdiff d a b s : exec (.kdiff d a b) s = execKdiff d a b s := rfl
@[simp] theorem exec_kless d a b s : exec (.kless d a b) s = execKless d a b s := rfl
@[simp] theorem exec_kflip d a s : exec (.kflip d a) s = execKflip d a s := rfl
@[simp] theorem exec_kcopy d a s : exec (.kcopy d a) s = execKcopy d a s := rfl
@[simp] theorem exec_kmsk d a s : exec (.kmsk d a) s = execKmsk d a s := rfl
@[simp] theorem exec_kset d a s : exec (.kset d a) s = execKset d a s := rfl
@[simp] theorem exec_kpop d a s : exec (.kpop d a) s = execKpop d a s := rfl
@[simp] theorem exec_kfirst d a s : exec (.kfirst d a) s = execKfirst d a s := rfl
@[simp] theorem exec_vld m d base x s : exec (.vld m d base x) s = execVld m d base x s := rfl
@[simp] theorem exec_vlds m d base x s : exec (.vlds m d base x) s = execVlds m d base x s := rfl
@[simp] theorem exec_vldx m d base x s : exec (.vldx m d base x) s = execVldx m d base x s := rfl
@[simp] theorem exec_vldb m d base x s : exec (.vldb m d base x) s = execVldb m d base x s := rfl
@[simp] theorem exec_vst m d base x s : exec (.vst m d base x) s = execVst m d base x s := rfl
@[simp] theorem exec_vsts m d base x s : exec (.vsts m d base x) s = execVsts m d base x s := rfl
@[simp] theorem exec_vstx m d base x s : exec (.vstx m d base x) s = execVstx m d base x s := rfl
@[simp] theorem exec_vext d a b s : exec (.vext d a b) s = execVext d a b s := rfl
@[simp] theorem exec_vslup m d a b s : exec (.vslup m d a b) s = execVslup m d a b s := rfl
@[simp] theorem exec_vsldn m d a b s : exec (.vsldn m d a b) s = execVsldn m d a b s := rfl
@[simp] theorem exec_vperm m d a b s : exec (.vperm m d a b) s = execVperm m d a b s := rfl
@[simp] theorem exec_vcmpr m d a s : exec (.vcmpr m d a) s = execVcmpr m d a s := rfl
@[simp] theorem exec_vexpd m d a s : exec (.vexpd m d a) s = execVexpd m d a s := rfl
@[simp] theorem exec_vscan op m d a s : exec (.vscan op m d a) s = execVscan op m d a s := rfl
@[simp] theorem exec_vrsumo m d a s : exec (.vrsumo m d a) s = execVrsumo m d a s := rfl
@[simp] theorem exec_vrsumt m d a s : exec (.vrsumt m d a) s = execVrsumt m d a s := rfl
@[simp] theorem exec_vrmax m d a s : exec (.vrmax m d a) s = execVrmax m d a s := rfl
@[simp] theorem exec_vrmin m d a s : exec (.vrmin m d a) s = execVrmin m d a s := rfl
@[simp] theorem exec_vrargx m d a s : exec (.vrargx m d a) s = execVrargx m d a s := rfl
@[simp] theorem exec_vrbit op m d a s : exec (.vrbit op m d a) s = execVrbit op m d a s := rfl
@[simp] theorem exec_vpart d a s : exec (.vpart d a) s = execVpart d a s := rfl
@[simp] theorem exec_vlpld m d a b s : exec (.vlpld m d a b) s = execVlpld m d a b s := rfl
@[simp] theorem exec_vlpst m d a b s : exec (.vlpst m d a b) s = execVlpst m d a b s := rfl
@[simp] theorem exec_vlpstB m d b s : exec (.vlpstB m d b) s = execVlpstB m d b s := rfl
@[simp] theorem exec_cbld d a b s : exec (.cbld d a b) s = execCbld d a b s := rfl
@[simp] theorem exec_cbst d a b s : exec (.cbst d a b) s = execCbst d a b s := rfl
@[simp] theorem exec_cbwr d a b s : exec (.cbwr d a b) s = execCbwr d a b s := rfl
@[simp] theorem exec_cbrd d a b s : exec (.cbrd d a b) s = execCbrd d a b s := rfl
@[simp] theorem exec_cbval d a b s : exec (.cbval d a b) s = execCbval d a b s := rfl
@[simp] theorem exec_cbselB d s : exec (.cbselB d) s = execCbselB d s := rfl
@[simp] theorem exec_cbselM d s : exec (.cbselM d) s = execCbselM d s := rfl
@[simp] theorem exec_vcbx d a b s : exec (.vcbx d a b) s = execVcbx d a b s := rfl
@[simp] theorem exec_comba c acc a b s : exec (.comba c acc a b) s = execComba c acc a b s := rfl
@[simp] theorem exec_combs c acc a b s : exec (.combs c acc a b) s = execCombs c acc a b s := rfl
@[simp] theorem exec_combi acc a b s : exec (.combi acc a b) s = execCombi acc a b s := rfl
@[simp] theorem exec_msetvl d a s : exec (.msetvl d a) s = execMsetvl d a s := rfl
@[simp] theorem exec_mzero d s : exec (.mzero d) s = execMzero d s := rfl
@[simp] theorem exec_mrdr d a b s : exec (.mrdr d a b) s = execMrdr d a b s := rfl
@[simp] theorem exec_mrdc d a b s : exec (.mrdc d a b) s = execMrdc d a b s := rfl
@[simp] theorem exec_mwrr d a b s : exec (.mwrr d a b) s = execMwrr d a b s := rfl
@[simp] theorem exec_mld d a b s : exec (.mld d a b) s = execMld d a b s := rfl
@[simp] theorem exec_mst d a b s : exec (.mst d a b) s = execMst d a b s := rfl
@[simp] theorem exec_smode d a s : exec (.smode d a) s = execSmode d a s := rfl
@[simp] theorem exec_sexit d s : exec (.sexit d) s = execSexit d s := rfl
@[simp] theorem exec_sprog d a s : exec (.sprog d a) s = execSprog d a s := rfl
@[simp] theorem exec_cvset d a b s : exec (.cvset d a b) s = execCvset d a b s := rfl
@[simp] theorem exec_cvwt d a s : exec (.cvwt d a) s = execCvwt d a s := rfl
@[simp] theorem exec_cvprb d a b s : exec (.cvprb d a b) s = execCvprb d a b s := rfl
@[simp] theorem exec_cvprbb d a n b s : exec (.cvprbb d a n b) s = execCvprbb d a n b s := rfl
@[simp] theorem exec_cvcom d a s : exec (.cvcom d a) s = execCvcom d a s := rfl
@[simp] theorem exec_cvsel d a b s : exec (.cvsel d a b) s = execCvsel d a b s := rfl
@[simp] theorem exec_cvrd d a b s : exec (.cvrd d a b) s = execCvrd d a b s := rfl
@[simp] theorem exec_bxfer g d a b s : exec (.bxfer g d a b) s = execBxfer g d a b s := rfl
@[simp] theorem exec_bbini a b s : exec (.bbini a b) s = execBbini a b s := rfl
@[simp] theorem exec_bbexp a b s : exec (.bbexp a b) s = execBbexp a b s := rfl
@[simp] theorem exec_bbarv a b s : exec (.bbarv a b) s = execBbarv a b s := rfl
@[simp] theorem exec_bbwait d a b s : exec (.bbwait d a b) s = execBbwait d a b s := rfl
@[simp] theorem exec_bbtest d a b s : exec (.bbtest d a b) s = execBbtest d a b s := rfl
@[simp] theorem exec_vldc m d base x s : exec (.vldc m d base x) s = execVldc m d base x s := rfl
@[simp] theorem exec_bar sc s : exec (.bar sc) s = execBar sc s := rfl
@[simp] theorem exec_bind d a b s : exec (.bind d a b) s = execBind d a b s := rfl
@[simp] theorem exec_unbind a s : exec (.unbind a) s = execUnbind a s := rfl
@[simp] theorem exec_nop h s : exec (.nop h) s = execNop h s := rfl
@[simp] theorem exec_passTake c s : exec (.passTake c) s = execPassTake c s := rfl
@[simp] theorem exec_stripDispatch core g s : exec (.stripDispatch core g) s = execStripDispatch core g s := rfl
@[simp] theorem exec_stripFinish core g s : exec (.stripFinish core g) s = execStripFinish core g s := rfl
@[simp] theorem exec_sinkComplete c s : exec (.sinkComplete c) s = execSinkComplete c s := rfl
@[simp] theorem exec_implicitMaterialisation c s : exec (.implicitMaterialisation c) s = execImplicitMaterialisation c s := rfl
@[simp] theorem exec_coreParityError core e s : exec (.coreParityError core e) s = execCoreParityError core e s := rfl
@[simp] theorem exec_combStepCommit c s : exec (.combStepCommit c) s = execCombStepCommit c s := rfl
@[simp] theorem exec_streamRowFetch c v s : exec (.streamRowFetch c v) s = execStreamRowFetch c v s := rfl
@[simp] theorem exec_streamRowArrive c v s : exec (.streamRowArrive c v) s = execStreamRowArrive c v s := rfl
@[simp] theorem exec_pageWalk c va write s : exec (.pageWalk c va write) s = execPageWalk c va write s := rfl
@[simp] theorem exec_foragerLaunch c s : exec (.foragerLaunch c) s = execForagerLaunch c s := rfl
@[simp] theorem exec_foragerChunkLand x chunk s : exec (.foragerChunkLand x chunk) s = execForagerChunkLand x chunk s := rfl
@[simp] theorem exec_barEpisodeComplete c s : exec (.barEpisodeComplete c) s = execBarEpisodeComplete c s := rfl
@[simp] theorem exec_bbwaitComplete c s : exec (.bbwaitComplete c) s = execBbwaitComplete c s := rfl
@[simp] theorem exec_wfeWake c s : exec (.wfeWake c) s = execWfeWake c s := rfl
@[simp] theorem exec_wfeTimeout c s : exec (.wfeTimeout c) s = execWfeTimeout c s := rfl
@[simp] theorem exec_yieldComplete c s : exec (.yieldComplete c) s = execYieldComplete c s := rfl
@[simp] theorem exec_meshFlitResend core dir s : exec (.meshFlitResend core dir) s = execMeshFlitResend core dir s := rfl
@[simp] theorem exec_meshLinkFail core dir s : exec (.meshLinkFail core dir) s = execMeshLinkFail core dir s := rfl
@[simp] theorem exec_foragerBufferParity x chunk s : exec (.foragerBufferParity x chunk) s = execForagerBufferParity x chunk s := rfl
@[simp] theorem exec_barrierWireParity c s : exec (.barrierWireParity c) s = execBarrierWireParity c s := rfl
@[simp] theorem exec_eccError pa uncorrectable s : exec (.eccError pa uncorrectable) s = execEccError pa uncorrectable s := rfl
@[simp] theorem exec_launchPlace die s : exec (.launchPlace die) s = execLaunchPlace die s := rfl
@[simp] theorem exec_complete die seq s : exec (.complete die seq) s = execComplete die seq s := rfl
@[simp] theorem exec_nurseFailure die s : exec (.nurseFailure die) s = execNurseFailure die s := rfl
@[simp] theorem exec_launchMessage die tenant msg s : exec (.launchMessage die tenant msg) s = execLaunchMessage die tenant msg s := rfl
@[simp] theorem exec_answer die tenant msg s : exec (.answer die tenant msg) s = execAnswer die tenant msg s := rfl
@[simp] theorem exec_freezeMessage die tenant msg s : exec (.freezeMessage die tenant msg) s = execFreezeMessage die tenant msg s := rfl
@[simp] theorem exec_tenantCreate tenant dies s : exec (.tenantCreate tenant dies) s = execTenantCreate tenant dies s := rfl
@[simp] theorem exec_tenantTeardown die tenant s : exec (.tenantTeardown die tenant) s = execTenantTeardown die tenant s := rfl
@[simp] theorem exec_tenantRecordWrite die tenant field value s : exec (.tenantRecordWrite die tenant field value) s = execTenantRecordWrite die tenant field value s := rfl
@[simp] theorem exec_podRequestAccept ptid offset access s : exec (.podRequestAccept ptid offset access) s = execPodRequestAccept ptid offset access s := rfl
@[simp] theorem exec_podAck req ok data s : exec (.podAck req ok data) s = execPodAck req ok data s := rfl
@[simp] theorem exec_podTimeout req s : exec (.podTimeout req) s = execPodTimeout req s := rfl
@[simp] theorem exec_performAtHome core k s : exec (.performAtHome core k) s = execPerformAtHome core k s := rfl
@[simp] theorem exec_scrub die s : exec (.scrub die) s = execScrub die s := rfl
@[simp] theorem exec_dirty die tenant msg s : exec (.dirty die tenant msg) s = execDirty die tenant msg s := rfl
@[simp] theorem exec_attest die tenant msg s : exec (.attest die tenant msg) s = execAttest die tenant msg s := rfl
@[simp] theorem exec_podidWrite value s : exec (.podidWrite value) s = execPodidWrite value s := rfl
@[simp] theorem exec_grantWrite tenant cmd s : exec (.grantWrite tenant cmd) s = execGrantWrite tenant cmd s := rfl
@[simp] theorem exec_linkGraphWrite tenant graph bytes s : exec (.linkGraphWrite tenant graph bytes) s = execLinkGraphWrite tenant graph bytes s := rfl
@[simp] theorem exec_waggleConfigure ctl start base slots s : exec (.waggleConfigure ctl start base slots) s = execWaggleConfigure ctl start base slots s := rfl
@[simp] theorem exec_skctlWrite die unit value s : exec (.skctlWrite die unit value) s = execSkctlWrite die unit value s := rfl
@[simp] theorem exec_registerWrite die reg value s : exec (.registerWrite die reg value) s = execRegisterWrite die reg value s := rfl
@[simp] theorem exec_waggleSample tick s : exec (.waggleSample tick) s = execWaggleSample tick s := rfl
@[simp] theorem exec_linkCrcError l seq s : exec (.linkCrcError l seq) s = execLinkCrcError l seq s := rfl
@[simp] theorem exec_slotReturn l ch k s : exec (.slotReturn l ch k) s = execSlotReturn l ch k s := rfl
@[simp] theorem exec_auditSend l ch s : exec (.auditSend l ch) s = execAuditSend l ch s := rfl
@[simp] theorem exec_auditReceive l ch parityOk s : exec (.auditReceive l ch parityOk) s = execAuditReceive l ch parityOk s := rfl
@[simp] theorem exec_retrain l s : exec (.retrain l) s = execRetrain l s := rfl
@[simp] theorem exec_retrainComplete l s : exec (.retrainComplete l) s = execRetrainComplete l s := rfl
@[simp] theorem exec_linkLost l s : exec (.linkLost l) s = execLinkLost l s := rfl
@[simp] theorem exec_slotReclaim l ch s : exec (.slotReclaim l ch) s = execSlotReclaim l ch s := rfl
@[simp] theorem exec_powerSample die exceeds riseOk s : exec (.powerSample die exceeds riseOk) s = execPowerSample die exceeds riseOk s := rfl
@[simp] theorem exec_monitorReading die readings s : exec (.monitorReading die readings) s = execMonitorReading die readings s := rfl
@[simp] theorem exec_boot die signatureOk s : exec (.boot die signatureOk) s = execBoot die signatureOk s := rfl
@[simp] theorem exec_flitAcknowledgement l seq s : exec (.flitAcknowledgement l seq) s = execFlitAcknowledgement l seq s := rfl
@[simp] theorem exec_eret s : exec .eret s = execEret s := rfl
@[simp] theorem exec_yield s : exec .yield s = execYield s := rfl
@[simp] theorem exec_brk s : exec .brk s = execBrk s := rfl
@[simp] theorem exec_dcwb s : exec .dcwb s = execDcwb s := rfl
@[simp] theorem exec_halt s : exec .halt s = execHalt s := rfl
@[simp] theorem exec_cbselNb s : exec .cbselNb s = execCbselNb s := rfl
@[simp] theorem exec_cbselNm s : exec .cbselNm s = execCbselNm s := rfl
@[simp] theorem exec_cbfence s : exec .cbfence s = execCbfence s := rfl
@[simp] theorem exec_railCut s : exec .railCut s = execRailCut s := rfl
@[simp] theorem exec_undefinedWord s : exec .undefinedWord s = execUndefinedWord s := rfl
@[simp] theorem exec_fetchFault s : exec .fetchFault s = execFetchFault s := rfl

end Sys2Proof.Machine
end

