-- ==== Sys2Proof/Laws/Sparse.lean ====
section
/-!
SUPPORT. Maps in canonical form: what a read gives after a write, and that every operation keeps the form.
-/

namespace Sys2Proof

variable {α : Type}

@[simp] theorem Sparse.get_nil (d : α) (a : Nat) : Sparse.get d [] a = d := rfl

/-- An entry taken away leaves its key at the default. -/
theorem Sparse.get_remove_same (d : α) (m : List (Nat × α)) (a : Nat) :
    Sparse.get d (m.filter fun e => decide (e.1 ≠ a)) a = d := by
  induction m with
  | nil => rfl
  | cons e r ih =>
    by_cases h : e.1 = a
    · simpa [List.filter_cons, h] using ih
    · have h' : a ≠ e.1 := fun x => h x.symm
      simp only [List.filter_cons, ne_eq, h, not_false_eq_true, decide_true, if_true, Sparse.get, h', if_false]
      exact ih

/-- An entry taken away leaves every other key alone. -/
theorem Sparse.get_remove_other (d : α) (m : List (Nat × α)) (a b : Nat) (hab : b ≠ a) :
    Sparse.get d (m.filter fun e => decide (e.1 ≠ a)) b = Sparse.get d m b := by
  induction m with
  | nil => rfl
  | cons e r ih =>
    by_cases h : e.1 = a
    · have h' : b ≠ e.1 := by omega
      simp only [List.filter_cons, ne_eq, h, not_true_eq_false, decide_false, Bool.false_eq_true, if_false, Sparse.get]
      rw [if_neg hab]
      exact ih
    · simp only [List.filter_cons, ne_eq, h, not_false_eq_true, decide_true, if_true, Sparse.get, ih]

/-- A new entry is read at its key, where no other entry has it. -/
theorem Sparse.get_insert (d : α) (a b : Nat) (v : α) (m : List (Nat × α)) (hm : ∀ e ∈ m, e.1 ≠ a) :
    Sparse.get d (Sparse.insert a v m) b = if b = a then v else Sparse.get d m b := by
  induction m with
  | nil => rfl
  | cons e r ih =>
    have he : e.1 ≠ a := hm e (by simp)
    simp only [Sparse.insert]
    split
    · rfl
    · simp only [Sparse.get]
      split
      · rename_i hb
        have : b ≠ a := by omega
        simp [this]
      · exact ih fun x hx => hm x (by simp [hx])

/-- A read at the key written gives the value written. -/
theorem Sparse.get_set_same [DecidableEq α] (d : α) (m : List (Nat × α)) (a : Nat) (v : α) :
    Sparse.get d (Sparse.set d m a v) a = v := by
  simp only [Sparse.set]
  split
  · rename_i h
    rw [h]
    exact Sparse.get_remove_same d m a
  · rw [Sparse.get_insert d a a v _ (by simp), if_pos rfl]

/-- A write leaves every other key alone. -/
theorem Sparse.get_set_other [DecidableEq α] (d : α) (m : List (Nat × α)) (a b : Nat) (v : α) (hab : b ≠ a) :
    Sparse.get d (Sparse.set d m a v) b = Sparse.get d m b := by
  simp only [Sparse.set]
  split
  · exact Sparse.get_remove_other d m a b hab
  · rw [Sparse.get_insert d a b v _ (by simp), if_neg hab, Sparse.get_remove_other d m a b hab]

/-- A lower bound of the keys may be lowered. -/
theorem Sparse.above_mono [DecidableEq α] (d : α) (m : List (Nat × α)) {lo hi : Nat} (h : lo ≤ hi)
    (hm : Sparse.above d hi m = true) : Sparse.above d lo m = true := by
  cases m with
  | nil => rfl
  | cons e r =>
    simp only [Sparse.above, Bool.and_eq_true, decide_eq_true_eq] at hm ⊢
    exact ⟨⟨by omega, hm.1.2⟩, hm.2⟩

/-- Entries taken away keep the canonical form. -/
theorem Sparse.above_filter [DecidableEq α] (d : α) (p : Nat × α → Bool) (m : List (Nat × α)) (lo : Nat)
    (hm : Sparse.above d lo m = true) : Sparse.above d lo (m.filter p) = true := by
  induction m generalizing lo with
  | nil => rfl
  | cons e r ih =>
    simp only [Sparse.above, Bool.and_eq_true, decide_eq_true_eq] at hm
    simp only [List.filter_cons]
    split
    · simp only [Sparse.above, Bool.and_eq_true, decide_eq_true_eq]
      exact ⟨hm.1, ih _ hm.2⟩
    · exact Sparse.above_mono d _ (by omega) (ih _ hm.2)

/-- A new entry keeps the canonical form. -/
theorem Sparse.above_insert [DecidableEq α] (d : α) (a : Nat) (v : α) (m : List (Nat × α)) (lo : Nat) (ha : lo ≤ a) (hv : v ≠ d)
    (hk : ∀ e ∈ m, e.1 ≠ a) (hm : Sparse.above d lo m = true) : Sparse.above d lo (Sparse.insert a v m) = true := by
  induction m generalizing lo with
  | nil => simp [Sparse.insert, Sparse.above, ha, hv]
  | cons e r ih =>
    have he : e.1 ≠ a := hk e (by simp)
    simp only [Sparse.above, Bool.and_eq_true, decide_eq_true_eq] at hm
    simp only [Sparse.insert]
    split
    · simp only [Sparse.above, Bool.and_eq_true, decide_eq_true_eq]
      exact ⟨⟨ha, hv⟩, ⟨by omega, hm.1.2⟩, hm.2⟩
    · simp only [Sparse.above, Bool.and_eq_true, decide_eq_true_eq]
      exact ⟨hm.1, ih (e.1 + 1) (by omega) (fun x hx => hk x (by simp [hx])) hm.2⟩

/-- A write keeps the canonical form. -/
theorem Sparse.wf_set [DecidableEq α] (d : α) (m : List (Nat × α)) (a : Nat) (v : α) (hm : Sparse.wf d m = true) :
    Sparse.wf d (Sparse.set d m a v) = true := by
  have hf := Sparse.above_filter d (fun e => decide (e.1 ≠ a)) m 0 hm
  simp only [Sparse.set, Sparse.wf]
  split
  · exact hf
  · rename_i hv
    exact Sparse.above_insert d a v _ 0 (Nat.zero_le a) hv (by simp) hf

/-- A run of writes keeps the canonical form. -/
theorem Sparse.wf_setRun [DecidableEq α] (d : α) (vs : List α) (m : List (Nat × α)) (a : Nat) (hm : Sparse.wf d m = true) :
    Sparse.wf d (Sparse.setRun d m a vs) = true := by
  induction vs generalizing m a with
  | nil => exact hm
  | cons v r ih => exact ih _ _ (Sparse.wf_set d m a v hm)

/-- A run of keys set to the default keeps the canonical form. -/
theorem Sparse.wf_clearRun [DecidableEq α] (d : α) (m : List (Nat × α)) (a n : Nat) (hm : Sparse.wf d m = true) :
    Sparse.wf d (Sparse.clearRun m a n) = true :=
  Sparse.above_filter d _ m 0 hm

/-- A run of writes leaves the keys outside the run alone. -/
theorem Sparse.get_setRun_other [DecidableEq α] (d : α) (vs : List α) (m : List (Nat × α)) (a b : Nat)
    (h : b < a ∨ a + vs.length ≤ b) : Sparse.get d (Sparse.setRun d m a vs) b = Sparse.get d m b := by
  induction vs generalizing m a with
  | nil => rfl
  | cons v r ih =>
    simp only [List.length_cons] at h
    simp only [Sparse.setRun]
    rw [ih _ _ (by omega), Sparse.get_set_other d m a b v (by omega)]

/-- A read inside a run of writes gives the value written there. -/
theorem Sparse.get_setRun_inside [DecidableEq α] (d : α) (vs : List α) (m : List (Nat × α)) (a i : Nat)
    (hi : i < vs.length) : Sparse.get d (Sparse.setRun d m a vs) (a + i) = vs[i] := by
  induction vs generalizing m a i with
  | nil => exact absurd hi (Nat.not_lt_zero i)
  | cons v r ih =>
    simp only [Sparse.setRun]
    cases i with
    | zero =>
      rw [Sparse.get_setRun_other d r _ (a + 1) (a + 0) (by omega)]
      exact Sparse.get_set_same d m a v
    | succ j =>
      have := ih (Sparse.set d m a v) (a + 1) j (by simpa using hi)
      simpa [Nat.add_assoc, Nat.add_comm 1 j] using this

/-- A read of a run that was just written gives the values written. -/
theorem Sparse.getRun_setRun_same [DecidableEq α] (d : α) (vs : List α) (m : List (Nat × α)) (a : Nat) : Sparse.getRun d (Sparse.setRun d m a vs) a vs.length = vs := by
  have aux : ∀ (vs : List α) (m : List (Nat × α)) (a : Nat), (∀ i (h : i < vs.length), Sparse.get d m (a + i) = vs[i]) →
      Sparse.getRun d m a vs.length = vs := by
    intro vs
    induction vs with
    | nil => intros; rfl
    | cons v r ih =>
      intro m a h
      simp only [List.length_cons, Sparse.getRun]
      have h0 := h 0 (by simp)
      simp only [Nat.add_zero, List.getElem_cons_zero] at h0
      rw [h0]
      congr 1
      refine ih m (a + 1) fun i hi => ?_
      have := h (i + 1) (by simpa using hi)
      simpa [Nat.add_assoc, Nat.add_comm 1 i] using this
  exact aux vs _ a fun i hi => Sparse.get_setRun_inside d vs m a i hi

end Sys2Proof
end

