-- ==== Sys2Proof/Laws/Memory.lean ====
section
/-!
SUPPORT. Every operation that writes memory keeps its canonical form, and what a byte reads after a write at its home.
-/

namespace Sys2Proof.Machine

/-- Reset memory is canonical. -/
theorem Memory.wf_reset : Memory.wf State.reset.mem = true := rfl

/-! ## Traffic and counters change no byte -/

@[simp] theorem State.sketchEvent_mem (s : State) (c : Ctx) (pc : Word) (e w : Nat) : (s.sketchEvent c pc e w).mem = s.mem := by
  simp only [State.sketchEvent]
  split <;> rfl

@[simp] theorem State.sketchEvent_keys (s : State) (c : Ctx) (pc : Word) (e w : Nat) : (s.sketchEvent c pc e w).keys = s.keys := by
  simp only [State.sketchEvent]
  split <;> rfl

/-- What traffic on the links leaves: memory and its keys as they were. -/
theorem foldl_mem {α : Type} (f : State → α → State) (hf : ∀ s x, (f s x).mem = s.mem) (l : List α) :
    ∀ s : State, (l.foldl f s).mem = s.mem := by
  induction l with
  | nil => exact fun _ => rfl
  | cons x r ih => exact fun s => (ih _).trans (hf s x)

@[simp] theorem State.carry_mem (s : State) (a d : Nat) (c : Channel) : (s.carry a d c).mem = s.mem := by
  unfold State.carry
  generalize (s.route a d).getD [] = l
  induction l generalizing s with
  | nil => rfl
  | cons x r ih => exact ih _

@[simp] theorem State.trip_mem (s : State) (a d : Nat) (c : Channel) : (s.trip a d c).mem = s.mem := by
  simp only [State.trip]
  split <;> simp

@[simp] theorem State.dramBytes_mem (s : State) (c : Ctx) (pc : Word) (pa n : Nat) (w : Bool) : (s.dramBytes c pc pa n w).mem = s.mem := by
  simp only [State.dramBytes]
  split
  · split <;> simp [State.setDie]
  · rfl

@[simp] theorem State.keepOld_mem (s : State) (pa n : Nat) : (s.keepOld pa n).mem = s.mem := by
  refine foldl_mem _ (fun s d => ?_) (List.range 4) s
  split <;> rfl

@[simp] theorem State.walkTraffic_mem (s : State) (c : Ctx) (as : List Nat) : (s.walkTraffic c as).mem = s.mem :=
  foldl_mem _ (fun _ _ => by simp) _ s

@[simp] theorem State.adTraffic_mem (s : State) (c : Ctx) (pte : Nat) (w : Bool) : (s.adTraffic c pte w).mem = s.mem := by
  show (if _ then s else _).mem = s.mem
  rw [apply_ite State.mem]
  simp

/-! ## The canonical form -/

theorem State.performBytes_wf (s : State) (pa : Nat) (data : List Byte) (p : Bool) (h : Memory.wf s.mem = true) :
    Memory.wf (s.performBytes pa data p).mem = true := Sparse.wf_setRun _ _ _ _ h

theorem State.setDirty_wf (s : State) (die tenant pa : Nat) (h : Memory.wf s.mem = true) :
    Memory.wf (s.setDirty die tenant pa).mem = true := by
  simp only [State.setDirty]
  split
  · exact h
  · exact Sparse.wf_set _ _ _ _ h

/-- An operation repeated over a list keeps the form if each keeps it. -/
theorem foldl_wf {α : Type} (f : State → α → State) (hf : ∀ s x, Memory.wf s.mem = true → Memory.wf (f s x).mem = true) (l : List α) :
    ∀ s : State, Memory.wf s.mem = true → Memory.wf (l.foldl f s).mem = true := by
  induction l with
  | nil => exact fun _ h => h
  | cons x r ih => exact fun s h => ih _ (hf s x h)

theorem State.setDirtyRun_wf (s : State) (die tenant pa n : Nat) (h : Memory.wf s.mem = true) :
    Memory.wf (s.setDirtyRun die tenant pa n).mem = true := by
  simp only [State.setDirtyRun]
  split
  · exact h
  · exact foldl_wf _ (fun s _ h => s.setDirty_wf _ _ _ h) _ s h

theorem State.takeLine_wf (s : State) (tenant line : Nat) (h : Memory.wf s.mem = true) : Memory.wf (s.takeLine tenant line).mem = true := by
  simp only [State.takeLine]
  split
  · exact h
  · show Memory.wf (if _ then s else _).mem = true
    split
    · exact h
    · exact Sparse.wf_setRun _ _ _ _ h

theorem State.takeLines_wf (s : State) (tenant pa n : Nat) (h : Memory.wf s.mem = true) : Memory.wf (s.takeLines tenant pa n).mem = true :=
  foldl_wf _ (fun s _ h => s.takeLine_wf _ _ h) _ s h

theorem State.performAs_wf (s : State) (c : Ctx) (pa : Nat) (data : List Byte) (p : Bool) (h : Memory.wf s.mem = true) :
    Memory.wf (s.performAs c pa data p).mem = true := by
  simp only [State.performAs]
  split
  · exact s.performBytes_wf pa data p h
  · rw [State.dramBytes_mem]
    refine State.performBytes_wf _ pa data p (State.takeLines_wf _ _ _ _ ?_)
    rw [State.keepOld_mem]
    exact s.setDirtyRun_wf _ _ _ _ h

theorem State.trace_wf (s : State) (die kind : Nat) (addr el : Word) (name : List Byte) (h : Memory.wf s.mem = true) :
    Memory.wf (s.trace die kind addr el name).mem = true := by
  simp only [State.trace]
  split
  · exact h
  · exact Sparse.wf_setRun _ _ _ _ h

theorem State.reportAt_wf (s : State) (k : ReportKind) (die place : Nat) (addr : Word) (name : List Byte) (data : List Nat)
    (h : Memory.wf s.mem = true) : Memory.wf (s.reportAt k die place addr name data).mem = true := by
  simp only [State.reportAt]
  show Memory.wf (if _ then _ else s).mem = true
  split
  · exact s.trace_wf _ _ _ _ _ h
  · exact h

theorem State.use_wf (s : State) (c : Ctx) (x : Xlat) (k : Access) (h : Memory.wf s.mem = true) :
    Memory.wf (s.use c x k).mem = true := by
  have hAD : Memory.wf (((s.walkTraffic c (s.readsFor c x.va k)).adTraffic c x.entry.pte k.writes).setAD x.entry.pte k.writes).mem = true :=
    State.performBytes_wf _ _ _ _ (by simpa using h)
  simp only [State.use]
  split
  · exact h
  · by_cases hf : x.found = 2 <;> cases x.drew <;> simp only [hf, if_true, if_false, Bool.false_eq_true] <;> first | exact hAD | exact h

/-! ## What a byte reads after a write -/

/-- A byte written at its home reads the value written. -/
theorem State.performBytes_inside (s : State) (pa : Nat) (data : List Byte) (p : Bool) (i : Nat) (hi : i < data.length) :
    Sparse.get 0 (s.performBytes pa data p).mem (pa + i) = data[i] := Sparse.get_setRun_inside 0 data s.mem pa i hi

/-- Every other byte reads as before. -/
theorem State.performBytes_other (s : State) (pa a : Nat) (data : List Byte) (p : Bool) (h : a < pa ∨ pa + data.length ≤ a) :
    Sparse.get 0 (s.performBytes pa data p).mem a = Sparse.get 0 s.mem a := Sparse.get_setRun_other 0 data s.mem pa a h

/-- A run written at its home reads back. -/
theorem State.performBytes_home (s : State) (pa : Nat) (data : List Byte) (p : Bool) :
    (s.performBytes pa data p).home pa data.length = data := Sparse.getRun_setRun_same 0 data s.mem pa

/-- A tenant reads its own line, and a line under no key, in plaintext (22 R433). -/
theorem State.plain_own (s : State) (tenant pa : Nat)
    (h : Sparse.get 0 s.keys (pa / 64) = 0 ∨ Sparse.get 0 s.keys (pa / 64) = s.keyOf tenant pa) : s.plain tenant pa = Sparse.get 0 s.mem pa := by
  by_cases h0 : Sparse.get 0 s.keys (pa / 64) = 0
  · exact if_pos h0
  · exact (if_neg h0).trans (if_pos (h.resolve_left h0))

/-- A write at a home changes no register. -/
theorem State.performBytes_regs (s : State) (pa : Nat) (data : List Byte) (p : Bool) : (s.performBytes pa data p).me.a = s.me.a := by
  have : ∀ (ls : List Nat) (c : Ctx), (ls.foldl (fun c l => Ctx.lineWritten l c) c).a = c.a := by
    intro ls
    induction ls with
    | nil => exact fun _ => rfl
    | cons l r ih =>
      intro c
      refine (ih _).trans ?_
      simp only [Ctx.lineWritten]
      split <;> first | rfl | (split <;> rfl)
  exact this _ _

end Sys2Proof.Machine
end

