-- ==== Sys2Proof/Laws/Registers.lean ====
section
/-!
SUPPORT. The scalar window: what a register reads after a write, and what the shared operations on it do (01 R12 to R15, R33,
04 R119, 05 R126).
-/

namespace Sys2Proof.Machine

/-- s0 reads 0 (01 R12). -/
@[simp] theorem Arch.reg_zero (a : Arch) : a.reg 0 = 0 := rfl

/-- A write to s0 is discarded (05 R126). -/
@[simp] theorem Arch.setReg_zero (a : Arch) (v : Word) : a.setReg 0 v = a := rfl

/-- Different names are different physical registers (01 R13). -/
theorem Arch.phys_inj (a : Arch) (m n : SReg) (h : a.phys m = a.phys n) : m = n := by
  have hm := m.isLt
  have hn := n.isLt
  simp only [Arch.phys] at h
  exact BitVec.eq_of_toNat_eq (by omega)

/-- A physical register is one of 512. -/
theorem Arch.phys_lt (a : Arch) (n : SReg) : a.phys n < 512 := Nat.mod_lt _ (by decide)

/-- A write changes neither the window nor a CSR. -/
@[simp] theorem Arch.setPhys_csr (a : Arch) (p : Nat) (v : Word) : (a.setPhys p v).csr = a.csr := rfl
@[simp] theorem Arch.setPhys_pc (a : Arch) (p : Nat) (v : Word) : (a.setPhys p v).pc = a.pc := rfl
@[simp] theorem Arch.setPhys_rep (a : Arch) (p : Nat) (v : Word) : (a.setPhys p v).rep = a.rep := rfl

@[simp] theorem Arch.setReg_csr (a : Arch) (n : SReg) (v : Word) : (a.setReg n v).csr = a.csr := by
  unfold Arch.setReg; split <;> rfl
@[simp] theorem Arch.setReg_pc (a : Arch) (n : SReg) (v : Word) : (a.setReg n v).pc = a.pc := by
  unfold Arch.setReg; split <;> rfl
@[simp] theorem Arch.setReg_rep (a : Arch) (n : SReg) (v : Word) : (a.setReg n v).rep = a.rep := by
  unfold Arch.setReg; split <;> rfl

/-- The dead bit of the register written is clear, and every other keeps its value. -/
theorem Arch.setPhys_dead (a : Arch) (p q : Nat) (v : Word) (hp : p < 512) :
    (a.setPhys p v).dead.getLsbD q = (decide (q ≠ p) && a.dead.getLsbD q) := by
  simp only [Arch.setPhys, BitVec.getLsbD_and, BitVec.getLsbD_not, BitVec.getLsbD_shiftLeft]
  by_cases hq : q < 512
  · by_cases h : q = p
    · subst h; simp [hq]
    · rcases Nat.lt_or_gt_of_ne h with h' | h'
      · simp [hq, h', h, Bool.and_comm]
      · simp [hq, h, show ¬ q < p by omega, show ¬ (q - p = 0) by omega, Bool.and_comm]
  · have : a.dead.getLsbD q = false := BitVec.getLsbD_of_ge _ _ (by omega)
    simp [hq, this]

/-- A register that was written reads the value written. -/
theorem Arch.reg_setReg_same (a : Arch) (n : SReg) (v : Word) (hn : n ≠ 0) : (a.setReg n v).reg n = v := by
  simp only [Arch.setReg, hn, if_false, Arch.reg]
  have hp : (a.setPhys (a.phys n) v).phys n = a.phys n := rfl
  rw [hp, Arch.setPhys_dead a _ _ v (a.phys_lt n)]
  simp only [ne_eq, not_true_eq_false, decide_false, Bool.false_and, Bool.false_eq_true, if_false, Arch.setPhys]
  exact Sparse.get_set_same _ _ _ _

/-- A write leaves every other register as it reads. -/
theorem Arch.reg_setReg_other (a : Arch) (m n : SReg) (v : Word) (h : m ≠ n) : (a.setReg n v).reg m = a.reg m := by
  by_cases hn : n = 0
  · subst hn; rfl
  · simp only [Arch.setReg, hn, if_false, Arch.reg]
    have hp : (a.setPhys (a.phys n) v).phys m = a.phys m := rfl
    have hne : a.phys m ≠ a.phys n := fun e => h (a.phys_inj m n e)
    rw [hp, Arch.setPhys_dead a _ _ v (a.phys_lt n)]
    simp only [ne_eq, hne, not_false_eq_true, decide_true, Bool.true_and, Arch.setPhys]
    rw [Sparse.get_set_other _ _ _ _ _ hne]

/-- Without a rep in progress the next PC is PC + 4 (04 R119). -/
theorem Arch.next_plain (a : Arch) (h : a.rep = none) : a.next = { a with pc := a.pc + 4 } := by
  simp [Arch.next, h]

/-- Advancing changes only PC, the rep and REPC. -/
theorem Arch.next_frame (a : Arch) :
    a.next = { a with pc := a.next.pc, rep := a.next.rep, csr := { a.csr with repc := a.next.csr.repc } } := by
  unfold Arch.next
  split
  · rfl
  · split <;> rfl

@[simp] theorem Arch.next_regs (a : Arch) : a.next.regs = a.regs := by rw [Arch.next_frame]
@[simp] theorem Arch.next_dead (a : Arch) : a.next.dead = a.dead := by rw [Arch.next_frame]
@[simp] theorem Arch.next_win (a : Arch) : a.next.csr.win = a.csr.win := by rw [Arch.next_frame]

/-- Advancing changes no register. -/
@[simp] theorem Arch.next_reg (a : Arch) (n : SReg) : a.next.reg n = a.reg n := by
  have hp : a.next.phys n = a.phys n := by simp [Arch.phys, Csrs.winb]
  simp [Arch.reg, hp]

end Sys2Proof.Machine
end

