-- ==== Sys2Proof/Laws/Ops.lean ====
section
/-!
SUPPORT. What each shared operation answers: reads that do not trap, waits, privilege checks, traps, and a register result.
-/

namespace Sys2Proof.Machine

/-- Registers that do not trap are read (01 R15). -/
theorem State.reading_ok (s : State) (l : List SReg) (k : State → Res) (h : s.readable l) : s.reading l k = k s := by
  unfold State.reading
  rw [if_neg]
  simp only [List.any_eq_true, not_exists, not_and, Bool.not_eq_true]
  exact h

/-- A dead register that traps (01 R15). -/
theorem State.reading_dead (s : State) (l : List SReg) (k : State → Res) (n : SReg) (hn : n ∈ l) (h : s.me.a.deadRead n = true) :
    s.reading l k = s.trap .deadRead := by
  unfold State.reading
  rw [if_pos]
  simp only [List.any_eq_true]
  exact ⟨n, hn, h⟩

/-- With no earlier sink pending nothing waits (05 R128). -/
theorem State.afterSinks_idle (s : State) (k : State → Res) (h : s.me.busy = false) : s.afterSinks k = k s := by simp [State.afterSinks, h]

theorem State.afterSinks_busy (s : State) (k : State → Res) (h : s.me.busy = true) : s.afterSinks k = .next s.wait := by
  simp [State.afterSinks, h]

theorem State.trapAtIssue_idle (s : State) (c : Cause) (va : Word) (w : Bool) (h : s.me.busy = false) :
    s.trapAtIssue c va w = s.takeTrap { cause := c, va := va, write := w, pass := none } := by simp [State.trapAtIssue, h]

theorem State.trapAtIssue_busy (s : State) (c : Cause) (va : Word) (w : Bool) (h : s.me.busy = true) :
    s.trapAtIssue c va w = .next s.wait := by simp [State.trapAtIssue, h]

/-- A trap in user mode, with the trace ring off (01 R33). -/
theorem State.takeTrap_user (s : State) (t : TrapInfo) (hn : s.me.nurse = false) (hs : s.me.a.csr.sup = false)
    (hr : (s.die s.me.die).trslots = 0) : s.takeTrap t = .next (s.setArch (Arch.trap t)) := by
  have hr' : ((s.setArch (Arch.trap t)).die s.me.die).trslots = 0 := hr
  simp [State.takeTrap, hn, hs, State.trace, hr']

theorem State.supervisor_ok (s : State) (k : State → Res) (h : s.me.nurse = true ∨ s.me.a.csr.sup = true) : s.supervisor k = k s := by
  rcases h with h | h <;> simp [State.supervisor, h]

theorem State.supervisor_denied (s : State) (k : State → Res) (hn : s.me.nurse = false) (hs : s.me.a.csr.sup = false) :
    s.supervisor k = s.trap .priv := by simp [State.supervisor, hn, hs]

theorem State.nurseOnly_ok (s : State) (k : State → Res) (h : s.me.nurse = true) : s.nurseOnly k = k s := by simp [State.nurseOnly, h]

theorem State.nurseOnly_denied (s : State) (k : State → Res) (h : s.me.nurse = false) : s.nurseOnly k = s.trap .priv := by
  simp [State.nurseOnly, h]

theorem State.vectorUnit_ok (s : State) (k : State → Res) (h : s.me.nurse = false) : s.vectorUnit k = k s := by simp [State.vectorUnit, h]

/-- Memory, its keys, cores and tenants as they were: every byte reads as before. -/
theorem State.sameBytes_of (s t : State) (h : t.mem = s.mem) (h2 : t.cores = s.cores) (h3 : t.keys = s.keys) (h4 : t.dies = s.dies) :
    s.SameBytes t := by
  refine ⟨fun a => by rw [h], fun k a => ?_⟩
  cases s
  cases t
  subst h h2 h3 h4
  rfl

/-- A register write and the next instruction, as the statements say it. -/
theorem State.wrote_setReg (s : State) (d : SReg) (v : Word) : s.Wrote (s.setReg d v).retire d v 0 := by
  have ha : (s.setReg d v).retire.me.a = (s.me.a.setReg d v).next := rfl
  refine ⟨⟨⟨?_, ?_, ?_, ?_, ?_⟩, ?_⟩, rfl, State.sameBytes_of _ _ rfl rfl rfl rfl⟩
  · show ((s.me.a.setReg d v).next).reg d = _
    rw [Arch.next_reg]
    split
    · subst d; rfl
    · exact Arch.reg_setReg_same _ _ _ ‹_›
  · intro hd
    rw [ha, Arch.next_dead]
    simp only [Arch.setReg, hd, if_false]
    rw [Arch.setPhys_dead _ _ _ _ (Arch.phys_lt _ _)]; simp
  · intro p hp
    rw [ha, Arch.next_dead, Arch.next_regs]
    by_cases hd : d = 0
    · subst hd; exact ⟨rfl, rfl⟩
    · have hp' : p ≠ s.me.a.phys d := hp.resolve_left hd
      simp only [Arch.setReg, hd, if_false]
      rw [Arch.setPhys_dead _ _ _ _ (Arch.phys_lt _ _)]
      refine ⟨Sparse.get_set_other _ _ _ _ _ hp', by simp [hp']⟩
  · rw [ha, Arch.next_frame]; simp
  · rw [ha, Arch.next_frame]; simp [Arch.setReg]; split <;> exact ⟨rfl, rfl, rfl, rfl, rfl⟩
  · intro hr
    rw [ha]
    rw [Arch.next_plain _ (by simpa using hr)]
    simp [hr]

end Sys2Proof.Machine
end

