-- ==== Sys2Proof/Laws/PerInstr.lean ====
section
/-!
SUPPORT. One family of statements about instructions as syntax: the word of an instruction has 32 bits (04 R102).
-/

namespace Sys2Proof

theorem Fmt.code_lt (t : Fmt) : t.code < 32 := by cases t <;> decide
theorem Scope.code_lt (s : Scope) : s.code < 8 := by cases s <;> decide
theorem Variant.code_lt (f : Variant) : f.code < 8 := by cases f <;> decide
theorem Cond.code_lt (c : Cond) : c.code < 8 := by cases c <;> decide
theorem FenceOrder.code_lt (o : FenceOrder) : o.code < 4 := by cases o <;> decide
theorem FenceOrder.scBit_lt (o : FenceOrder) : o.scBit < 2 := by cases o <;> decide
theorem AmoOrder.code_lt (o : AmoOrder) : o.code < 4 := by cases o <;> decide
theorem Geo.code_lt (g : Geo) : g.code < 4 := by cases g <;> decide
theorem ScanOp.code_lt (o : ScanOp) : o.code < 8 := by cases o <;> decide
theorem BitOp.code_lt (o : BitOp) : o.code < 8 := by cases o <;> decide
theorem accessCode_lt (s : Option Scope) : accessCode s < 16 := by
  rcases s with _ | s
  · decide
  · exact Nat.add_lt_add_left s.code_lt 8
theorem bitOf_lt (b : Bool) : bitOf b < 2 := by cases b <;> decide

/-- The word of an instruction, where it has one, has 32 bits. -/
def Laws.Encoded.Statement (i : Instr) : Prop := ∀ w, encode i = some w → w < 2 ^ 32

end Sys2Proof

namespace Sys2Proof.Laws.Encoded

theorem add (d : SReg) (a : SReg) (b : SReg) : Statement (.add d a b) := by
  intro w h
  cases h
  have := d.isLt
  have := a.isLt
  have := b.isLt
  simp only [put] at *
  omega

theorem sub (d : SReg) (a : SReg) (b : SReg) : Statement (.sub d a b) := by
  intro w h
  cases h
  have := d.isLt
  have := a.isLt
  have := b.isLt
  simp only [put] at *
  omega

theorem and (d : SReg) (a : SReg) (b : SReg) : Statement (.and d a b) := by
  intro w h
  cases h
  have := d.isLt
  have := a.isLt
  have := b.isLt
  simp only [put] at *
  omega

theorem or (d : SReg) (a : SReg) (b : SReg) : Statement (.or d a b) := by
  intro w h
  cases h
  have := d.isLt
  have := a.isLt
  have := b.isLt
  simp only [put] at *
  omega

theorem xor (d : SReg) (a : SReg) (b : SReg) : Statement (.xor d a b) := by
  intro w h
  cases h
  have := d.isLt
  have := a.isLt
  have := b.isLt
  simp only [put] at *
  omega

theorem shl (d : SReg) (a : SReg) (b : SReg) : Statement (.shl d a b) := by
  intro w h
  cases h
  have := d.isLt
  have := a.isLt
  have := b.isLt
  simp only [put] at *
  omega

theorem shr (d : SReg) (a : SReg) (b : SReg) : Statement (.shr d a b) := by
  intro w h
  cases h
  have := d.isLt
  have := a.isLt
  have := b.isLt
  simp only [put] at *
  omega

theorem sra (d : SReg) (a : SReg) (b : SReg) : Statement (.sra d a b) := by
  intro w h
  cases h
  have := d.isLt
  have := a.isLt
  have := b.isLt
  simp only [put] at *
  omega

theorem slt (d : SReg) (a : SReg) (b : SReg) : Statement (.slt d a b) := by
  intro w h
  cases h
  have := d.isLt
  have := a.isLt
  have := b.isLt
  simp only [put] at *
  omega

theorem sltn (d : SReg) (a : SReg) (b : SReg) : Statement (.sltn d a b) := by
  intro w h
  cases h
  have := d.isLt
  have := a.isLt
  have := b.isLt
  simp only [put] at *
  omega

theorem minS (d : SReg) (a : SReg) (b : SReg) : Statement (.minS d a b) := by
  intro w h
  cases h
  have := d.isLt
  have := a.isLt
  have := b.isLt
  simp only [put] at *
  omega

theorem minZ (d : SReg) (a : SReg) (b : SReg) : Statement (.minZ d a b) := by
  intro w h
  cases h
  have := d.isLt
  have := a.isLt
  have := b.isLt
  simp only [put] at *
  omega

theorem maxS (d : SReg) (a : SReg) (b : SReg) : Statement (.maxS d a b) := by
  intro w h
  cases h
  have := d.isLt
  have := a.isLt
  have := b.isLt
  simp only [put] at *
  omega

theorem maxZ (d : SReg) (a : SReg) (b : SReg) : Statement (.maxZ d a b) := by
  intro w h
  cases h
  have := d.isLt
  have := a.isLt
  have := b.isLt
  simp only [put] at *
  omega

theorem mul (d : SReg) (a : SReg) (b : SReg) : Statement (.mul d a b) := by
  intro w h
  cases h
  have := d.isLt
  have := a.isLt
  have := b.isLt
  simp only [put] at *
  omega

theorem mulhS (d : SReg) (a : SReg) (b : SReg) : Statement (.mulhS d a b) := by
  intro w h
  cases h
  have := d.isLt
  have := a.isLt
  have := b.isLt
  simp only [put] at *
  omega

theorem mulhZ (d : SReg) (a : SReg) (b : SReg) : Statement (.mulhZ d a b) := by
  intro w h
  cases h
  have := d.isLt
  have := a.isLt
  have := b.isLt
  simp only [put] at *
  omega

theorem divS (d : SReg) (a : SReg) (b : SReg) : Statement (.divS d a b) := by
  intro w h
  cases h
  have := d.isLt
  have := a.isLt
  have := b.isLt
  simp only [put] at *
  omega

theorem divZ (d : SReg) (a : SReg) (b : SReg) : Statement (.divZ d a b) := by
  intro w h
  cases h
  have := d.isLt
  have := a.isLt
  have := b.isLt
  simp only [put] at *
  omega

theorem remS (d : SReg) (a : SReg) (b : SReg) : Statement (.remS d a b) := by
  intro w h
  cases h
  have := d.isLt
  have := a.isLt
  have := b.isLt
  simp only [put] at *
  omega

theorem remZ (d : SReg) (a : SReg) (b : SReg) : Statement (.remZ d a b) := by
  intro w h
  cases h
  have := d.isLt
  have := a.isLt
  have := b.isLt
  simp only [put] at *
  omega

theorem clz (d : SReg) (a : SReg) : Statement (.clz d a) := by
  intro w h
  cases h
  have := d.isLt
  have := a.isLt
  simp only [put] at *
  omega

theorem ctz (d : SReg) (a : SReg) : Statement (.ctz d a) := by
  intro w h
  cases h
  have := d.isLt
  have := a.isLt
  simp only [put] at *
  omega

theorem popc (d : SReg) (a : SReg) : Statement (.popc d a) := by
  intro w h
  cases h
  have := d.isLt
  have := a.isLt
  simp only [put] at *
  omega

theorem bswap (d : SReg) (a : SReg) : Statement (.bswap d a) := by
  intro w h
  cases h
  have := d.isLt
  have := a.isLt
  simp only [put] at *
  omega

theorem fsh (d : SReg) (a : SReg) (b : SReg) : Statement (.fsh d a b) := by
  intro w h
  cases h
  have := d.isLt
  have := a.isLt
  have := b.isLt
  simp only [put] at *
  omega

theorem addi (d : SReg) (a : SReg) (imm : BitVec 11) : Statement (.addi d a imm) := by
  intro w h
  cases h
  have := d.isLt
  have := a.isLt
  have := imm.isLt
  simp only [put] at *
  omega

theorem andi (d : SReg) (a : SReg) (imm : BitVec 11) : Statement (.andi d a imm) := by
  intro w h
  cases h
  have := d.isLt
  have := a.isLt
  have := imm.isLt
  simp only [put] at *
  omega

theorem ori (d : SReg) (a : SReg) (imm : BitVec 11) : Statement (.ori d a imm) := by
  intro w h
  cases h
  have := d.isLt
  have := a.isLt
  have := imm.isLt
  simp only [put] at *
  omega

theorem xori (d : SReg) (a : SReg) (imm : BitVec 11) : Statement (.xori d a imm) := by
  intro w h
  cases h
  have := d.isLt
  have := a.isLt
  have := imm.isLt
  simp only [put] at *
  omega

theorem shli (d : SReg) (a : SReg) (sh : BitVec 6) : Statement (.shli d a sh) := by
  intro w h
  cases h
  have := d.isLt
  have := a.isLt
  have := sh.isLt
  simp only [put] at *
  omega

theorem shri (d : SReg) (a : SReg) (sh : BitVec 6) : Statement (.shri d a sh) := by
  intro w h
  cases h
  have := d.isLt
  have := a.isLt
  have := sh.isLt
  simp only [put] at *
  omega

theorem srai (d : SReg) (a : SReg) (sh : BitVec 6) : Statement (.srai d a sh) := by
  intro w h
  cases h
  have := d.isLt
  have := a.isLt
  have := sh.isLt
  simp only [put] at *
  omega

theorem bfxZ (d : SReg) (a : SReg) (pos : BitVec 6) (len : BitVec 5) : Statement (.bfxZ d a pos len) := by
  intro w h
  cases h
  have := d.isLt
  have := a.isLt
  have := pos.isLt
  have := len.isLt
  simp only [put] at *
  omega

theorem bfxS (d : SReg) (a : SReg) (pos : BitVec 6) (len : BitVec 5) : Statement (.bfxS d a pos len) := by
  intro w h
  cases h
  have := d.isLt
  have := a.isLt
  have := pos.isLt
  have := len.isLt
  simp only [put] at *
  omega

theorem bfi (d : SReg) (a : SReg) (pos : BitVec 6) (len : BitVec 5) : Statement (.bfi d a pos len) := by
  intro w h
  cases h
  have := d.isLt
  have := a.isLt
  have := pos.isLt
  have := len.isLt
  simp only [put] at *
  omega

theorem lui (d : SReg) (imm : BitVec 18) : Statement (.lui d imm) := by
  intro w h
  cases h
  have := d.isLt
  have := imm.isLt
  simp only [put] at *
  omega

theorem pcadd (d : SReg) (imm : BitVec 18) : Statement (.pcadd d imm) := by
  intro w h
  cases h
  have := d.isLt
  have := imm.isLt
  simp only [put] at *
  omega

theorem fadd (d : SReg) (a : SReg) (b : SReg) : Statement (.fadd d a b) := by
  intro w h
  cases h
  have := d.isLt
  have := a.isLt
  have := b.isLt
  simp only [put] at *
  omega

theorem fsub (d : SReg) (a : SReg) (b : SReg) : Statement (.fsub d a b) := by
  intro w h
  cases h
  have := d.isLt
  have := a.isLt
  have := b.isLt
  simp only [put] at *
  omega

theorem fmul (d : SReg) (a : SReg) (b : SReg) : Statement (.fmul d a b) := by
  intro w h
  cases h
  have := d.isLt
  have := a.isLt
  have := b.isLt
  simp only [put] at *
  omega

theorem fdiv (d : SReg) (a : SReg) (b : SReg) : Statement (.fdiv d a b) := by
  intro w h
  cases h
  have := d.isLt
  have := a.isLt
  have := b.isLt
  simp only [put] at *
  omega

theorem fmin (d : SReg) (a : SReg) (b : SReg) : Statement (.fmin d a b) := by
  intro w h
  cases h
  have := d.isLt
  have := a.isLt
  have := b.isLt
  simp only [put] at *
  omega

theorem fmax (d : SReg) (a : SReg) (b : SReg) : Statement (.fmax d a b) := by
  intro w h
  cases h
  have := d.isLt
  have := a.isLt
  have := b.isLt
  simp only [put] at *
  omega

theorem fsqrt (d : SReg) (a : SReg) : Statement (.fsqrt d a) := by
  intro w h
  cases h
  have := d.isLt
  have := a.isLt
  simp only [put] at *
  omega

theorem fma (d : SReg) (a : SReg) (b : SReg) : Statement (.fma d a b) := by
  intro w h
  cases h
  have := d.isLt
  have := a.isLt
  have := b.isLt
  simp only [put] at *
  omega

theorem fcmpEq (d : SReg) (a : SReg) (b : SReg) : Statement (.fcmpEq d a b) := by
  intro w h
  cases h
  have := d.isLt
  have := a.isLt
  have := b.isLt
  simp only [put] at *
  omega

theorem fcmpLt (d : SReg) (a : SReg) (b : SReg) : Statement (.fcmpLt d a b) := by
  intro w h
  cases h
  have := d.isLt
  have := a.isLt
  have := b.isLt
  simp only [put] at *
  omega

theorem fcmpLe (d : SReg) (a : SReg) (b : SReg) : Statement (.fcmpLe d a b) := by
  intro w h
  cases h
  have := d.isLt
  have := a.isLt
  have := b.isLt
  simp only [put] at *
  omega

theorem fcmpUn (d : SReg) (a : SReg) (b : SReg) : Statement (.fcmpUn d a b) := by
  intro w h
  cases h
  have := d.isLt
  have := a.isLt
  have := b.isLt
  simp only [put] at *
  omega

theorem fcvtFromF32 (t : Fmt) (d : SReg) (a : SReg) : Statement (.fcvtFromF32 t d a) := by
  intro w h
  cases h
  have := t.code_lt
  have := d.isLt
  have := a.isLt
  simp only [put] at *
  omega

theorem fcvtToF32 (t : Fmt) (d : SReg) (a : SReg) : Statement (.fcvtToF32 t d a) := by
  intro w h
  cases h
  have := t.code_lt
  have := d.isLt
  have := a.isLt
  simp only [put] at *
  omega

theorem ldb (sx : Bool) (acq : Option Scope) (off : BitVec 6) (base : BaseReg) (d : SReg) : Statement (.ldb sx acq off base d) := by
  intro w h
  cases h
  have := bitOf_lt sx
  have := accessCode_lt acq
  have := off.isLt
  have := base.isLt
  have := d.isLt
  simp only [put] at *
  omega

theorem ldh (sx : Bool) (acq : Option Scope) (off : BitVec 6) (base : BaseReg) (d : SReg) : Statement (.ldh sx acq off base d) := by
  intro w h
  cases h
  have := bitOf_lt sx
  have := accessCode_lt acq
  have := off.isLt
  have := base.isLt
  have := d.isLt
  simp only [put] at *
  omega

theorem ldw (sx : Bool) (acq : Option Scope) (off : BitVec 6) (base : BaseReg) (d : SReg) : Statement (.ldw sx acq off base d) := by
  intro w h
  cases h
  have := bitOf_lt sx
  have := accessCode_lt acq
  have := off.isLt
  have := base.isLt
  have := d.isLt
  simp only [put] at *
  omega

theorem ldd (acq : Option Scope) (off : BitVec 6) (base : BaseReg) (d : SReg) : Statement (.ldd acq off base d) := by
  intro w h
  cases h
  have := accessCode_lt acq
  have := off.isLt
  have := base.isLt
  have := d.isLt
  simp only [put] at *
  omega

theorem stb (rel : Option Scope) (off : BitVec 7) (base : BaseReg) (d : SReg) : Statement (.stb rel off base d) := by
  intro w h
  cases h
  have := accessCode_lt rel
  have := off.isLt
  have := base.isLt
  have := d.isLt
  simp only [put] at *
  omega

theorem sth (rel : Option Scope) (off : BitVec 7) (base : BaseReg) (d : SReg) : Statement (.sth rel off base d) := by
  intro w h
  cases h
  have := accessCode_lt rel
  have := off.isLt
  have := base.isLt
  have := d.isLt
  simp only [put] at *
  omega

theorem stw (rel : Option Scope) (off : BitVec 7) (base : BaseReg) (d : SReg) : Statement (.stw rel off base d) := by
  intro w h
  cases h
  have := accessCode_lt rel
  have := off.isLt
  have := base.isLt
  have := d.isLt
  simp only [put] at *
  omega

theorem std (rel : Option Scope) (off : BitVec 7) (base : BaseReg) (d : SReg) : Statement (.std rel off base d) := by
  intro w h
  cases h
  have := accessCode_lt rel
  have := off.isLt
  have := base.isLt
  have := d.isLt
  simp only [put] at *
  omega

theorem fence (o : FenceOrder) (sc : Scope) : Statement (.fence o sc) := by
  intro w h
  cases h
  have := o.code_lt
  have := o.scBit_lt
  have := sc.code_lt
  simp only [put] at *
  omega

theorem amoadd (o : AmoOrder) (sc : Scope) (wd : Bool) (val : BaseReg) (base : BaseReg) (d : SReg) : Statement (.amoadd o sc wd val base d) := by
  intro w h
  cases h
  have := o.code_lt
  have := sc.code_lt
  have := bitOf_lt wd
  have := val.isLt
  have := base.isLt
  have := d.isLt
  simp only [put] at *
  omega

theorem amoswp (o : AmoOrder) (sc : Scope) (wd : Bool) (val : BaseReg) (base : BaseReg) (d : SReg) : Statement (.amoswp o sc wd val base d) := by
  intro w h
  cases h
  have := o.code_lt
  have := sc.code_lt
  have := bitOf_lt wd
  have := val.isLt
  have := base.isLt
  have := d.isLt
  simp only [put] at *
  omega

theorem amocas (o : AmoOrder) (sc : Scope) (wd : Bool) (val : BaseReg) (base : BaseReg) (d : SReg) : Statement (.amocas o sc wd val base d) := by
  intro w h
  cases h
  have := o.code_lt
  have := sc.code_lt
  have := bitOf_lt wd
  have := val.isLt
  have := base.isLt
  have := d.isLt
  simp only [put] at *
  omega

theorem amominS (o : AmoOrder) (sc : Scope) (wd : Bool) (val : BaseReg) (base : BaseReg) (d : SReg) : Statement (.amominS o sc wd val base d) := by
  intro w h
  cases h
  have := o.code_lt
  have := sc.code_lt
  have := bitOf_lt wd
  have := val.isLt
  have := base.isLt
  have := d.isLt
  simp only [put] at *
  omega

theorem amominZ (o : AmoOrder) (sc : Scope) (wd : Bool) (val : BaseReg) (base : BaseReg) (d : SReg) : Statement (.amominZ o sc wd val base d) := by
  intro w h
  cases h
  have := o.code_lt
  have := sc.code_lt
  have := bitOf_lt wd
  have := val.isLt
  have := base.isLt
  have := d.isLt
  simp only [put] at *
  omega

theorem amomaxS (o : AmoOrder) (sc : Scope) (wd : Bool) (val : BaseReg) (base : BaseReg) (d : SReg) : Statement (.amomaxS o sc wd val base d) := by
  intro w h
  cases h
  have := o.code_lt
  have := sc.code_lt
  have := bitOf_lt wd
  have := val.isLt
  have := base.isLt
  have := d.isLt
  simp only [put] at *
  omega

theorem amomaxZ (o : AmoOrder) (sc : Scope) (wd : Bool) (val : BaseReg) (base : BaseReg) (d : SReg) : Statement (.amomaxZ o sc wd val base d) := by
  intro w h
  cases h
  have := o.code_lt
  have := sc.code_lt
  have := bitOf_lt wd
  have := val.isLt
  have := base.isLt
  have := d.isLt
  simp only [put] at *
  omega

theorem amoand (o : AmoOrder) (sc : Scope) (wd : Bool) (val : BaseReg) (base : BaseReg) (d : SReg) : Statement (.amoand o sc wd val base d) := by
  intro w h
  cases h
  have := o.code_lt
  have := sc.code_lt
  have := bitOf_lt wd
  have := val.isLt
  have := base.isLt
  have := d.isLt
  simp only [put] at *
  omega

theorem amoor (o : AmoOrder) (sc : Scope) (wd : Bool) (val : BaseReg) (base : BaseReg) (d : SReg) : Statement (.amoor o sc wd val base d) := by
  intro w h
  cases h
  have := o.code_lt
  have := sc.code_lt
  have := bitOf_lt wd
  have := val.isLt
  have := base.isLt
  have := d.isLt
  simp only [put] at *
  omega

theorem amoxor (o : AmoOrder) (sc : Scope) (wd : Bool) (val : BaseReg) (base : BaseReg) (d : SReg) : Statement (.amoxor o sc wd val base d) := by
  intro w h
  cases h
  have := o.code_lt
  have := sc.code_lt
  have := bitOf_lt wd
  have := val.isLt
  have := base.isLt
  have := d.isLt
  simp only [put] at *
  omega

theorem beq (a : SReg) (b : SReg) (off : BitVec 11) : Statement (.beq a b off) := by
  intro w h
  cases h
  have := a.isLt
  have := b.isLt
  have := off.isLt
  simp only [put] at *
  omega

theorem bne (a : SReg) (b : SReg) (off : BitVec 11) : Statement (.bne a b off) := by
  intro w h
  cases h
  have := a.isLt
  have := b.isLt
  have := off.isLt
  simp only [put] at *
  omega

theorem blt (a : SReg) (b : SReg) (off : BitVec 11) : Statement (.blt a b off) := by
  intro w h
  cases h
  have := a.isLt
  have := b.isLt
  have := off.isLt
  simp only [put] at *
  omega

theorem bge (a : SReg) (b : SReg) (off : BitVec 11) : Statement (.bge a b off) := by
  intro w h
  cases h
  have := a.isLt
  have := b.isLt
  have := off.isLt
  simp only [put] at *
  omega

theorem bltn (a : SReg) (b : SReg) (off : BitVec 11) : Statement (.bltn a b off) := by
  intro w h
  cases h
  have := a.isLt
  have := b.isLt
  have := off.isLt
  simp only [put] at *
  omega

theorem bgen (a : SReg) (b : SReg) (off : BitVec 11) : Statement (.bgen a b off) := by
  intro w h
  cases h
  have := a.isLt
  have := b.isLt
  have := off.isLt
  simp only [put] at *
  omega

theorem jal (d : SReg) (off : BitVec 18) : Statement (.jal d off) := by
  intro w h
  cases h
  have := d.isLt
  have := off.isLt
  simp only [put] at *
  omega

theorem jalr (d : SReg) (a : SReg) (imm : BitVec 8) : Statement (.jalr d a imm) := by
  intro w h
  cases h
  have := d.isLt
  have := a.isLt
  have := imm.isLt
  simp only [put] at *
  omega

theorem wcall (n : BitVec 3) (off : BitVec 15) : Statement (.wcall n off) := by
  intro w h
  cases h
  have := n.isLt
  have := off.isLt
  simp only [put] at *
  omega

theorem wret (n : BitVec 3) : Statement (.wret n) := by
  intro w h
  cases h
  have := n.isLt
  simp only [put] at *
  omega

theorem winb (n : BitVec 4) : Statement (.winb n) := by
  intro w h
  cases h
  have := n.isLt
  simp only [put] at *
  omega

theorem rep (st : BitVec 2) (cnt : BitVec 6) (fm : BitVec 3) : Statement (.rep st cnt fm) := by
  intro w h
  cases h
  have := st.isLt
  have := cnt.isLt
  have := fm.isLt
  simp only [put] at *
  omega

theorem bkany (k : KReg) (off : BitVec 15) : Statement (.bkany k off) := by
  intro w h
  cases h
  have := k.isLt
  have := off.isLt
  simp only [put] at *
  omega

theorem bknone (k : KReg) (off : BitVec 15) : Statement (.bknone k off) := by
  intro w h
  cases h
  have := k.isLt
  have := off.isLt
  simp only [put] at *
  omega

theorem csrr (d : SReg) (n : BitVec 11) : Statement (.csrr d n) := by
  intro w h
  cases h
  have := d.isLt
  have := n.isLt
  simp only [put] at *
  omega

theorem csrw (d : SReg) (a : SReg) (n : BitVec 11) : Statement (.csrw d a n) := by
  intro w h
  cases h
  have := d.isLt
  have := a.isLt
  have := n.isLt
  simp only [put] at *
  omega

theorem csrset (d : SReg) (a : SReg) (n : BitVec 11) : Statement (.csrset d a n) := by
  intro w h
  cases h
  have := d.isLt
  have := a.isLt
  have := n.isLt
  simp only [put] at *
  omega

theorem csrclr (d : SReg) (a : SReg) (n : BitVec 11) : Statement (.csrclr d a n) := by
  intro w h
  cases h
  have := d.isLt
  have := a.isLt
  have := n.isLt
  simp only [put] at *
  omega

theorem trap (a : SReg) : Statement (.trap a) := by
  intro w h
  cases h
  have := a.isLt
  simp only [put] at *
  omega

theorem wfe (a : SReg) : Statement (.wfe a) := by
  intro w h
  cases h
  have := a.isLt
  simp only [put] at *
  omega

theorem tlbinv (a : SReg) (b : SReg) : Statement (.tlbinv a b) := by
  intro w h
  cases h
  have := a.isLt
  have := b.isLt
  simp only [put] at *
  omega

theorem dcinv (a : SReg) (b : SReg) : Statement (.dcinv a b) := by
  intro w h
  cases h
  have := a.isLt
  have := b.isLt
  simp only [put] at *
  omega

theorem freeze (d : SReg) (a : SReg) (b : SReg) : Statement (.freeze d a b) := by
  intro w h
  cases h
  have := d.isLt
  have := a.isLt
  have := b.isLt
  simp only [put] at *
  omega

theorem launch (d : SReg) (a : SReg) (b : SReg) : Statement (.launch d a b) := by
  intro w h
  cases h
  have := d.isLt
  have := a.isLt
  have := b.isLt
  simp only [put] at *
  omega

theorem lwait (d : SReg) (a : SReg) : Statement (.lwait d a) := by
  intro w h
  cases h
  have := d.isLt
  have := a.isLt
  simp only [put] at *
  omega

theorem vadd (f : Variant) (m : Bool) (d : VReg) (a : VReg) (b : VReg) : Statement (.vadd f m d a b) := by
  intro w h
  cases h
  have := f.code_lt
  have := bitOf_lt m
  have := d.isLt
  have := a.isLt
  have := b.isLt
  simp only [put] at *
  omega

theorem vsub (f : Variant) (m : Bool) (d : VReg) (a : VReg) (b : VReg) : Statement (.vsub f m d a b) := by
  intro w h
  cases h
  have := f.code_lt
  have := bitOf_lt m
  have := d.isLt
  have := a.isLt
  have := b.isLt
  simp only [put] at *
  omega

theorem vmul (f : Variant) (m : Bool) (d : VReg) (a : VReg) (b : VReg) : Statement (.vmul f m d a b) := by
  intro w h
  cases h
  have := f.code_lt
  have := bitOf_lt m
  have := d.isLt
  have := a.isLt
  have := b.isLt
  simp only [put] at *
  omega

theorem vdiv (f : Variant) (m : Bool) (d : VReg) (a : VReg) (b : VReg) : Statement (.vdiv f m d a b) := by
  intro w h
  cases h
  have := f.code_lt
  have := bitOf_lt m
  have := d.isLt
  have := a.isLt
  have := b.isLt
  simp only [put] at *
  omega

theorem vmin (f : Variant) (m : Bool) (d : VReg) (a : VReg) (b : VReg) : Statement (.vmin f m d a b) := by
  intro w h
  cases h
  have := f.code_lt
  have := bitOf_lt m
  have := d.isLt
  have := a.isLt
  have := b.isLt
  simp only [put] at *
  omega

theorem vmax (f : Variant) (m : Bool) (d : VReg) (a : VReg) (b : VReg) : Statement (.vmax f m d a b) := by
  intro w h
  cases h
  have := f.code_lt
  have := bitOf_lt m
  have := d.isLt
  have := a.isLt
  have := b.isLt
  simp only [put] at *
  omega

theorem vfma (f : Variant) (m : Bool) (d : VReg) (a : VReg) (b : VReg) : Statement (.vfma f m d a b) := by
  intro w h
  cases h
  have := f.code_lt
  have := bitOf_lt m
  have := d.isLt
  have := a.isLt
  have := b.isLt
  simp only [put] at *
  omega

theorem vfms (f : Variant) (m : Bool) (d : VReg) (a : VReg) (b : VReg) : Statement (.vfms f m d a b) := by
  intro w h
  cases h
  have := f.code_lt
  have := bitOf_lt m
  have := d.isLt
  have := a.isLt
  have := b.isLt
  simp only [put] at *
  omega

theorem vsqrt (m : Bool) (d : VReg) (a : VReg) : Statement (.vsqrt m d a) := by
  intro w h
  cases h
  have := bitOf_lt m
  have := d.isLt
  have := a.isLt
  simp only [put] at *
  omega

theorem vabs (m : Bool) (d : VReg) (a : VReg) : Statement (.vabs m d a) := by
  intro w h
  cases h
  have := bitOf_lt m
  have := d.isLt
  have := a.isLt
  simp only [put] at *
  omega

theorem vneg (m : Bool) (d : VReg) (a : VReg) : Statement (.vneg m d a) := by
  intro w h
  cases h
  have := bitOf_lt m
  have := d.isLt
  have := a.isLt
  simp only [put] at *
  omega

theorem vrcp (m : Bool) (d : VReg) (a : VReg) : Statement (.vrcp m d a) := by
  intro w h
  cases h
  have := bitOf_lt m
  have := d.isLt
  have := a.isLt
  simp only [put] at *
  omega

theorem vrsq (m : Bool) (d : VReg) (a : VReg) : Statement (.vrsq m d a) := by
  intro w h
  cases h
  have := bitOf_lt m
  have := d.isLt
  have := a.isLt
  simp only [put] at *
  omega

theorem vexp2 (m : Bool) (d : VReg) (a : VReg) : Statement (.vexp2 m d a) := by
  intro w h
  cases h
  have := bitOf_lt m
  have := d.isLt
  have := a.isLt
  simp only [put] at *
  omega

theorem vlog2 (m : Bool) (d : VReg) (a : VReg) : Statement (.vlog2 m d a) := by
  intro w h
  cases h
  have := bitOf_lt m
  have := d.isLt
  have := a.isLt
  simp only [put] at *
  omega

theorem vtanh (m : Bool) (d : VReg) (a : VReg) : Statement (.vtanh m d a) := by
  intro w h
  cases h
  have := bitOf_lt m
  have := d.isLt
  have := a.isLt
  simp only [put] at *
  omega

theorem vsigm (m : Bool) (d : VReg) (a : VReg) : Statement (.vsigm m d a) := by
  intro w h
  cases h
  have := bitOf_lt m
  have := d.isLt
  have := a.isLt
  simp only [put] at *
  omega

theorem vand (f : Variant) (m : Bool) (d : VReg) (a : VReg) (b : VReg) : Statement (.vand f m d a b) := by
  intro w h
  cases h
  have := f.code_lt
  have := bitOf_lt m
  have := d.isLt
  have := a.isLt
  have := b.isLt
  simp only [put] at *
  omega

theorem vor (f : Variant) (m : Bool) (d : VReg) (a : VReg) (b : VReg) : Statement (.vor f m d a b) := by
  intro w h
  cases h
  have := f.code_lt
  have := bitOf_lt m
  have := d.isLt
  have := a.isLt
  have := b.isLt
  simp only [put] at *
  omega

theorem vxor (f : Variant) (m : Bool) (d : VReg) (a : VReg) (b : VReg) : Statement (.vxor f m d a b) := by
  intro w h
  cases h
  have := f.code_lt
  have := bitOf_lt m
  have := d.isLt
  have := a.isLt
  have := b.isLt
  simp only [put] at *
  omega

theorem vshl (f : Variant) (m : Bool) (d : VReg) (a : VReg) (b : VReg) : Statement (.vshl f m d a b) := by
  intro w h
  cases h
  have := f.code_lt
  have := bitOf_lt m
  have := d.isLt
  have := a.isLt
  have := b.isLt
  simp only [put] at *
  omega

theorem vshr (f : Variant) (m : Bool) (d : VReg) (a : VReg) (b : VReg) : Statement (.vshr f m d a b) := by
  intro w h
  cases h
  have := f.code_lt
  have := bitOf_lt m
  have := d.isLt
  have := a.isLt
  have := b.isLt
  simp only [put] at *
  omega

theorem vsra (f : Variant) (m : Bool) (d : VReg) (a : VReg) (b : VReg) : Statement (.vsra f m d a b) := by
  intro w h
  cases h
  have := f.code_lt
  have := bitOf_lt m
  have := d.isLt
  have := a.isLt
  have := b.isLt
  simp only [put] at *
  omega

theorem vmulh (f : Variant) (m : Bool) (d : VReg) (a : VReg) (b : VReg) : Statement (.vmulh f m d a b) := by
  intro w h
  cases h
  have := f.code_lt
  have := bitOf_lt m
  have := d.isLt
  have := a.isLt
  have := b.isLt
  simp only [put] at *
  omega

theorem vcmp (f : Variant) (m : Bool) (cc : Cond) (kd : KReg) (a : VReg) (b : VReg) : Statement (.vcmp f m cc kd a b) := by
  intro w h
  cases h
  have := f.code_lt
  have := bitOf_lt m
  have := cc.code_lt
  have := kd.isLt
  have := a.isLt
  have := b.isLt
  simp only [put] at *
  omega

theorem vsel (f : Variant) (d : VReg) (a : VReg) (b : VReg) : Statement (.vsel f d a b) := by
  intro w h
  cases h
  have := f.code_lt
  have := d.isLt
  have := a.isLt
  have := b.isLt
  simp only [put] at *
  omega

theorem vcvt (t : Fmt) (m : Bool) (d : VReg) (a : VReg) : Statement (.vcvt t m d a) := by
  intro w h
  cases h
  have := t.code_lt
  have := bitOf_lt m
  have := d.isLt
  have := a.isLt
  simp only [put] at *
  omega

theorem vscl (f : Variant) (m : Bool) (d : VReg) (a : VReg) (b : VReg) : Statement (.vscl f m d a b) := by
  intro w h
  cases h
  have := f.code_lt
  have := bitOf_lt m
  have := d.isLt
  have := a.isLt
  have := b.isLt
  simp only [put] at *
  omega

theorem vblk (g : Geo) (m : Bool) (d : VReg) (a : VReg) : Statement (.vblk g m d a) := by
  intro w h
  cases h
  have := g.code_lt
  have := bitOf_lt m
  have := d.isLt
  have := a.isLt
  simp only [put] at *
  omega

theorem vrngRaw (m : Bool) (d : VReg) (a : SReg) : Statement (.vrngRaw m d a) := by
  intro w h
  cases h
  have := bitOf_lt m
  have := d.isLt
  have := a.isLt
  simp only [put] at *
  omega

theorem vrngUnif (m : Bool) (d : VReg) (a : SReg) : Statement (.vrngUnif m d a) := by
  intro w h
  cases h
  have := bitOf_lt m
  have := d.isLt
  have := a.isLt
  simp only [put] at *
  omega

theorem setvli (d : SReg) (a : SReg) (req : BitVec 11) : Statement (.setvli d a req) := by
  intro w h
  cases h
  have := d.isLt
  have := a.isLt
  have := req.isLt
  simp only [put] at *
  omega

theorem setvl (d : SReg) (a : SReg) (b : SReg) : Statement (.setvl d a b) := by
  intro w h
  cases h
  have := d.isLt
  have := a.isLt
  have := b.isLt
  simp only [put] at *
  omega

theorem setel (a : SReg) : Statement (.setel a) := by
  intro w h
  cases h
  have := a.isLt
  simp only [put] at *
  omega

theorem vforce (d : VReg) : Statement (.vforce d) := by
  intro w h
  cases h
  have := d.isLt
  simp only [put] at *
  omega

theorem deadScalar (d : SReg) (a : SReg) : Statement (.deadScalar d a) := by
  intro w h
  cases h
  have := d.isLt
  have := a.isLt
  simp only [put] at *
  omega

theorem deadVector (d : VReg) (a : VReg) : Statement (.deadVector d a) := by
  intro w h
  cases h
  have := d.isLt
  have := a.isLt
  simp only [put] at *
  omega

theorem deadMask (d : KReg) (a : KReg) : Statement (.deadMask d a) := by
  intro w h
  cases h
  have := d.isLt
  have := a.isLt
  simp only [put] at *
  omega

theorem kmeet (d : KReg) (a : KReg) (b : KReg) : Statement (.kmeet d a b) := by
  intro w h
  cases h
  have := d.isLt
  have := a.isLt
  have := b.isLt
  simp only [put] at *
  omega

theorem kjoin (d : KReg) (a : KReg) (b : KReg) : Statement (.kjoin d a b) := by
  intro w h
  cases h
  have := d.isLt
  have := a.isLt
  have := b.isLt
  simp only [put] at *
  omega

theorem kdiff (d : KReg) (a : KReg) (b : KReg) : Statement (.kdiff d a b) := by
  intro w h
  cases h
  have := d.isLt
  have := a.isLt
  have := b.isLt
  simp only [put] at *
  omega

theorem kless (d : KReg) (a : KReg) (b : KReg) : Statement (.kless d a b) := by
  intro w h
  cases h
  have := d.isLt
  have := a.isLt
  have := b.isLt
  simp only [put] at *
  omega

theorem kflip (d : KReg) (a : KReg) : Statement (.kflip d a) := by
  intro w h
  cases h
  have := d.isLt
  have := a.isLt
  simp only [put] at *
  omega

theorem kcopy (d : KReg) (a : KReg) : Statement (.kcopy d a) := by
  intro w h
  cases h
  have := d.isLt
  have := a.isLt
  simp only [put] at *
  omega

theorem kmsk (d : KReg) (a : KReg) : Statement (.kmsk d a) := by
  intro w h
  cases h
  have := d.isLt
  have := a.isLt
  simp only [put] at *
  omega

theorem kset (d : KReg) (a : SReg) : Statement (.kset d a) := by
  intro w h
  cases h
  have := d.isLt
  have := a.isLt
  simp only [put] at *
  omega

theorem kpop (d : SReg) (a : KReg) : Statement (.kpop d a) := by
  intro w h
  cases h
  have := d.isLt
  have := a.isLt
  simp only [put] at *
  omega

theorem kfirst (d : SReg) (a : KReg) : Statement (.kfirst d a) := by
  intro w h
  cases h
  have := d.isLt
  have := a.isLt
  simp only [put] at *
  omega

theorem vld (m : Bool) (d : VReg) (base : BaseReg) (x : BitVec 7) : Statement (.vld m d base x) := by
  intro w h
  cases h
  have := bitOf_lt m
  have := d.isLt
  have := base.isLt
  have := x.isLt
  simp only [put] at *
  omega

theorem vlds (m : Bool) (d : VReg) (base : BaseReg) (x : SReg) : Statement (.vlds m d base x) := by
  intro w h
  cases h
  have := bitOf_lt m
  have := d.isLt
  have := base.isLt
  have := x.isLt
  simp only [put] at *
  omega

theorem vldx (m : Bool) (d : VReg) (base : BaseReg) (x : VReg) : Statement (.vldx m d base x) := by
  intro w h
  cases h
  have := bitOf_lt m
  have := d.isLt
  have := base.isLt
  have := x.isLt
  simp only [put] at *
  omega

theorem vldb (m : Bool) (d : VReg) (base : BaseReg) (x : BitVec 7) : Statement (.vldb m d base x) := by
  intro w h
  cases h
  have := bitOf_lt m
  have := d.isLt
  have := base.isLt
  have := x.isLt
  simp only [put] at *
  omega

theorem vst (m : Bool) (d : VReg) (base : BaseReg) (x : BitVec 7) : Statement (.vst m d base x) := by
  intro w h
  cases h
  have := bitOf_lt m
  have := d.isLt
  have := base.isLt
  have := x.isLt
  simp only [put] at *
  omega

theorem vsts (m : Bool) (d : VReg) (base : BaseReg) (x : SReg) : Statement (.vsts m d base x) := by
  intro w h
  cases h
  have := bitOf_lt m
  have := d.isLt
  have := base.isLt
  have := x.isLt
  simp only [put] at *
  omega

theorem vstx (m : Bool) (d : VReg) (base : BaseReg) (x : VReg) : Statement (.vstx m d base x) := by
  intro w h
  cases h
  have := bitOf_lt m
  have := d.isLt
  have := base.isLt
  have := x.isLt
  simp only [put] at *
  omega

theorem vext (d : SReg) (a : VReg) (b : SReg) : Statement (.vext d a b) := by
  intro w h
  cases h
  have := d.isLt
  have := a.isLt
  have := b.isLt
  simp only [put] at *
  omega

theorem vslup (m : Bool) (d : VReg) (a : VReg) (b : SReg) : Statement (.vslup m d a b) := by
  intro w h
  cases h
  have := bitOf_lt m
  have := d.isLt
  have := a.isLt
  have := b.isLt
  simp only [put] at *
  omega

theorem vsldn (m : Bool) (d : VReg) (a : VReg) (b : SReg) : Statement (.vsldn m d a b) := by
  intro w h
  cases h
  have := bitOf_lt m
  have := d.isLt
  have := a.isLt
  have := b.isLt
  simp only [put] at *
  omega

theorem vperm (m : Bool) (d : VReg) (a : VReg) (b : VReg) : Statement (.vperm m d a b) := by
  intro w h
  cases h
  have := bitOf_lt m
  have := d.isLt
  have := a.isLt
  have := b.isLt
  simp only [put] at *
  omega

theorem vcmpr (m : Bool) (d : VReg) (a : VReg) : Statement (.vcmpr m d a) := by
  intro w h
  cases h
  have := bitOf_lt m
  have := d.isLt
  have := a.isLt
  simp only [put] at *
  omega

theorem vexpd (m : Bool) (d : VReg) (a : VReg) : Statement (.vexpd m d a) := by
  intro w h
  cases h
  have := bitOf_lt m
  have := d.isLt
  have := a.isLt
  simp only [put] at *
  omega

theorem vscan (op : ScanOp) (m : Bool) (d : VReg) (a : VReg) : Statement (.vscan op m d a) := by
  intro w h
  cases h
  have := op.code_lt
  have := bitOf_lt m
  have := d.isLt
  have := a.isLt
  simp only [put] at *
  omega

theorem vrsumo (m : Bool) (d : SReg) (a : VReg) : Statement (.vrsumo m d a) := by
  intro w h
  cases h
  have := bitOf_lt m
  have := d.isLt
  have := a.isLt
  simp only [put] at *
  omega

theorem vrsumt (m : Bool) (d : SReg) (a : VReg) : Statement (.vrsumt m d a) := by
  intro w h
  cases h
  have := bitOf_lt m
  have := d.isLt
  have := a.isLt
  simp only [put] at *
  omega

theorem vrmax (m : Bool) (d : SReg) (a : VReg) : Statement (.vrmax m d a) := by
  intro w h
  cases h
  have := bitOf_lt m
  have := d.isLt
  have := a.isLt
  simp only [put] at *
  omega

theorem vrmin (m : Bool) (d : SReg) (a : VReg) : Statement (.vrmin m d a) := by
  intro w h
  cases h
  have := bitOf_lt m
  have := d.isLt
  have := a.isLt
  simp only [put] at *
  omega

theorem vrargx (m : Bool) (d : SReg) (a : VReg) : Statement (.vrargx m d a) := by
  intro w h
  cases h
  have := bitOf_lt m
  have := d.isLt
  have := a.isLt
  simp only [put] at *
  omega

theorem vrbit (op : BitOp) (m : Bool) (d : SReg) (a : VReg) : Statement (.vrbit op m d a) := by
  intro w h
  cases h
  have := op.code_lt
  have := bitOf_lt m
  have := d.isLt
  have := a.isLt
  simp only [put] at *
  omega

theorem vpart (d : SReg) (a : SReg) : Statement (.vpart d a) := by
  intro w h
  cases h
  have := d.isLt
  have := a.isLt
  simp only [put] at *
  omega

theorem vlpld (m : Bool) (d : VReg) (a : VReg) (b : SReg) : Statement (.vlpld m d a b) := by
  intro w h
  cases h
  have := bitOf_lt m
  have := d.isLt
  have := a.isLt
  have := b.isLt
  simp only [put] at *
  omega

theorem vlpst (m : Bool) (d : VReg) (a : VReg) (b : SReg) : Statement (.vlpst m d a b) := by
  intro w h
  cases h
  have := bitOf_lt m
  have := d.isLt
  have := a.isLt
  have := b.isLt
  simp only [put] at *
  omega

theorem vlpstB (m : Bool) (d : VReg) (b : SReg) : Statement (.vlpstB m d b) := by
  intro w h
  cases h
  have := bitOf_lt m
  have := d.isLt
  have := b.isLt
  simp only [put] at *
  omega

theorem cbld (d : BankReg) (a : SReg) (b : SReg) : Statement (.cbld d a b) := by
  intro w h
  cases h
  have := d.isLt
  have := a.isLt
  have := b.isLt
  simp only [put] at *
  omega

theorem cbst (d : BankReg) (a : SReg) (b : SReg) : Statement (.cbst d a b) := by
  intro w h
  cases h
  have := d.isLt
  have := a.isLt
  have := b.isLt
  simp only [put] at *
  omega

theorem cbwr (d : BankReg) (a : SReg) (b : SReg) : Statement (.cbwr d a b) := by
  intro w h
  cases h
  have := d.isLt
  have := a.isLt
  have := b.isLt
  simp only [put] at *
  omega

theorem cbrd (d : SReg) (a : BankReg) (b : SReg) : Statement (.cbrd d a b) := by
  intro w h
  cases h
  have := d.isLt
  have := a.isLt
  have := b.isLt
  simp only [put] at *
  omega

theorem cbval (d : BankReg) (a : SReg) (b : SReg) : Statement (.cbval d a b) := by
  intro w h
  cases h
  have := d.isLt
  have := a.isLt
  have := b.isLt
  simp only [put] at *
  omega

theorem cbselB (d : BankReg) : Statement (.cbselB d) := by
  intro w h
  cases h
  have := d.isLt
  simp only [put] at *
  omega

theorem cbselM (d : BankReg) : Statement (.cbselM d) := by
  intro w h
  cases h
  have := d.isLt
  simp only [put] at *
  omega

theorem vcbx (d : VReg) (a : VReg) (b : BankReg) : Statement (.vcbx d a b) := by
  intro w h
  cases h
  have := d.isLt
  have := a.isLt
  have := b.isLt
  simp only [put] at *
  omega

theorem comba (c : Bool) (acc : AccReg) (a : VReg) (b : VReg) : Statement (.comba c acc a b) := by
  intro w h
  cases h
  have := bitOf_lt c
  have := acc.isLt
  have := a.isLt
  have := b.isLt
  simp only [put] at *
  omega

theorem combs (c : Bool) (acc : AccReg) (a : VReg) (b : VReg) : Statement (.combs c acc a b) := by
  intro w h
  cases h
  have := bitOf_lt c
  have := acc.isLt
  have := a.isLt
  have := b.isLt
  simp only [put] at *
  omega

theorem combi (acc : AccReg) (a : VReg) (b : VReg) : Statement (.combi acc a b) := by
  intro w h
  cases h
  have := acc.isLt
  have := a.isLt
  have := b.isLt
  simp only [put] at *
  omega

theorem msetvl (d : SReg) (a : SReg) : Statement (.msetvl d a) := by
  intro w h
  cases h
  have := d.isLt
  have := a.isLt
  simp only [put] at *
  omega

theorem mzero (d : AccReg) : Statement (.mzero d) := by
  intro w h
  cases h
  have := d.isLt
  simp only [put] at *
  omega

theorem mrdr (d : VReg) (a : AccReg) (b : SReg) : Statement (.mrdr d a b) := by
  intro w h
  cases h
  have := d.isLt
  have := a.isLt
  have := b.isLt
  simp only [put] at *
  omega

theorem mrdc (d : VReg) (a : AccReg) (b : SReg) : Statement (.mrdc d a b) := by
  intro w h
  cases h
  have := d.isLt
  have := a.isLt
  have := b.isLt
  simp only [put] at *
  omega

theorem mwrr (d : AccReg) (a : VReg) (b : SReg) : Statement (.mwrr d a b) := by
  intro w h
  cases h
  have := d.isLt
  have := a.isLt
  have := b.isLt
  simp only [put] at *
  omega

theorem mld (d : AccReg) (a : SReg) (b : SReg) : Statement (.mld d a b) := by
  intro w h
  cases h
  have := d.isLt
  have := a.isLt
  have := b.isLt
  simp only [put] at *
  omega

theorem mst (d : AccReg) (a : SReg) (b : SReg) : Statement (.mst d a b) := by
  intro w h
  cases h
  have := d.isLt
  have := a.isLt
  have := b.isLt
  simp only [put] at *
  omega

theorem smode (d : VReg) (a : SReg) : Statement (.smode d a) := by
  intro w h
  cases h
  have := d.isLt
  have := a.isLt
  simp only [put] at *
  omega

theorem sexit (d : VReg) : Statement (.sexit d) := by
  intro w h
  cases h
  have := d.isLt
  simp only [put] at *
  omega

theorem sprog (d : SReg) (a : VReg) : Statement (.sprog d a) := by
  intro w h
  cases h
  have := d.isLt
  have := a.isLt
  simp only [put] at *
  omega

theorem cvset (d : CovReg) (a : SReg) (b : SReg) : Statement (.cvset d a b) := by
  intro w h
  cases h
  have := d.isLt
  have := a.isLt
  have := b.isLt
  simp only [put] at *
  omega

theorem cvwt (d : CovReg) (a : VReg) : Statement (.cvwt d a) := by
  intro w h
  cases h
  have := d.isLt
  have := a.isLt
  simp only [put] at *
  omega

theorem cvprb (d : SReg) (a : CovReg) (b : VReg) : Statement (.cvprb d a b) := by
  intro w h
  cases h
  have := d.isLt
  have := a.isLt
  have := b.isLt
  simp only [put] at *
  omega

theorem cvprbb (d : VReg) (a : CovReg) (n : BitVec 6) (b : VReg) : Statement (.cvprbb d a n b) := by
  intro w h
  cases h
  have := d.isLt
  have := a.isLt
  have := n.isLt
  have := b.isLt
  simp only [put] at *
  omega

theorem cvcom (d : CovReg) (a : VReg) : Statement (.cvcom d a) := by
  intro w h
  cases h
  have := d.isLt
  have := a.isLt
  simp only [put] at *
  omega

theorem cvsel (d : SReg) (a : VReg) (b : VReg) : Statement (.cvsel d a b) := by
  intro w h
  cases h
  have := d.isLt
  have := a.isLt
  have := b.isLt
  simp only [put] at *
  omega

theorem cvrd (d : VReg) (a : CovReg) (b : SReg) : Statement (.cvrd d a b) := by
  intro w h
  cases h
  have := d.isLt
  have := a.isLt
  have := b.isLt
  simp only [put] at *
  omega

theorem bxfer (g : BitVec 4) (d : SReg) (a : SReg) (b : SReg) : Statement (.bxfer g d a b) := by
  intro w h
  cases h
  have := g.isLt
  have := d.isLt
  have := a.isLt
  have := b.isLt
  simp only [put] at *
  omega

theorem bbini (a : SReg) (b : SReg) : Statement (.bbini a b) := by
  intro w h
  cases h
  have := a.isLt
  have := b.isLt
  simp only [put] at *
  omega

theorem bbexp (a : SReg) (b : SReg) : Statement (.bbexp a b) := by
  intro w h
  cases h
  have := a.isLt
  have := b.isLt
  simp only [put] at *
  omega

theorem bbarv (a : SReg) (b : SReg) : Statement (.bbarv a b) := by
  intro w h
  cases h
  have := a.isLt
  have := b.isLt
  simp only [put] at *
  omega

theorem bbwait (d : SReg) (a : SReg) (b : SReg) : Statement (.bbwait d a b) := by
  intro w h
  cases h
  have := d.isLt
  have := a.isLt
  have := b.isLt
  simp only [put] at *
  omega

theorem bbtest (d : KReg) (a : SReg) (b : SReg) : Statement (.bbtest d a b) := by
  intro w h
  cases h
  have := d.isLt
  have := a.isLt
  have := b.isLt
  simp only [put] at *
  omega

theorem vldc (m : Bool) (d : VReg) (base : BaseReg) (x : SReg) : Statement (.vldc m d base x) := by
  intro w h
  cases h
  have := bitOf_lt m
  have := d.isLt
  have := base.isLt
  have := x.isLt
  simp only [put] at *
  omega

theorem bar (sc : Scope) : Statement (.bar sc) := by
  intro w h
  cases h
  have := sc.code_lt
  simp only [put] at *
  omega

theorem bind (d : SReg) (a : SReg) (b : SReg) : Statement (.bind d a b) := by
  intro w h
  cases h
  have := d.isLt
  have := a.isLt
  have := b.isLt
  simp only [put] at *
  omega

theorem unbind (a : SReg) : Statement (.unbind a) := by
  intro w h
  cases h
  have := a.isLt
  simp only [put] at *
  omega

theorem nop (h : BitVec 25) : Statement (.nop h) := by
  intro w h
  cases h
  have := h.isLt
  simp only [put] at *
  omega

theorem passTake (c : CtxId) : Statement (.passTake c) := fun _ h => nomatch h

theorem stripDispatch (core : CoreId) (g : BitVec 3) : Statement (.stripDispatch core g) := fun _ h => nomatch h

theorem stripFinish (core : CoreId) (g : BitVec 3) : Statement (.stripFinish core g) := fun _ h => nomatch h

theorem sinkComplete (c : CtxId) : Statement (.sinkComplete c) := fun _ h => nomatch h

theorem implicitMaterialisation (c : CtxId) : Statement (.implicitMaterialisation c) := fun _ h => nomatch h

theorem coreParityError (core : CoreId) (e : CoreError) : Statement (.coreParityError core e) := fun _ h => nomatch h

theorem combStepCommit (c : CtxId) : Statement (.combStepCommit c) := fun _ h => nomatch h

theorem streamRowFetch (c : CtxId) (v : VReg) : Statement (.streamRowFetch c v) := fun _ h => nomatch h

theorem streamRowArrive (c : CtxId) (v : VReg) : Statement (.streamRowArrive c v) := fun _ h => nomatch h

theorem pageWalk (c : CtxId) (va : Word) (write : Bool) : Statement (.pageWalk c va write) := fun _ h => nomatch h

theorem foragerLaunch (c : CtxId) : Statement (.foragerLaunch c) := fun _ h => nomatch h

theorem foragerChunkLand (x : Nat) (chunk : BitVec 8) : Statement (.foragerChunkLand x chunk) := fun _ h => nomatch h

theorem barEpisodeComplete (c : CtxId) : Statement (.barEpisodeComplete c) := fun _ h => nomatch h

theorem bbwaitComplete (c : CtxId) : Statement (.bbwaitComplete c) := fun _ h => nomatch h

theorem wfeWake (c : CtxId) : Statement (.wfeWake c) := fun _ h => nomatch h

theorem wfeTimeout (c : CtxId) : Statement (.wfeTimeout c) := fun _ h => nomatch h

theorem yieldComplete (c : CtxId) : Statement (.yieldComplete c) := fun _ h => nomatch h

theorem meshFlitResend (core : CoreId) (dir : BitVec 2) : Statement (.meshFlitResend core dir) := fun _ h => nomatch h

theorem meshLinkFail (core : CoreId) (dir : BitVec 2) : Statement (.meshLinkFail core dir) := fun _ h => nomatch h

theorem foragerBufferParity (x : Nat) (chunk : BitVec 8) : Statement (.foragerBufferParity x chunk) := fun _ h => nomatch h

theorem barrierWireParity (c : CtxId) : Statement (.barrierWireParity c) := fun _ h => nomatch h

theorem eccError (pa : Word) (uncorrectable : Bool) : Statement (.eccError pa uncorrectable) := fun _ h => nomatch h

theorem launchPlace (die : DieId) : Statement (.launchPlace die) := fun _ h => nomatch h

theorem complete (die : DieId) (seq : Word32) : Statement (.complete die seq) := fun _ h => nomatch h

theorem nurseFailure (die : DieId) : Statement (.nurseFailure die) := fun _ h => nomatch h

theorem launchMessage (die : DieId) (tenant : TenantId) (msg : List Byte) : Statement (.launchMessage die tenant msg) := fun _ h => nomatch h

theorem answer (die : DieId) (tenant : TenantId) (msg : List Byte) : Statement (.answer die tenant msg) := fun _ h => nomatch h

theorem freezeMessage (die : DieId) (tenant : TenantId) (msg : List Byte) : Statement (.freezeMessage die tenant msg) := fun _ h => nomatch h

theorem tenantCreate (tenant : TenantId) (dies : BitVec 4) : Statement (.tenantCreate tenant dies) := fun _ h => nomatch h

theorem tenantTeardown (die : DieId) (tenant : TenantId) : Statement (.tenantTeardown die tenant) := fun _ h => nomatch h

theorem tenantRecordWrite (die : DieId) (tenant : TenantId) (field : TenantField) (value : Word) : Statement (.tenantRecordWrite die tenant field value) := fun _ h => nomatch h

theorem podRequestAccept (ptid : BitVec 16) (offset : Word) (access : PodAccess) : Statement (.podRequestAccept ptid offset access) := fun _ h => nomatch h

theorem podAck (req : Nat) (ok : Bool) (data : List Byte) : Statement (.podAck req ok data) := fun _ h => nomatch h

theorem podTimeout (req : Nat) : Statement (.podTimeout req) := fun _ h => nomatch h

theorem performAtHome (core : CoreId) (k : Nat) : Statement (.performAtHome core k) := fun _ h => nomatch h

theorem scrub (die : DieId) : Statement (.scrub die) := fun _ h => nomatch h

theorem dirty (die : DieId) (tenant : TenantId) (msg : List Byte) : Statement (.dirty die tenant msg) := fun _ h => nomatch h

theorem attest (die : DieId) (tenant : TenantId) (msg : List Byte) : Statement (.attest die tenant msg) := fun _ h => nomatch h

theorem podidWrite (value : Word) : Statement (.podidWrite value) := fun _ h => nomatch h

theorem grantWrite (tenant : TenantId) (cmd : GrantCmd) : Statement (.grantWrite tenant cmd) := fun _ h => nomatch h

theorem linkGraphWrite (tenant : TenantId) (graph : BitVec 4) (bytes : List Byte) : Statement (.linkGraphWrite tenant graph bytes) := fun _ h => nomatch h

theorem waggleConfigure (ctl : Word) (start : Word) (base : Word) (slots : Word) : Statement (.waggleConfigure ctl start base slots) := fun _ h => nomatch h

theorem skctlWrite (die : DieId) (unit : BitVec 1) (value : Word) : Statement (.skctlWrite die unit value) := fun _ h => nomatch h

theorem registerWrite (die : DieId) (reg : HwReg) (value : Word) : Statement (.registerWrite die reg value) := fun _ h => nomatch h

theorem waggleSample (tick : Word) : Statement (.waggleSample tick) := fun _ h => nomatch h

theorem linkCrcError (l : LinkDir) (seq : Nat) : Statement (.linkCrcError l seq) := fun _ h => nomatch h

theorem slotReturn (l : LinkDir) (ch : Channel) (k : Nat) : Statement (.slotReturn l ch k) := fun _ h => nomatch h

theorem auditSend (l : LinkDir) (ch : Channel) : Statement (.auditSend l ch) := fun _ h => nomatch h

theorem auditReceive (l : LinkDir) (ch : Channel) (parityOk : Bool) : Statement (.auditReceive l ch parityOk) := fun _ h => nomatch h

theorem retrain (l : LinkDir) : Statement (.retrain l) := fun _ h => nomatch h

theorem retrainComplete (l : LinkDir) : Statement (.retrainComplete l) := fun _ h => nomatch h

theorem linkLost (l : LinkDir) : Statement (.linkLost l) := fun _ h => nomatch h

theorem slotReclaim (l : LinkDir) (ch : Channel) : Statement (.slotReclaim l ch) := fun _ h => nomatch h

theorem powerSample (die : DieId) (exceeds : Bool) (riseOk : Bool) : Statement (.powerSample die exceeds riseOk) := fun _ h => nomatch h

theorem boot (die : DieId) (signatureOk : Bool) : Statement (.boot die signatureOk) := fun _ h => nomatch h

theorem flitAcknowledgement (l : LinkDir) (seq : Nat) : Statement (.flitAcknowledgement l seq) := fun _ h => nomatch h

theorem eret : Statement .eret := by
  intro w h
  cases h
  simp only [put] at *
  omega

theorem yield : Statement .yield := by
  intro w h
  cases h
  simp only [put] at *
  omega

theorem brk : Statement .brk := by
  intro w h
  cases h
  simp only [put] at *
  omega

theorem dcwb : Statement .dcwb := by
  intro w h
  cases h
  simp only [put] at *
  omega

theorem halt : Statement .halt := by
  intro w h
  cases h
  simp only [put] at *
  omega

theorem cbselNb : Statement .cbselNb := by
  intro w h
  cases h
  simp only [put] at *
  omega

theorem cbselNm : Statement .cbselNm := by
  intro w h
  cases h
  simp only [put] at *
  omega

theorem cbfence : Statement .cbfence := by
  intro w h
  cases h
  simp only [put] at *
  omega

theorem railCut : Statement .railCut := fun _ h => nomatch h

theorem undefinedWord : Statement .undefinedWord := fun _ h => nomatch h

theorem fetchFault : Statement .fetchFault := fun _ h => nomatch h

theorem monitorReading (die : DieId) (readings : List (Nat × List Nat)) : Statement (.monitorReading die readings) := fun _ h => nomatch h

end Sys2Proof.Laws.Encoded
end

