-- ==== Sys2Proof/Tests/Slice0.lean ====
section
/-!
SUPPORT. The model's own tests: ill-formed terms that WellFormed refuses, words written out from the spec's encodings that decode
to their instructions, and, for every statement with hypotheses, a concrete machine and operands that meet them together.
-/

namespace Sys2Proof.Tests

open Sys2Proof.Machine

-- Each test runs the machine in the kernel: one after the other, so that their memory does not add up.
set_option Elab.async false

/-! ## Small machines -/

/-- Context 0 in user mode, at a boundary with nothing pending, at PC 0, where its page holds one word. -/
def user (w : Nat := 0x7F) : State := State.reset.withFetchWord 32 w

/-- With other registers of the moving context. -/
def withRegs (s : State) (rs : List (Nat × Word)) : State := { s with me := { s.me with a := { s.me.a with regs := rs } } }

/-- With other control registers of the moving context. -/
def withCsr (s : State) (f : Csrs → Csrs) : State := { s with me := { s.me with a := { s.me.a with csr := f s.me.a.csr } } }

/-- With other handles of the moving context. -/
def withHandles (s : State) (vs ks : List (Nat × Handle)) : State :=
  { s with me := { s.me with a := { s.me.a with vh := vs, kh := ks } } }

/-- With a changed core of the moving context. -/
def withCore (s : State) (f : Core → Core) : State := { s with cores := Sparse.set Core.reset s.cores s.me.core (f s.myCore) }

/-- With a changed die of the moving context. -/
def withDie (s : State) (f : Die → Die) : State := { s with dies := Sparse.set Die.reset s.dies s.me.die (f (s.die s.me.die)) }

/-- The same context in supervisor mode. -/
def supervisor : State := withCsr user fun c => { c with status := 1 }

/-- The nurse core of die 0. -/
def nurse : State := { State.reset with me := Ctx.vacant 4096 }.withFetchWord 32 0x7F

/-- Where a step ends. -/
def after (r : Res) : State := match r with | .next t => t | _ => State.reset

/-- Context 0 with one mask sink pending: kpop of k0 over three elements. -/
def pending : State := after (exec (.kpop 5 0) (withCsr user fun c => { c with vl := 3 }))

/-- The same once its pass is taken. -/
def passing : State := after (exec (.passTake 0) pending)

/-- An answer, from its decidable part. -/
theorem ok_of {ε α : Type} {e : Except ε α} {x : α} (h : e.toOption = some x) : e = .ok x := by
  cases e with
  | error c => cases h
  | ok y => cases h; rfl

/-- A translation that is found, from its decidable part. -/
theorem found_of {f : Found} {x : Xlat} (h : (match f with | .ok y => some y | _ => none) = some x) : f = .ok x := by
  cases f <;> cases h; rfl

/-- An error, from its decidable part. -/
theorem error_of {α : Type} {e : Except Cause α} {c : Cause}
    (h : (match e with | .error d => some d | .ok _ => none) = some c) : e = .error c := by
  cases e with
  | error d => cases h; rfl
  | ok y => cases h

/-- No handle that names nothing is read. -/
theorem readable_nil (s : State) : s.readable [] := fun _ h => by cases h

/-- A core with an empty data cache has no stale line. -/
theorem unstale_of_empty {s : State} (h : (s.core s.me.core).cache = []) : s.unstale := by
  refine ⟨fun a => ?_, fun w => ?_⟩
  · simp [State.coreByte, Core.line?, h]
  · have hw : wordsOf (8 * w) 8 = [w] := by
      have h1 : 8 * w / 8 = w := by omega
      have h2 : (8 * w + 7) / 8 + 1 - w = 1 := by omega
      simp [wordsOf, h1, h2]
    simp [State.corePoison, hw, Core.line?, h]

/-- What a test of an Option finds. -/
theorem any_some {α : Type} {o : Option α} {p : α → Bool} (h : o.any p = true) : ∃ x, o = some x ∧ p x = true := by
  cases o with
  | none => cases h
  | some x => exact ⟨x, rfl, h⟩

/-! ## Ill-formed terms -/

/-- One ill-formed term for each check of WellFormed.lean: fields past bit 63, formats that no scalar conversion or vcvt takes, counts of 0,
a scope that bar does not take, a range of registers that falls, operand variants that an instruction does not list. -/
theorem test_ill_formed_terms_are_refused :
    ([.bfxZ 1 2 63 1, .bfxS 1 2 60 4, .bfi 1 2 33 31, .fcvtFromF32 .f32 1 2, .fcvtToF32 .ix4 1 2, .vcvt .b32 false 1 2, .wcall 0 1, .wret 0, .winb 0,
      .bar .ctx, .deadScalar 2 1, .deadVector 127 0, .deadMask 2 1, .vand .vc false 1 2 3, .vor .vc false 1 2 3, .vxor .vc false 1 2 3,
      .vmulh .vc false 1 2 3, .vshl .sv false 1 2 3, .vshr .vc false 1 2 3, .vsra .sv false 1 2 3, .vscl .vc false 1 2 3] : List Instr).all
      (fun i => !i.wellFormed) = true := by decide

/-- The same at the last value that each check lets pass. -/
theorem test_well_formed_terms_at_the_bounds :
    ([.bfxZ 1 2 63 0, .bfxS 1 2 60 3, .bfi 1 2 33 30, .fcvtFromF32 .bf16 1 2, .fcvtToF32 .i64 1 2, .vcvt .f16 false 1 2, .wcall 1 1, .wret 1, .winb 8,
      .bar .core, .deadScalar 1 1, .deadVector 0 0, .deadMask 1 1, .vand .sv false 1 2 3, .vshl .vi false 1 2 3] : List Instr).all
      (fun i => i.wellFormed) = true := by decide

/-- The words of ill-formed terms, and reserved words, are no instruction: opcode 0, the reserved slots, a selector that no row lists, a field of 0,
a scope code 6, sc without order 3 (04 R108 to R118). -/
theorem test_reserved_words_are_refused :
    ([0x00000000, 0x00000011, 0x0000002F, 0x0000003D, 0x00000059, 0x0000006A, 0x00000075, 0x0000007C, 0xE0000001, 0x70000002, 0xC000003C, 0xE0000037,
      0x00200003, 0x20000037, 0x40000037, 0xF00000A4, 0x400000A4, 0x08000020, 0x84000021, 0x0000007B, 0x0FE0000B] : List Nat).all
      (fun w => (decodeTableWord 32 w).isNone) = true := by decide +kernel

/-! ## Words written out from the encodings of 04 R104 to R122, one for every instruction: the match word of the opcode table with its fields
set -/

theorem test_decode_integer_a :
    decodeTableWord 32 0x00356001 = some (.add 64 85 1) ∧
    decodeTableWord 32 0x181FD081 = some (.sub 33 127 64) ∧
    decodeTableWord 32 0x24206A81 = some (.and 85 1 33) ∧
    decodeTableWord 32 0x3AB03F81 = some (.or 127 64 85) ∧
    decodeTableWord 32 0x4FE84081 = some (.xor 1 33 127) ∧
    decodeTableWord 32 0x50356001 = some (.shl 64 85 1) ∧
    decodeTableWord 32 0x681FD081 = some (.shr 33 127 64) ∧
    decodeTableWord 32 0x74206A81 = some (.sra 85 1 33) ∧
    decodeTableWord 32 0x8AB03F81 = some (.slt 127 64 85) ∧
    decodeTableWord 32 0x9FE84081 = some (.sltn 1 33 127) ∧
    decodeTableWord 32 0xA0356001 = some (.minS 64 85 1) ∧
    decodeTableWord 32 0xB81FD081 = some (.minZ 33 127 64) ∧
    decodeTableWord 32 0xC4206A81 = some (.maxS 85 1 33) ∧
    decodeTableWord 32 0xDAB03F81 = some (.maxZ 127 64 85) ∧
    decodeTableWord 32 0x0FE84082 = some (.mul 1 33 127) ∧
    decodeTableWord 32 0x10356002 = some (.mulhS 64 85 1)  := by
  decide +kernel

theorem test_decode_integer_b :
    decodeTableWord 32 0x281FD082 = some (.mulhZ 33 127 64) ∧
    decodeTableWord 32 0x34206A82 = some (.divS 85 1 33) ∧
    decodeTableWord 32 0x4AB03F82 = some (.divZ 127 64 85) ∧
    decodeTableWord 32 0x5FE84082 = some (.remS 1 33 127) ∧
    decodeTableWord 32 0x60356002 = some (.remZ 64 85 1) ∧
    decodeTableWord 32 0x001FD083 = some (.clz 33 127) ∧
    decodeTableWord 32 0x10156003 = some (.ctz 64 85) ∧
    decodeTableWord 32 0x20084083 = some (.popc 1 33) ∧
    decodeTableWord 32 0x30103F83 = some (.bswap 127 64) ∧
    decodeTableWord 32 0x44206A83 = some (.fsh 85 1 33) ∧
    decodeTableWord 32 0x80303F84 = some (.addi 127 64 1025) ∧
    decodeTableWord 32 0x80284085 = some (.andi 1 33 1025) ∧
    decodeTableWord 32 0x80356006 = some (.ori 64 85 1025) ∧
    decodeTableWord 32 0x803FD087 = some (.xori 33 127 1025) ∧
    decodeTableWord 32 0x04006A88 = some (.shli 85 1 32) ∧
    decodeTableWord 32 0x07F03F89 = some (.shri 127 64 63)  := by
  decide +kernel

theorem test_decode_integer_c :
    decodeTableWord 32 0x0028408A = some (.srai 1 33 1) ∧
    decodeTableWord 32 0xF421C50B = some (.bfxZ 10 7 33 30) ∧
    decodeTableWord 32 0xF421C50C = some (.bfxS 10 7 33 30) ∧
    decodeTableWord 32 0x07E1C50D = some (.bfi 10 7 63 0) ∧
    decodeTableWord 32 0x8000408E = some (.lui 1 131073) ∧
    decodeTableWord 32 0x80007F8F = some (.pcadd 127 131073)  := by
  decide +kernel

theorem test_decode_float :
    decodeTableWord 32 0x04206A90 = some (.fadd 85 1 33) ∧
    decodeTableWord 32 0x1AB03F90 = some (.fsub 127 64 85) ∧
    decodeTableWord 32 0x2FE84090 = some (.fmul 1 33 127) ∧
    decodeTableWord 32 0x30356010 = some (.fdiv 64 85 1) ∧
    decodeTableWord 32 0x481FD090 = some (.fmin 33 127 64) ∧
    decodeTableWord 32 0x54206A90 = some (.fmax 85 1 33) ∧
    decodeTableWord 32 0x60103F90 = some (.fsqrt 127 64) ∧
    decodeTableWord 32 0x74206A90 = some (.fma 85 1 33) ∧
    decodeTableWord 32 0x8AB03F90 = some (.fcmpEq 127 64 85) ∧
    decodeTableWord 32 0x9FE84090 = some (.fcmpLt 1 33 127) ∧
    decodeTableWord 32 0xA0356010 = some (.fcmpLe 64 85 1) ∧
    decodeTableWord 32 0xB81FD090 = some (.fcmpUn 33 127 64) ∧
    decodeTableWord 32 0xC0484090 = some (.fcvtFromF32 .f16 1 33) ∧
    decodeTableWord 32 0xC4956010 = some (.fcvtToF32 .e4m3 64 85)  := by
  decide +kernel

theorem test_decode_memory :
    decodeTableWord 32 0x5C1FEAA0 = some (.ldb true (some .die) 1 63 85) ∧
    decodeTableWord 32 0xE7F82AA0 = some (.ldh true (some .pkg) 63 32 85) ∧
    decodeTableWord 32 0x4E056AA1 = some (.ldw true (some .core) 32 21 85) ∧
    decodeTableWord 32 0xCA056021 = some (.ldd (some .core) 32 21 64) ∧
    decodeTableWord 32 0x48157FA2 = some (.stb (some .core) 1 21 127) ∧
    decodeTableWord 32 0xCD5550A2 = some (.sth (some .core) 85 21 33) ∧
    decodeTableWord 32 0x4C0540A3 = some (.stw (some .core) 64 21 1) ∧
    decodeTableWord 32 0xCFF56AA3 = some (.std (some .core) 127 21 85) ∧
    decodeTableWord 32 0xD00000A4 = some (.fence .sc .quad)  := by
  decide +kernel

theorem test_decode_atomic :
    decodeTableWord 32 0xD6057FA5 = some (.amoadd .ar .quad true 32 21 127) ∧
    decodeTableWord 32 0xD41FE026 = some (.amoswp .ar .quad true 1 63 64) ∧
    decodeTableWord 32 0xD6056AA7 = some (.amocas .ar .quad true 32 21 85) ∧
    decodeTableWord 32 0xD41FC0A8 = some (.amominS .ar .quad true 1 63 1) ∧
    decodeTableWord 32 0xD60550A9 = some (.amominZ .ar .quad true 32 21 33) ∧
    decodeTableWord 32 0xD41FFFAA = some (.amomaxS .ar .quad true 1 63 127) ∧
    decodeTableWord 32 0xD605602B = some (.amomaxZ .ar .quad true 32 21 64) ∧
    decodeTableWord 32 0xD41FEAAC = some (.amoand .ar .quad true 1 63 85) ∧
    decodeTableWord 32 0xD60540AD = some (.amoor .ar .quad true 32 21 1) ∧
    decodeTableWord 32 0xD41FD0AE = some (.amoxor .ar .quad true 1 63 33)  := by
  decide +kernel

theorem test_decode_control :
    decodeTableWord 32 0x80303FB0 = some (.beq 127 64 1025) ∧
    decodeTableWord 32 0x802840B1 = some (.bne 1 33 1025) ∧
    decodeTableWord 32 0x80356032 = some (.blt 64 85 1025) ∧
    decodeTableWord 32 0x803FD0B3 = some (.bge 33 127 1025) ∧
    decodeTableWord 32 0x80206AB4 = some (.bltn 85 1 1025) ∧
    decodeTableWord 32 0x80303FB5 = some (.bgen 127 64 1025) ∧
    decodeTableWord 32 0x800040B6 = some (.jal 1 131073) ∧
    decodeTableWord 32 0x10303FB7 = some (.jalr 127 64 129) ∧
    decodeTableWord 32 0x300043B7 = some (.wcall 7 16385) ∧
    decodeTableWord 32 0x400002B7 = some (.wret 5) ∧
    decodeTableWord 32 0x60000437 = some (.winb 8) ∧
    decodeTableWord 32 0x92A003B7 = some (.rep 2 21 7) ∧
    decodeTableWord 32 0xB00047B7 = some (.bkany 15 16385) ∧
    decodeTableWord 32 0xD00042B7 = some (.bknone 5 16385)  := by
  decide +kernel

theorem test_decode_system :
    decodeTableWord 32 0x802010B8 = some (.csrr 33 1025) ∧
    decodeTableWord 32 0x80356039 = some (.csrw 64 85 1025) ∧
    decodeTableWord 32 0x803FD0BA = some (.csrset 33 127 1025) ∧
    decodeTableWord 32 0x80206ABB = some (.csrclr 85 1 1025) ∧
    decodeTableWord 32 0x001FC03C = some (.trap 127) ∧
    decodeTableWord 32 0x1000003C = some .eret ∧
    decodeTableWord 32 0x2010003C = some (.wfe 64) ∧
    decodeTableWord 32 0x3000003C = some .yield ∧
    decodeTableWord 32 0x4000003C = some .brk ∧
    decodeTableWord 32 0x5035403C = some (.tlbinv 85 1) ∧
    decodeTableWord 32 0x6000003C = some .dcwb ∧
    decodeTableWord 32 0x7FE8403C = some (.dcinv 33 127) ∧
    decodeTableWord 32 0x8000003C = some .halt ∧
    decodeTableWord 32 0x9035603C = some (.freeze 64 85 1) ∧
    decodeTableWord 32 0xA81FD0BC = some (.launch 33 127 64) ∧
    decodeTableWord 32 0xB0006ABC = some (.lwait 85 1)  := by
  decide +kernel

theorem test_decode_elementwise_1_a :
    decodeTableWord 32 0x90356040 = some (.vadd .sv true 64 85 1) ∧
    decodeTableWord 32 0x90356041 = some (.vsub .sv true 64 85 1) ∧
    decodeTableWord 32 0x90356042 = some (.vmul .sv true 64 85 1) ∧
    decodeTableWord 32 0x90356043 = some (.vdiv .sv true 64 85 1) ∧
    decodeTableWord 32 0x90356044 = some (.vmin .sv true 64 85 1) ∧
    decodeTableWord 32 0x90356045 = some (.vmax .sv true 64 85 1) ∧
    decodeTableWord 32 0x90356046 = some (.vfma .sv true 64 85 1) ∧
    decodeTableWord 32 0x90356047 = some (.vfms .sv true 64 85 1) ∧
    decodeTableWord 32 0x10103FC8 = some (.vsqrt true 127 64) ∧
    decodeTableWord 32 0x102840C8 = some (.vabs true 1 33) ∧
    decodeTableWord 32 0x10556048 = some (.vneg true 64 85) ∧
    decodeTableWord 32 0x107FD0C8 = some (.vrcp true 33 127) ∧
    decodeTableWord 32 0x10806AC8 = some (.vrsq true 85 1) ∧
    decodeTableWord 32 0x10B03FC8 = some (.vexp2 true 127 64) ∧
    decodeTableWord 32 0x10C840C8 = some (.vlog2 true 1 33) ∧
    decodeTableWord 32 0x10F56048 = some (.vtanh true 64 85)  := by
  decide +kernel

theorem test_decode_elementwise_1b : decodeTableWord 32 0x111FD0C8 = some (.vsigm true 33 127) := by decide +kernel

theorem test_decode_elementwise_2_a :
    decodeTableWord 32 0x9FE840C9 = some (.vand .sv true 1 33 127) ∧
    decodeTableWord 32 0x9FE840CA = some (.vor .sv true 1 33 127) ∧
    decodeTableWord 32 0x9FE840CB = some (.vxor .sv true 1 33 127) ∧
    decodeTableWord 32 0x7FE840CC = some (.vshl .vi true 1 33 127) ∧
    decodeTableWord 32 0x7FE840CD = some (.vshr .vi true 1 33 127) ∧
    decodeTableWord 32 0x7FE840CE = some (.vsra .vi true 1 33 127) ∧
    decodeTableWord 32 0x9FE840CF = some (.vmulh .sv true 1 33 127) ∧
    decodeTableWord 32 0x981FFAD0 = some (.vcmp .sv true .ord 5 127 64) ∧
    decodeTableWord 32 0x9FE840D1 = some (.vsel .sv 1 33 127) ∧
    decodeTableWord 32 0x102840D2 = some (.vcvt .bf16 true 1 33) ∧
    decodeTableWord 32 0x74206AD3 = some (.vscl .vi true 85 1 33) ∧
    decodeTableWord 32 0x10406AD4 = some (.vblk .g32 true 85 1) ∧
    decodeTableWord 32 0x10103FD5 = some (.vrngRaw true 127 64) ∧
    decodeTableWord 32 0x102840D5 = some (.vrngUnif true 1 33) ∧
    decodeTableWord 32 0x80303FD6 = some (.setvli 127 64 1025) ∧
    decodeTableWord 32 0x0FE840D7 = some (.setvl 1 33 127)  := by
  decide +kernel

theorem test_decode_elementwise_2_b :
    decodeTableWord 32 0x10100057 = some (.setel 64) ∧
    decodeTableWord 32 0x20002AD7 = some (.vforce 85) ∧
    decodeTableWord 32 0x301FC0D7 = some (.deadScalar 1 127) ∧
    decodeTableWord 32 0x401FC0D7 = some (.deadVector 1 127) ∧
    decodeTableWord 32 0x5003C0D7 = some (.deadMask 1 15)  := by
  decide +kernel

theorem test_decode_masks :
    decodeTableWord 32 0x01E042D8 = some (.kmeet 5 1 15) ∧
    decodeTableWord 32 0x10214458 = some (.kjoin 8 5 1) ∧
    decodeTableWord 32 0x20A207D8 = some (.kdiff 15 8 5) ∧
    decodeTableWord 32 0x3103C0D8 = some (.kless 1 15 8) ∧
    decodeTableWord 32 0x400042D8 = some (.kflip 5 1) ∧
    decodeTableWord 32 0x500207D8 = some (.kcopy 15 8) ∧
    decodeTableWord 32 0x600042D8 = some (.kmsk 5 1) ∧
    decodeTableWord 32 0x700047D8 = some (.kset 15 1) ∧
    decodeTableWord 32 0x800050D8 = some (.kpop 33 1) ∧
    decodeTableWord 32 0x90022058 = some (.kfirst 64 8)  := by
  decide +kernel

theorem test_decode_vector_memory :
    decodeTableWord 32 0x440FD0E0 = some (.vld true 33 63 64) ∧
    decodeTableWord 32 0x4FFFC0E0 = some (.vlds true 1 63 127) ∧
    decodeTableWord 32 0x521FEAE0 = some (.vldx true 85 63 33) ∧
    decodeTableWord 32 0x581FE060 = some (.vldb true 64 63 1) ∧
    decodeTableWord 32 0x455FFFE1 = some (.vst true 127 63 85) ∧
    decodeTableWord 32 0x4C0FD0E1 = some (.vsts true 33 63 64) ∧
    decodeTableWord 32 0x57FFC0E1 = some (.vstx true 1 63 127) ∧
    decodeTableWord 32 0x440050FA = some (.vldc true 33 1 64)  := by
  decide +kernel

theorem test_decode_movement :
    decodeTableWord 32 0x00356062 = some (.vext 64 85 1) ∧
    decodeTableWord 32 0x1AB03FE3 = some (.vslup true 127 64 85) ∧
    decodeTableWord 32 0x181FD0E4 = some (.vsldn true 33 127 64) ∧
    decodeTableWord 32 0x1FE840E5 = some (.vperm true 1 33 127) ∧
    decodeTableWord 32 0x10006AE6 = some (.vcmpr true 85 1) ∧
    decodeTableWord 32 0x10103FE7 = some (.vexpd true 127 64) ∧
    decodeTableWord 32 0x10BFD0E8 = some (.vscan .xor true 33 127) ∧
    decodeTableWord 32 0x10006AE9 = some (.vrsumo true 85 1) ∧
    decodeTableWord 32 0x10303FE9 = some (.vrsumt true 127 64) ∧
    decodeTableWord 32 0x104840E9 = some (.vrmax true 1 33) ∧
    decodeTableWord 32 0x10756069 = some (.vrmin true 64 85) ∧
    decodeTableWord 32 0x109FD0E9 = some (.vrargx true 33 127) ∧
    decodeTableWord 32 0x12A840E9 = some (.vrbit .xor true 1 33)  := by
  decide +kernel

theorem test_decode_lanes_and_banks :
    decodeTableWord 32 0x00103FF0 = some (.vpart 127 64) ∧
    decodeTableWord 32 0x3FE840F0 = some (.vlpld true 1 33 127) ∧
    decodeTableWord 32 0x54206AF0 = some (.vlpst true 85 1 33) ∧
    decodeTableWord 32 0x7AA02070 = some (.vlpstB true 64 85) ∧
    decodeTableWord 32 0x0FE840F1 = some (.cbld 1 33 127) ∧
    decodeTableWord 32 0x103542F1 = some (.cbst 5 85 1) ∧
    decodeTableWord 32 0x281FC471 = some (.cbwr 8 127 64) ∧
    decodeTableWord 32 0x34222AF1 = some (.cbrd 85 8 33) ∧
    decodeTableWord 32 0x4AB000F1 = some (.cbval 1 64 85) ∧
    decodeTableWord 32 0x500002F1 = some (.cbselB 5) ∧
    decodeTableWord 32 0x502000F1 = some (.cbselM 1) ∧
    decodeTableWord 32 0x50400071 = some .cbselNb ∧
    decodeTableWord 32 0x50600071 = some .cbselNm ∧
    decodeTableWord 32 0x60000071 = some .cbfence ∧
    decodeTableWord 32 0x70B03FF1 = some (.vcbx 127 64 5)  := by
  decide +kernel

theorem test_decode_comb :
    decodeTableWord 32 0x181FC0F2 = some (.comba true 1 127 64) ∧
    decodeTableWord 32 0x3FE841F2 = some (.combs true 3 33 127) ∧
    decodeTableWord 32 0x403541F2 = some (.combi 3 85 1) ∧
    decodeTableWord 32 0x001FD0F3 = some (.msetvl 33 127) ∧
    decodeTableWord 32 0x100000F3 = some (.mzero 1) ∧
    decodeTableWord 32 0x2420AAF3 = some (.mrdr 85 2 33) ∧
    decodeTableWord 32 0x3AA0BFF3 = some (.mrdc 127 2 85) ∧
    decodeTableWord 32 0x4FE841F3 = some (.mwrr 3 33 127) ∧
    decodeTableWord 32 0x503541F3 = some (.mld 3 85 1) ∧
    decodeTableWord 32 0x681FC1F3 = some (.mst 3 127 64) ∧
    decodeTableWord 32 0x70006AF3 = some (.smode 85 1) ∧
    decodeTableWord 32 0x800010F3 = some (.sexit 33) ∧
    decodeTableWord 32 0x90103FF3 = some (.sprog 127 64)  := by
  decide +kernel

theorem test_decode_coverage :
    decodeTableWord 32 0x042040F4 = some (.cvset 1 1 33) ∧
    decodeTableWord 32 0x101000F4 = some (.cvwt 1 64) ∧
    decodeTableWord 32 0x24206AF4 = some (.cvprb 85 1 33) ∧
    decodeTableWord 32 0x3020FFF4 = some (.cvprbb 127 1 1 1) ∧
    decodeTableWord 32 0x401FC0F4 = some (.cvcom 1 127) ∧
    decodeTableWord 32 0x50356074 = some (.cvsel 64 85 1) ∧
    decodeTableWord 32 0x680050F4 = some (.cvrd 33 1 64)  := by
  decide +kernel

theorem test_decode_quad :
    decodeTableWord 32 0x8FE840F8 = some (.bxfer 8 1 33 127) ∧
    decodeTableWord 32 0x0AB00079 = some (.bbini 64 85) ∧
    decodeTableWord 32 0x14204079 = some (.bbexp 1 33) ∧
    decodeTableWord 32 0x281FC079 = some (.bbarv 127 64) ∧
    decodeTableWord 32 0x34206AF9 = some (.bbwait 85 1 33) ∧
    decodeTableWord 32 0x4AB002F9 = some (.bbtest 5 64 85) ∧
    decodeTableWord 32 0x0020007B = some (.bar .core) ∧
    decodeTableWord 32 0x1FE840FB = some (.bind 1 33 127) ∧
    decodeTableWord 32 0x2010007B = some (.unbind 64) ∧
    decodeTableWord 32 0x800000FF = some (.nop 16777217)  := by
  decide +kernel

/-! ## Witnesses of the hypotheses of the statements -/

theorem test_user_traps_now : (user).TrapsNow := ⟨by decide +kernel, by decide +kernel, by decide +kernel, by decide +kernel⟩

theorem test_user_quiet : (user).Quiet := ⟨rfl, rfl, rfl, rfl, rfl⟩

theorem test_user_clear : (user).Clear := ⟨by decide +kernel, rfl, rfl, rfl⟩

theorem test_user_writes_done : (user).WritesDone := by
  constructor
  · have h : user.myCore.path = [] := by decide +kernel
    rw [h]; exact fun _ h => by cases h
  · exact fun _ h => by cases h

/-- IntegerResults, at both ends of the shift and field ranges; the float statements. -/
theorem test_readable : (user).readable [1, 2, 3] ∧ (user).readable [0, 127] := by
  unfold State.readable; decide +kernel

theorem test_field_at_the_top : (63 : BitVec 6).toNat + ((0 : BitVec 5).toNat + 1) ≤ 64 := by decide

/-- WindowNaming: a live register, under DEADM off. -/
theorem test_window_names :
    (user).me.a.dead.getLsbD ((16 * ((user).me.a.csr.win.toNat % 32) + (127 : SReg).toNat) % 512) = false ∧ (127 : SReg) ≠ 0 ∧
      (1 : SReg) ≠ 0 ∧ (1 : SReg) ≠ 127 := by decide +kernel

/-- FloatConvertResults: a format that converts. RoundingModes: a multiple below and one above the quantum, a subnormal that is tiny, a
value in the range and one past it. ExactOperations: each case of a zero or nonzero operand. -/
theorem test_float_hypotheses :
    (let l := Fmt.f32.layout
     let free (m : Nat) (e : Int) : Int := (Nat.log2 m : Int) + e - l.mbits
     (free 3 (-150) < l.minQ ∧ max l.minQ (free 3 (-150)) < l.maxQ) ∧ (l.minQ ≤ free 1 0 ∧ free 1 0 < l.maxQ) ∧
       (free 1 127 = l.maxQ ∧ (roundAt Rounding.nearest false 1 127 false l.maxQ).1 ≤ l.maxM) ∧ l.maxQ < free 1 128 ∧
       Rounding.nearest.mode ≤ 4 ∧ ¬(l.maxQ < free 1 127)) ∧
    Fmt.bf16.scalarConvertible = true ∧ ((0 : Int) ≤ 3 ∧ (0 : Int) < 3 ∧ (0xFFFFFFFF : Nat) < 2 ^ 32) ∧
      (Fmt.f32.cls = .f ∧ (1 : Nat) < 2 ^ Fmt.f32.bits ∧ (unpack Fmt.f32.layout 1).isNan = false ∧ (unpack Fmt.f32.layout 0x7F800001).isNan = true) := by
  decide +kernel

/-- TrapEntry: in user and in supervisor mode. -/
theorem test_trap_entry_hypotheses :
    ((user).me.nurse = false ∧ ((user).die (user).me.die).trslots = 0 ∧ (user).me.a.csr.sup = false ∧ 3 < 4) ∧
      (supervisor.me.nurse = false ∧ (supervisor.die supervisor.me.die).trslots = 0 ∧ supervisor.me.a.csr.sup = true) := by decide +kernel

/-- TrapAtIssueWaits: a pending sink; a dead register read under DEADM.TRAP. -/
theorem test_trap_waits_hypotheses : pending.me.busy = true ∧
    (let s := { withCsr user (fun c => { c with deadm := 1 }) with me := { (withCsr user fun c => { c with deadm := 1 }).me with
        a := { (withCsr user fun c => { c with deadm := 1 }).me.a with dead := 2 } } }
     s.me.nurse = false ∧ s.me.a.csr.sup = false ∧ s.me.busy = false ∧ (s.die s.me.die).trslots = 0 ∧
       s.me.a.csr.deadm.getLsbD 0 = true ∧ (1 : SReg) ≠ 0 ∧ s.me.a.dead.getLsbD (s.me.a.phys 1) = true) := by decide +kernel

/-- PrivilegedInstructions, ExceptionReturn: a supervisor with an aligned EPC, one with a misaligned EPC. -/
theorem test_supervisor_hypotheses :
    (supervisor.me.nurse = false ∧ supervisor.me.a.csr.sup = true ∧ supervisor.me.busy = false ∧ supervisor.me.a.csr.epc.toNat % 4 = 0 ∧
      supervisor.me.a.csr.stripPend = false ∧ supervisor.me.stopped = none ∧ supervisor.me.resume = none) ∧
    (let s := withCsr supervisor fun c => { c with epc := 2 }
     s.me.a.csr.sup = true ∧ s.me.nurse = false ∧ s.me.busy = false ∧ s.me.a.csr.epc.toNat % 4 ≠ 0) := by decide +kernel

/-- A supervisor before its stopped pass. -/
def stopped : State :=
  { withCsr passing (fun c => { c with status := 1, strip := 0x80000000 }) with
    me := { (withCsr passing fun c => { c with status := 1, strip := 0x80000000 }).me with run := none, stopped := passing.me.run } }

theorem test_stopped_pass_hypotheses : ∃ r, stopped.me.a.csr.sup = true ∧ stopped.me.nurse = false ∧ stopped.me.a.csr.epc.toNat % 4 = 0 ∧
    stopped.me.a.csr.stripPend = true ∧ stopped.me.stopped = some r :=
  ⟨_, by decide +kernel, by decide +kernel, by decide +kernel, by decide +kernel, rfl⟩

/-- BranchesAndJumps: no rep; a register whose jump is aligned, and one whose jump is not. -/
theorem test_jump_hypotheses : (user).me.a.rep = none ∧
    (BitVec.ofInt 64 ((((withRegs user [(1, 8)]).reg 1).toNat : Int) + (0 : BitVec 8).toInt * 4)).toNat % 4 = 0 ∧
    (BitVec.ofInt 64 ((((withRegs user [(1, 6)]).reg 1).toNat : Int) + (0 : BitVec 8).toInt * 4)).toNat % 4 ≠ 0 := by decide +kernel

/-- WindowedCallAndReturn: WDEPTH at the bounds of wcall, wret and winb. -/
theorem test_window_hypotheses :
    (let depth (s : State) : Nat := s.me.a.csr.win.toNat / 2 ^ 8 % 64
     let deep := withCsr user fun c => { c with win := 0x1800 }
     (32 < depth deep + 1 + 8 ∧ depth (withCsr user fun c => { c with win := 0x1700 }) + 1 + 8 ≤ 32) ∧
       (depth user < 1 ∧ 7 ≤ depth (withCsr user fun c => { c with win := 0x700 })) ∧
       ((Sparse.get 0 (withRegs user [(0, 4)]).me.a.regs 0).toNat % 4 = 0 ∧ (Sparse.get 0 (withRegs user [(0, 2)]).me.a.regs 0).toNat % 4 ≠ 0) ∧
       ((1 : BitVec 4) ≠ 0 ∧ 0 < (1 : BitVec 4).toInt ∧ 32 < (depth deep : Int) + (1 : BitVec 4).toInt + 8) ∧
       ((8 : BitVec 4).toInt < 0 ∧ (depth user : Int) < -(8 : BitVec 4).toInt ∧
         -(8 : BitVec 4).toInt ≤ (depth (withCsr user fun c => { c with win := 0x800 }) : Int))) := by decide +kernel

/-- RepeatPrefix: the word after PC may be repeated, may not be, cannot be fetched; the last repeat is past. -/
theorem test_rep_hypotheses :
    (match (user).fetch ((user).me.a.pc + 4) with | .ok _ w => repAccepts w 0 5 7 == false | _ => false) = true ∧
      (let s := { user with mem := [(0, 0x7F), (4, 0xC0), (5, 0x41), (6, 0x40)] }
       (match s.fetch (s.me.a.pc + 4) with | .ok _ w => repAccepts w 0 5 1 | _ => false) = true) ∧
      (let s := { user with me := { user.me with a := { user.me.a with pc := 0xFFC } } }
       (match s.fetch (s.me.a.pc + 4) with | .fault c => decide (c ≠ .poison) | _ => false) = true) ∧
      (let s := withCsr user fun c => { c with repc := 0x86 }
       s.me.a.csr.repc.getLsbD 7 = true ∧ (5 : BitVec 6).toNat < s.me.a.csr.repc.toNat % 128) := by decide +kernel

/-- RepeatPrefix: a repeat before the last and the last. -/
theorem test_repeat_hypotheses :
    ∃ r, { user with me := { user.me with a := { user.me.a with rep := some { count := 2, st := 0, fm := 0 } } } }.me.a.rep = some r ∧
      0 + 1 < r.count ∧ r.count ≤ 1 + 1 := ⟨_, rfl, by decide, by decide⟩

theorem test_repeated_word_hypotheses : ∃ i fs, decode 0x004041C0 = .ok i ∧ repAccepts 0x004041C0 0 5 1 = true ∧ 5 ≤ (5 : BitVec 6).toNat ∧
    repChosen i 1 = some fs := ⟨_, _, rfl, by decide +kernel, by decide, rfl⟩
/-- CsrMapAndRights, CsrWriteResults: a number that is not assigned, and one of each right; a legal and an illegal VTYPE; who may write. -/
theorem test_csr_numbers :
    (let x (n : Nat) := (csrMap.find? fun e => e.1 == n).map fun e => e.2.1
     x 0x7FF = none ∧ x 0x000 = some .ur ∧ x 0x008 = some .u ∧ x 0x050 = some .ro ∧ x 0x106 = some .s) ∧
    (user.me.busy = false ∧ user.me.stopped = none ∧ user.me.resume = none ∧ user.me.a.rep = none ∧ supervisor.me.stopped = none ∧
      supervisor.me.resume = none ∧ supervisor.me.busy = false ∧ supervisor.me.nurse = false ∧ (2 : SReg) ≠ 0) := by decide +kernel

/-- CsrWriteResults: a pending sink, and the registers that wait for it. -/
theorem test_csr_waits : pending.me.busy = true ∧ pending.readable [1] ∧
    (0x033 : BitVec 11).toNat ∈ [0x008, 0x010, 0x011, 0x012, 0x013, 0x014, 0x015, 0x016, 0x004, 0x032, 0x033] ∧
    (0x016 : BitVec 11).toNat ∈ [0x008, 0x010, 0x011, 0x012, 0x013, 0x014, 0x015, 0x016] := by
  unfold State.readable; decide +kernel

/-- A scalar access at an address of the page that the TLB maps. -/
def data : State := withRegs user [(1, 0x100), (2, 5), (3, 0x101), (4, 0x1000), (5, 0x100)]

/-- The translation of 0x100. -/
def xlat : Xlat := { va := 0x100, pa := 0x100, entry := fetchPage 0 0 0, found := 0, drew := false }

theorem test_translates (k : Access) : data.lookup data.me 0x100 k = .ok xlat := by cases k <;> decide +kernel

theorem test_reaches (size : Nat) (h : size ∈ [1, 2, 4, 8, 64]) (k : Access) : data.Reaches 0x100 size k xlat := by
  refine ⟨?_, test_translates k, ?_, by decide +kernel, by decide +kernel⟩
  · revert size; decide
  · have hd : (data.die data.me.die).debug = [] := by decide +kernel
    simp [State.slotHits, hd]

/-- LoadResults: every width at an aligned address, at the core and at the home. -/
theorem test_load_hypotheses : data.Quiet ∧ data.me.ahead = [] ∧ data.readable [sregOfBase 1] ∧
    BitVec.ofInt 64 (((data.reg (sregOfBase 1)).toNat : Int) + (0 : BitVec 6).toInt * 8) = 0x100 ∧
    (∀ size ∈ [1, 2, 4, 8], data.Reaches 0x100 size .read xlat) ∧
    data.homePoison xlat.pa 8 = false ∧ data.pathOverlaps xlat.pa 8 = false ∧ data.corePoison data.me.core xlat.pa 8 = false := by
  refine ⟨⟨rfl, rfl, rfl, rfl, rfl⟩, rfl, ?_, by decide +kernel, fun n h => test_reaches n ?_ _, by decide +kernel, by decide +kernel,
    by decide +kernel⟩
  · unfold State.readable; decide +kernel
  · revert n; decide

/-- StoreResults: nothing pending, and behind a pending sink. -/
theorem test_store_hypotheses : data.Quiet ∧ data.me.lag = false ∧ data.readable [sregOfBase 1, 2] ∧
    (∀ size ∈ [1, 2, 4, 8], data.Reaches 0x100 size .write xlat) ∧
    (let s := withRegs pending data.me.a.regs
     (∃ p ∈ s.me.items, p.no < s.me.issueNo) ∧ s.me.held = [] ∧ s.readable [sregOfBase 1, 2] ∧ ∀ n ∈ [1, 2, 4, 8],
       let va : Word := BitVec.ofInt 64 (((s.reg (sregOfBase 1)).toNat : Int) + (0 : BitVec 7).toInt * (n : Nat))
       s.Reaches va n .write xlat ∧ s.guarded [{ base := va.toNat, len := n }] = []) := by
  refine ⟨⟨rfl, rfl, rfl, rfl, rfl⟩, rfl, ?_, fun n h => test_reaches n ?_ _, ?_⟩
  · unfold State.readable; decide +kernel
  · revert n; decide
  · refine ⟨by decide +kernel, rfl, ?_, fun n h => ⟨⟨?_, ?_, ?_, by decide +kernel, by decide +kernel⟩, ?_⟩⟩
    · unfold State.readable; decide +kernel
    all_goals revert n; decide +kernel

/-- ScalarAccessFaults: a misaligned address, and one that no table maps, for a load, a store and an atomic. -/
theorem test_access_fault_hypotheses : data.TrapsNow ∧ data.readable [sregOfBase 3, sregOfBase 2, 2] ∧
    (data.reg (sregOfBase 3) + (0 : BitVec 6).signExtend 64 * 8).toNat % 8 ≠ 0 ∧ (data.reg (sregOfBase 3)).toNat % 8 ≠ 0 ∧
    (data.reg (sregOfBase 4)).toNat % 8 = 0 ∧ ∀ k ∈ [Access.read, .write, .atomic], data.lookup data.me (data.reg (sregOfBase 4)).toNat k = .fault .page := by
  refine ⟨⟨by decide +kernel, by decide +kernel, by decide +kernel, by decide +kernel⟩, ?_, by decide +kernel, by decide +kernel, by decide +kernel, by decide +kernel⟩
  unfold State.readable; decide +kernel

/-- AtomicResults: both widths at one address. -/
theorem test_atomic_hypotheses : data.Quiet ∧ data.me.ahead = [] ∧ data.WritesDone ∧ data.readable [sregOfBase 2, sregOfBase 1, 2] ∧
    data.Reaches (data.reg (sregOfBase 1)) 4 .atomic xlat ∧ data.Reaches (data.reg (sregOfBase 1)) 8 .atomic xlat ∧
    data.homePoison xlat.pa 8 = false ∧ data.pathToHome xlat.pa = false := by
  have hr : data.reg (sregOfBase 1) = 0x100 := by decide +kernel
  rw [hr]
  refine ⟨⟨rfl, rfl, rfl, rfl, rfl⟩, rfl, ?_, ?_, test_reaches 4 (by decide) _, test_reaches 8 (by decide) _, by decide +kernel, by decide +kernel⟩
  · constructor
    · have h : data.myCore.path = [] := by decide +kernel
      rw [h]; exact fun _ h => by cases h
    · exact fun _ h => by cases h
  · unfold State.readable; decide +kernel

/-- FencesAndWaits: with and without the event bit; a line; no second register for dcinv. -/
theorem test_wait_hypotheses : data.readable [1, 0] ∧ data.me.a.rep = none ∧ data.me.event = false ∧
    { data with me := { data.me with event := true } }.me.event = true ∧ data.reg 0 = 0 ∧ (1 : SReg) ≠ 0 ∧
    data.translate data.me (data.reg 1).toNat .read = .ok xlat := by
  refine ⟨?_, rfl, rfl, rfl, by decide +kernel, by decide, ?_⟩
  · unfold State.readable; decide +kernel
  · exact ok_of (by decide +kernel)

/-- VectorLengthAndElementBase, and every statement of a context that may issue vector instructions. -/
theorem test_vector_ready : user.VectorReady ∧ (Instr.deadScalar 1 1).wellFormed = true ∧ (Instr.deadVector 0 127).wellFormed = true ∧
    (Instr.deadMask 1 15).wellFormed = true := by
  refine ⟨⟨by decide +kernel, by decide +kernel⟩, by decide, by decide, by decide⟩

/-- Three elements of FP32. -/
def vector : State := withCsr user fun c => { c with vl := 3 }

/-- A context that owns bank 3 and has an index handle v2 and a cell of four elements in v4. -/
def expanding : State :=
  withCore (withHandles vector [(2, .cell { addr := 0x200, len := 3, fmt := some .ix8, eg := 0 }),
    (4, .cell { addr := 0x300, len := 4, fmt := some .f32, eg := 0 })] []) fun k => { k with cbown := 0x800 }

/-- The length of a handle is VL, as a Bool. -/
def fits (s : State) (len : Nat) (r : Ref) : Bool := (s.me.a.refLen r).all (fun n => n == len)

theorem fits_len {s : State} {len : Nat} {r : Ref} (h : fits s len r = true) : ∀ n, s.me.a.refLen r = some n → n = len := by
  intro n e
  have := h
  rw [fits, e] at this
  simpa using this

/-- The issue checks of a node-making instruction under DEADM off, as a Bool. -/
def nodePasses (s : State) (q : NodeAsks) : Bool :=
  let a := s.me.a
  !s.me.nurse && !(a.csr.sup && a.csr.stripPend) && !a.csr.ill && !a.csr.deadTrap && (q.v.all fun d => !a.streaming d) &&
    decide (q.k ≠ some 0) && q.accepts a.csr.fmt a.csr.eg && (q.ss.all fun n => !a.deadRead n) &&
    (q.vs.all fun v => !a.streaming v && fits s a.csr.vl.toNat (a.vref v)) && (q.ks.all fun k => fits s a.csr.vl.toNat (a.kref k)) &&
    (q.bank.all fun b => a.indexHandle b.2 && (b.1.any fun c => s.ownsBank c)) && a.freeEntry.isSome

theorem node_ready {s : State} {q : NodeAsks} (h : nodePasses s q = true) : s.NodeReady q := by
  simp only [nodePasses, Bool.and_eq_true, and_assoc, Bool.not_eq_true', decide_eq_true_eq, List.all_eq_true] at h
  obtain ⟨user, free, typed, lax, dest, notK0, form, live, sources, masks, bank, room⟩ := h
  refine ⟨⟨user, ?_⟩, typed, ?_, notK0, form, ?_, ?_, ?_, ?_, ?_⟩
  · rintro ⟨a, b⟩; rw [a, b] at free; cases free
  · intro d e; rw [e] at dest; simpa using dest
  · intro n hn; simpa using live n hn
  · intro v hv
    have := sources v hv
    exact ⟨this.1, fits_len this.2, fun e => by rw [lax] at e; cases e⟩
  · intro k hk
    exact ⟨fits_len (masks k hk), fun e => by rw [lax] at e; cases e⟩
  · intro b v e
    rw [e] at bank
    have : s.me.a.indexHandle v = true ∧ ∃ c, b = some c ∧ s.ownsBank c = true := by
      cases b <;> simp at bank ⊢
      exact bank
    exact this
  · intro e; rw [e] at room; cases room

/-- NodeInstructionsCreateNodes: a masked sum, whose old destination is its merge operand; an expansion through a bank; a mask. -/
theorem test_node_hypotheses :
    (∃ q, nodeAsks vector (.vadd .vv true 3 1 2) = some q ∧ (Instr.vadd .vv true 3 1 2).wellFormed = true ∧ vector.NodeReady q) ∧
    (∃ q, nodeAsks expanding (.vcbx 5 2 3) = some q ∧ (Instr.vcbx 5 2 3).wellFormed = true ∧ expanding.NodeReady q) ∧
    ∃ q, nodeAsks vector (.kmeet 15 0 1) = some q ∧ (Instr.kmeet 15 0 1).wellFormed = true ∧ vector.NodeReady q :=
  ⟨⟨_, rfl, by decide, node_ready (by decide +kernel)⟩, ⟨_, rfl, by decide, node_ready (by decide +kernel)⟩,
    ⟨_, rfl, by decide, node_ready (by decide +kernel)⟩⟩

/-- VectorLoadsCreateLoadNodes: with a mask and the old destination, and without. -/
theorem test_load_node_hypotheses : vector.NodeReady { v := some 3, vs := [3], ks := [vector.me.a.csr.msel], ss := [1, 2] } ∧
    vector.NodeReady { v := some 3, vs := [], ks := [], ss := [1] } := ⟨node_ready (by decide +kernel), node_ready (by decide +kernel)⟩

/-- VectorIssueChecks: a stream; ILL; an empty source under DEADM.TRAP; a source of another length; a `.b` format. -/
theorem test_issue_check_hypotheses :
    (withHandles vector [(1, .stream { uid := 0, base := 0, stride := 0, shape := 0, rowStride := 0, decided := none, consumed := 0 })] []).me.a.streaming 1
      = true ∧
    (let s := withCsr vector fun c => { c with vtype := 0x80000000 }
     s.me.a.csr.ill = true ∧ s.me.a.streaming 1 = false) ∧
    (let s := withCsr vector fun c => { c with deadm := 1 }
     s.me.a.csr.deadTrap = true ∧ s.me.a.vhandle 1 = .empty ∧ s.me.a.csr.ill = false ∧ s.me.a.csr.fmt.cls ≠ .b ∧ s.me.a.streaming 2 = false) ∧
    (expanding.me.a.refLen (expanding.me.a.vref 4) = some 4 ∧ expanding.me.a.csr.vl.toNat = 3 ∧ expanding.me.a.csr.deadTrap = false) ∧
    (let s := withCsr vector fun c => { c with vtype := 17 }
     s.me.a.csr.ill = false ∧ s.me.a.csr.fmt.cls = .b) := by decide +kernel
/-- The issue checks of a sink under DEADM off, as a Bool. -/
def sinkPasses (s : State) (q : SinkAsks) : Bool :=
  let a := s.me.a
  !s.me.nurse && !(a.csr.sup && a.csr.stripPend) && q.legal && !a.csr.ill && !a.csr.deadTrap && q.owned && (q.ss.all fun n => !a.deadRead n) &&
    (q.vs.all fun v => !a.streaming v && fits s q.len (a.vref v)) && (q.ks.all fun k => fits s q.len (a.kref k)) && !q.clash &&
    (q.bank.all fun b => s.ownsBank b) && (q.forced.all fun r => r.node?.isNone && r.cell?.all fun c => !s.me.cellUnfilled c) &&
    a.freeEntry.isSome

theorem sink_ready {s : State} {q : SinkAsks} (h : sinkPasses s q = true) : s.SinkReady q := by
  simp only [sinkPasses, Bool.and_eq_true, and_assoc, Bool.not_eq_true', List.all_eq_true] at h
  obtain ⟨user, free, legal, typed, lax, unit, live, sources, masks, even, bank, forced, room⟩ := h
  refine ⟨⟨user, ?_⟩, legal, fun _ => typed, unit, ?_, ?_, ?_, even, ?_, ?_, ?_⟩
  · rintro ⟨a, b⟩; rw [a, b] at free; cases free
  · intro n hn; simpa using live n hn
  · intro v hv
    exact ⟨(sources v hv).1, fits_len (sources v hv).2, fun e => by rw [lax] at e; cases e⟩
  · intro k hk
    exact ⟨fits_len (masks k hk), fun e => by rw [lax] at e; cases e⟩
  · intro b e; rw [e] at bank; simpa using bank
  · intro r hr
    have := forced r hr
    refine ⟨by simpa using this.1, fun c e => ?_⟩
    have h := this.2
    rw [e] at h; simpa using h
  · intro e; rw [e] at room; cases room

/-- A sink that passes its checks and needs no stage. -/
theorem sink_plain {s : State} {i : Instr}
    (h : (sinkAsks s i).any (fun q => sinkPasses s q && (s.sinkPlan q).any fun x => x.1.isEmpty) = true) :
    ∃ q x, sinkAsks s i = some q ∧ s.SinkReady q ∧ s.sinkPlan q = some x ∧ x.1 = [] := by
  obtain ⟨q, h1, h⟩ := any_some h
  rw [Bool.and_eq_true] at h
  obtain ⟨x, h2, h3⟩ := any_some h.2
  exact ⟨q, x, h1, sink_ready h.1, h2, List.isEmpty_iff.mp h3⟩

/-- A context with a cell area in its page, and the comb. -/
def cells : State := withCore (withCsr vector fun c => { c with celllim := 0x1000, mvl := 16 }) fun k => { k with combOwner := some 0 }

/-- The same with a node in v3. -/
def noded : State := after (exec (.vadd .vv false 3 1 2) cells)

/-- The same with BF16 operands, which a step accepts. -/
def stepping : State := withCsr cells fun c => { c with vtype := 1 }

/-- SinkInstructionsIssue: a count, an ordered sum of a node, a store, a vforce of a node that has a cell to fill, a step. -/
theorem test_sink_hypotheses :
    (∃ q x, sinkAsks vector (.kpop 5 0) = some q ∧ vector.SinkReady q ∧ vector.sinkPlan q = some x ∧ x.1 = []) ∧
    (∃ q x, sinkAsks noded (.vrsumo false 5 3) = some q ∧ noded.SinkReady q ∧ noded.sinkPlan q = some x ∧ x.1 = []) ∧
    (∃ q x, sinkAsks data (.vst false 3 1 0) = some q ∧ data.SinkReady q ∧ data.sinkPlan q = some x ∧ x.1 = []) ∧
    (∃ q x, sinkAsks noded (.vforce 3) = some q ∧ noded.SinkReady q ∧ noded.sinkPlan q = some x ∧ x.1 = []) ∧
    ∃ q x, sinkAsks stepping (.comba false 1 2 3) = some q ∧ stepping.SinkReady q ∧ stepping.sinkPlan q = some x ∧ x.1 = [] := by
  and_intros <;> exact sink_plain (by decide +kernel)

/-- SinkInstructionsIssue: vext of the first element past VL; vforce of a cell, of a node that a vforce fills, of no value. -/
theorem test_sink_without_pass_hypotheses :
    (let s := withRegs vector [(2, 3)]
     s.me.a.csr.ill = false ∧ s.me.a.deadRead 2 = false ∧ s.me.a.streaming 1 = false ∧ fits s 3 (s.me.a.vref 1) = true ∧
       inRange s.me.a.csr.elbase s.me.a.csr.vl.toNat = true ∧ s.me.a.csr.vl.toNat ≤ (s.reg 2).toNat) ∧
    (∃ c, expanding.me.a.vhandle 4 = .cell c) ∧
    (let s := after (exec (.vforce 3) noded)
     ∃ n, s.me.a.vhandle 3 = .node n ∧ broodEntry s.me.a.brood n ≠ none ∧ s.me.a.forcing n = true) ∧
    (vector.me.a.csr.deadTrap = false ∧ vector.me.a.vhandle 1 = .empty) := by
  refine ⟨by decide +kernel, ⟨_, rfl⟩, ⟨0, by decide +kernel, by decide +kernel, by decide +kernel⟩, by decide +kernel⟩

/-- PassIsTaken: a pending sink with free groups. -/
theorem test_pass_hypotheses : ∃ p ps, (0 : CtxId).toNat = pending.me.id ∧ pending.me.pend = p :: ps ∧ pending.me.run = none ∧
    (p.sink?.all fun e => !e.passless) = true ∧ (pending.me.held.all fun h => decide (p.no ≤ h.no)) = true ∧ pending.freeGroups ≠ [] :=
  ⟨_, _, by decide +kernel, rfl, by decide +kernel, by decide +kernel, by decide +kernel, by decide +kernel⟩

/-- PassIsTaken: a group that is free for the only candidate. -/
theorem test_strip_dispatch_hypotheses : passing.me.core < 576 ∧ passing.gateShut passing.me.core = false ∧
    passing.groupClosed passing.me.core (0 : BitVec 3).toNat = false ∧
    (passing.busyGroups passing.me.core).contains (0 : BitVec 3).toNat = false ∧ passing.candidates passing.me.core (0 : BitVec 3).toNat = [passing.me] ∧
    (∃ x, passing.nextStrip = some x) ∧ (∃ c, chooseStrip [] [passing.me] = some c) ∧ (∃ c, chooseStrip [0] [passing.me] = some c) ∧
    passing.me.id ∈ [0] := by
  and_intros
  all_goals first | decide +kernel | exact ⟨_, rfl⟩

/-- The only strip dispatched; the pass done. -/
def dispatched : State := after (exec (.stripDispatch 0 0) passing)
@[inherit_doc dispatched] def done : State := after (exec (.stripFinish 0 0) dispatched)

/-- PassIsTaken: the last strip of a pass with no event. -/
theorem test_strip_finish_hypotheses : ∃ r st, dispatched.me.nurse = false ∧ dispatched.me.core < 576 ∧ dispatched.me.run = some r ∧
    r.strips = [st] ∧ st.group = (0 : BitVec 3).toNat ∧ st.finished = false ∧ st.event = none ∧ st.lo = r.cur ∧ r.stages = [] ∧
    r.work.len = st.lo + st.outs.length := by
  refine ⟨_, _, ?_, ?_, rfl, rfl, ?_⟩ <;> decide +kernel

/-! ### Elements, sinks and passes -/

/-- A sink issued, its pass taken and its first strip dispatched; and finished. -/
def taken (i : Instr) (s : State) : State := after (exec (.stripDispatch 0 0) (after (exec (.passTake 0) (after (exec i s)))))
@[inherit_doc taken] def finished (i : Instr) (s : State) : State := after (exec (.stripFinish 0 0) (taken i s))

/-- Elements of no node, three of them, over a machine. -/
def elements (s : State) : Stg := { s := s, brood := [], len := 3, at_ := 0, carries := [] }

/-- An entry of an instruction at a format. -/
def entryOf (i : Instr) (f : Fmt) : Entry := { vector.me.a.entry i .node with fmt := f, a := Operand.of (.scalar 5), b := Operand.of (.scalar 3) }

/-- ElementwiseValues: an active element in class I and in class F, an element group of one; a scalar amount and an immediate; an inactive element. -/
theorem test_element_hypotheses :
    (let g := elements user
     ∀ f ∈ [Fmt.i32, .f32, .nx4], (g.active (entryOf (.vadd .vv false 3 1 2) f) [] 0).1 = true ∧ (entryOf (.vadd .vv false 3 1 2) f).eg = 0) ∧
    Fmt.i32.cls = .i ∧ Fmt.f32.cls = .f ∧ Fmt.nx4.cls = .k ∧
    (let e := entryOf (.vcmp .vs false .lt 2 1 3) .f32
     e.op = .vcmp .vs false .lt 2 1 3 ∧ ((elements user).operand e e.a [] 0).fmt = .f32 ∧ (((elements user).opB e [] 0).1 0).1 = .f32) ∧
    (entryOf (.vscl .vs false 3 1 2) .f32).op.immediate = none ∧ (entryOf (.vscl .vi false 3 1 2) .f32).op.immediate = some 2 ∧
    (entryOf (.vrngRaw false 3 1) .i32).a.ref = .scalar 5 ∧
    ((elements user).active { entryOf (.vadd .vv true 3 1 2) .i32 with mask := Operand.of (.scalar 0) } [] 0).1 = false := by
  and_intros <;> decide +kernel

/-- MovedScannedAndLoadedValues: each carry; a slide in the pass and out of it; an index in the pass; a first active element and none; a scan's first
element and a later one; a load of an aligned page of plain values, and of a misaligned base. -/
theorem test_moved_hypotheses :
    (let g := elements user
     let off : Entry := { entryOf (.vcmpr true 3 1) .i32 with mask := Operand.of (.scalar 0) }
     (entryOf (.kset 2 1) .i32).a.ref = .scalar 5 ∧ (entryOf (.vslup false 3 1 2) .i32).b.ref = .scalar 3 ∧
       (let e := entryOf (.vperm false 3 1 2) .i32
        exactInteger (g.operand e e.b [] 0).fmt ((g.operand e e.b [] 0).sub e 0 0) = some 3) ∧
       (∀ j, j < 3 → (g.active (entryOf (.vcmpr false 3 1) .i32) [] j).1 = true ∧ (g.active off [] j).1 = false) ∧
       (let e := entryOf (.vscan .add false 3 1) .f32
        (g.operand e e.a [] 0).fmt = .f32 ∧ (g.operand e e.a [] 0).sub e 0 0 < 2 ^ 32)) ∧
    (let raw : PageAttr := { fe := false, fmt := 0, geo := 0 }
     let src : Source := { base := 0x100, stride := 1, decided := some raw, form := .vld }
     let e : Entry := { entryOf (.vld false 3 1 0) .f32 with source := some src }
     decidedFmt e.fmt raw = .f32 ∧ (elements data).Meets e 1 0x104 4 .read (formatFault e.fmt e.eg true raw) { xlat with va := 0x104, pa := 0x104 } ∧
       src.base.toNat % 4 = 0 ∧ (0x101 : Word).toNat % 4 ≠ 0) := by
  and_intros
  all_goals first | decide +kernel | (constructor <;> decide +kernel)

/-- A load of three elements at 0x100 whose handle is v3. -/
def loaded : State := after (exec (.vld false 3 1 0) (withRegs cells data.me.a.regs))

/-- SinkInstructionsIssue: a store over what a load reads, which a stage materialises first. -/
theorem test_guarded_sink_hypotheses :
    ∃ q x, sinkAsks loaded (.vst false 4 1 1) = some q ∧ loaded.SinkReady q ∧ loaded.sinkPlan q = some x ∧ x.1 ≠ [] := by
  have h : (sinkAsks loaded (.vst false 4 1 1)).any (fun q => sinkPasses loaded q && (loaded.sinkPlan q).any fun x => !x.1.isEmpty) = true := by
    decide +kernel
  obtain ⟨q, h1, h⟩ := any_some h
  rw [Bool.and_eq_true] at h
  obtain ⟨x, h2, h3⟩ := any_some h.2
  exact ⟨q, x, h1, sink_ready h.1, h2, by simpa using h3⟩

/-- A context that owns the comb and a configured accumulator, with values in v4, indices in v2 and the registers of a scalar access. -/
def working : State :=
  let s := withCore (withRegs (withHandles cells [(2, .cell { addr := 0x200, len := 3, fmt := some .n8, eg := 0 }),
    (4, .cell { addr := 0x300, len := 3, fmt := some .f32, eg := 0 })] []) data.me.a.regs) fun k => { k with
      cvown := 4, covs := [(0, { words := [], n := 3, wt := true, gb := 0, poison := [] })] }
  { s with me := { s.me with lpriv := 4096 } }

/-- The node in v3 of a context with a cell area. -/
def nodedHere : State := after (exec (.vadd .vv false 3 4 4) working)

/-- The first strip of a pass of one sink of an instruction on group 0, whole, with an event or without. -/
def strips (s : State) (i : Instr) (event : Bool) : Bool :=
  s.me.run.any fun r => match r.strips, r.slots with
    | st :: _, [(n, e)] =>
      e.op == i && st.group == 0 && !st.finished && st.event.isSome == event && (st.event.all fun ev => decide (ev.slot < 4)) && st.lo == r.cur &&
        r.stages.isEmpty && (event || r.work.len == st.lo + st.outs.length) && partGet e r.parts n == .none &&
        (st.outs.all fun o => o.writes.all fun w => decide (w.pa < 2 ^ 60)) && r.items.length == 1 && (r.items.all fun p => !p.after.csr.sup)
    | _, _ => false

/-- SinkElementsAndCommits and PassStops: the only strip of a store that meets no event, and of one whose second element meets PAGE. -/
theorem test_store_strip_hypotheses :
    (let s := taken (.vst false 4 1 0) working
     s.me.nurse = false ∧ s.me.core < 576 ∧ (s.die s.me.die).trslots = 0 ∧ strips s (.vst false 4 1 0) false = true) ∧
    (let s := taken (.vst false 4 6 0) (withRegs working [(6, 0xFFC)])
     s.me.nurse = false ∧ s.me.core < 576 ∧ (s.die s.me.die).trslots = 0 ∧ strips s (.vst false 4 6 0) true = true) ∧
    (entryOf (.vst false 4 1 0) .f32).stores := by
  refine ⟨by decide +kernel, by decide +kernel, ⟨false, 4, 0, 1, 0, 0, ?_⟩⟩
  exact List.mem_cons_self

/-- SinkElementsAndCommits: elements of a store of FP32 and of nibbles, of a lane-private store, and of a vforce. -/
theorem test_sink_element_hypotheses :
    (let raw : PageAttr := { fe := false, fmt := 0, geo := 0 }
     let src : Source := { base := 0x100, stride := 1, decided := some raw, form := .vlds }
     let e (f : Fmt) : Entry := { entryOf (.vst false 4 1 0) f with val := 0x100, source := some src }
     decidedFmt (e .f32).fmt raw = .f32 ∧ decidedFmt (e .ix4).fmt raw = .ix4 ∧ ((elements data).active (e .f32) [] 1).1 = true ∧
       (elements data).Meets (e .f32) 1 0x104 4 .write (formatFault .f32 0 true raw) { xlat with va := 0x104, pa := 0x104 } ∧
       (elements data).Meets (e .ix4) 1 0x100 1 .write (formatFault .ix4 0 true raw) xlat) ∧
    (let nx : PageAttr := { fe := true, fmt := Fmt.nx4.code, geo := 1 }
     let src : Source := { base := 0x100, stride := 1, decided := some nx, form := .vlds }
     let e : Entry := { entryOf (.vst false 4 1 0) .f32 with val := 0x100, source := some src }
     nx.block = true ∧ e.eg = 0 ∧ e.len = 3 ∧ decidedFmt e.fmt nx = .nx4 ∧ (∀ i, i < 3 → (2 * 0x100 + i) % 16 = i) ∧
       (∀ a ∈ [0x100, sideAddr (elements data).tenant 1 0x100], (data.translate data.me a .write).toOption.isSome = true)) ∧
    (let e : Entry := { entryOf (.vlpst false 4 2 1) .f32 with val := 4, b := Operand.of (.cell { addr := 0x200, len := 3, fmt := some .n8, eg := 0 }) }
     let y := (elements working).operand e e.b [] 0
     (indexRead e.sat y.fmt (y.sub e 0 0)).1 = 0 ∧ (4 + 0 * 4 : Int) % 4 = 0 ∧ working.me.lpriv = 4096 ∧ (4 + 0 * 4 : Int) + 4 ≤ working.me.lpriv) ∧
    (let c : CellRef := { addr := 0x300, len := 3, fmt := some .f32, eg := 0 }
     let e : Entry := { entryOf (.vforce 3) .f32 with c := Operand.of (.cell c) }
     e.c.ref = .cell c ∧ Fmt.f32.heldBits ≠ 4 ∧
       (elements data).Meets e 1 0x304 4 .write (fun _ => false) { xlat with va := 0x304, pa := 0x304 }) ∧
    (let s := taken (.vst false 4 6 0) (withRegs working [(6, 0xFFC)])
     s.me.run.any (fun r =>
       let x (i : Nat) := r.work.elem (r.work.stg s i []) i
       !(x 0).stall && (x 0).events.isEmpty && !(x 1).stall && !(x 1).events.isEmpty && decide (1 < r.work.len)) = true) := by
  and_intros
  all_goals first | decide +kernel | (constructor <;> decide +kernel)

/-- A finished pass of one sink of an instruction, as a Bool. -/
def completes (s : State) (i : Instr) : Bool :=
  s.me.id == 0 && s.me.held.isEmpty && s.me.stopped.isNone && s.me.resume.isNone &&
    s.me.run.any fun r => r.done && match r.slots with | [(_, e)] => e.op == i | _ => false

/-- SinkCompletes: a finished pass of each kind of sink, one with a scalar result, a branch, a store, a vforce, a vldx, a row of a tile. -/
theorem test_sink_complete_hypotheses :
    (∀ i ∈ [Instr.kpop 5 0, .kfirst 5 0, .vrsumo false 5 4, .vrsumt false 5 4, .vrmax false 5 4, .vrargx false 5 4, .vext 5 4 0, .cvprb 5 0 4, .bkany 0 4,
        .bknone 0 4, .vst false 4 1 0, .vsts false 4 1 2, .vstx false 4 1 2, .vlpst false 4 2 0, .vlpstB false 4 0, .cvwt 0 4, .cvcom 0 4, .mwrr 0 5 0],
      completes (finished i working) i = true) ∧
    (let s := finished (.vforce 3) nodedHere
     completes s (.vforce 3) = true ∧ s.me.run.any (fun r => match r.slots with
       | [(_, e)] => (match e.a.ref, e.c.ref with | .node _, .cell _ => true | _, _ => false)
       | _ => false) = true) ∧
    (let s := finished (.vldx false 3 1 2) working
     completes s (.vldx false 3 1 2) = true ∧ s.me.run.any (fun r => match r.slots with
       | [(_, e)] => (match e.c.ref with | .cell _ => true | _ => false)
       | _ => false) = true) ∧
    (finished (.mwrr 0 5 0) working).me.run.any (fun r => match r.slots with
      | [(n, e)] => (match partGet e r.parts n with | .operands _ _ => true | _ => false)
      | _ => false) = true := by
  and_intros <;> decide +kernel

/-- SinkCompletes: elements of a signed format and of FP32, of which the first active one is not the first. -/
theorem test_partial_hypotheses :
    Fmt.i8.cls = .i ∧ Fmt.f32.cls = .f ∧ (∀ v ∈ ([none, some 0x80, some 5] : List (Option Nat)).filterMap id, v < 2 ^ Fmt.i8.bits) ∧
      ([none, some 0x80, some 5] : List (Option Nat)).filterMap id ≠ [] ∧ ([none] : List (Option Nat)).filterMap id = [] ∧
      ([none, some 0x80, some 5] : List (Option Nat))[1]? = some (some 0x80) ∧ ([none, some 0x80] : List (Option Nat)).length ≤ 2 := by decide

/-- A batch probe of one row of three elements of a stream at 0x100, before the row is fetched and once it has arrived. -/
def probing : State :=
  let s := after (exec (.smode 1 1) (withRegs working [(1, 0x100), (2, 4), (3, 1 + 3 * 2 ^ 48), (4, 64)]))
  after (exec (.cvprbb 7 0 0 1) s)
@[inherit_doc probing] def probed : State := after (exec (.streamRowArrive 0 1) (after (exec (.streamRowFetch 0 1) probing)))

/-- SinkCompletes: a batch probe whose row is still to come, and one whose row has arrived without a fault. -/
theorem test_batch_hypotheses :
    (∀ s ∈ [probing, probed], s.me.id = 0 ∧ s.me.run = none ∧ s.me.held = [] ∧ s.me.pend.length = 1) ∧
    (probing.me.pend.head?.any fun p => (p.assigned.all fun x => probing.me.arrived x) == false) = true ∧
    (probed.me.pend.head?.any fun p => p.assigned.length == 1 && (p.assigned.all fun x => probed.me.arrived x) &&
      p.sink?.any fun e => e.op == .cvprbb 7 0 0 1 && e.len == 3 && match e.c.ref with
        | .cell q => q.fmt == some .f32 && q.eg == 0 && decide (q.addr.toNat % 4096 + 4 ≤ 4096) && decide (probed.rangeFault q.addr.toNat 4 .write = none) &&
          decide (probed.spanLink q.addr.toNat 4 .write = none) && decide (probed.useSpan q.addr.toNat 4 .write = probed) &&
          probed.slotHits probed.me q.addr.toNat 4 .write == [] && decide (region (probed.physAt q.addr .write).toNat ≠ .pod) &&
          p.assigned.all fun x => (probed.me.row? x.1.uid x.2).any fun r => (List.range 3).all fun k =>
            r.fault x.1 (x.1.fmt.cls == .b || x.1.fmt == .ix4 || x.1.fmt == .ix8) 0 k == none &&
              (probed.cov e.dst2).slotPoison (covSlot e (probed.cov e.dst2) k) true == none
        | _ => false) = true := by
  and_intros <;> decide +kernel

/-- CodebookInstructions: an owner with nothing pending; one entry at 0x100, read or written. -/
theorem test_bank_hypotheses :
    (let s := withRegs expanding [(1, 0x100), (2, 1), (4, 0x200)]
     s.unstale ∧ s.unexpanded 3 ∧ s.me.nurse = false ∧ s.me.pend = [] ∧ s.me.run = none ∧ s.me.held = [] ∧ s.me.a.deadRead 1 = false ∧
       s.ownsBank 3 = true ∧ s.me.a.brood = [] ∧ (s.reg 4).toNat.testBit 9 = true ∧ (s.reg 1).toNat.testBit 9 = false ∧
       (s.myBank 3).poison.getLsbD (2 * ((s.reg 1).toNat % 256) + (s.reg 1).toNat / 256 % 2) = false ∧
       (∀ k ∈ [Access.read, .write], (s.reg 1).toNat % 16 = 0 ∧ s.rangeFault (s.reg 1).toNat (16 * 1) k = none ∧
         s.spanLink (s.reg 1).toNat (16 * 1) k = none ∧
         s.useSpan (s.reg 1).toNat (16 * 1) k = s ∧ region (s.physAt (s.reg 1 + BitVec.ofNat 64 (16 * 0)) k).toNat ≠ .pod) ∧
       min (s.reg 2).toNat 256 = 1 ∧ min (s.reg 0).toNat 256 = 0 ∧ s.guarded [{ base := (s.reg 1).toNat, len := 16 * 1 }] = []) := by
  exact ⟨unstale_of_empty (by decide +kernel), fun _ h => (by cases h), by decide +kernel⟩

/-- Sixteen pages from address 0 on, one entry of the TLB; the comb is the context's, with nothing pending. -/
def tiles : State :=
  withCore (withRegs cells [(1, 0x1000), (2, 256), (3, 63)]) fun k => { k with tlb := [{ fetchPage 0 0 0 with bits := 16 }] }

/-- TilesAndMatrixLength: a row, a cell of its own page, 64 rows apart by 256 bytes. -/
theorem test_tile_hypotheses :
    (tiles.me.nurse = false ∧ tiles.me.pend = [] ∧ tiles.me.run = none ∧ tiles.me.held = [] ∧
      (tiles.core tiles.me.core).combOwner = some tiles.me.pos ∧ tiles.me.a.csr.ill = false ∧ tiles.me.a.streaming 7 = false ∧ (tiles.reg 3).toNat < 64) ∧
    (∃ p r, tiles.me.a.csr.mvl.toNat = 16 ∧ tiles.me.a.takeCell (cellBytes 16 (some .f32) 0) = some (p, r) ∧ p % 4096 + 4 * 16 ≤ 4096 ∧ p < 2 ^ 64 ∧
      tiles.spanReady (BitVec.ofNat 64 p) (4 * 16) .write) ∧
    (∀ k ∈ [Access.read, .write], ∀ i, i < 64 →
      let row : Word := tiles.reg 1 + BitVec.ofNat 64 i * tiles.reg 2
      row.toNat % 4096 ≤ 3840 ∧ tiles.rangeFault row.toNat 256 k = none ∧ tiles.spanLink row.toNat 256 k = none ∧ tiles.useSpan row.toNat 256 k = tiles ∧
        region (tiles.physAt row k).toNat ≠ .pod ∧ (tiles.physAt row k).toNat = 0x1000 + 256 * i ∧
        tiles.corePoison tiles.me.core (tiles.physAt row k).toNat 256 = false) ∧
    tiles.guarded ((List.range 64).map fun i => { base := (tiles.reg 1 + BitVec.ofNat 64 i * tiles.reg 2).toNat, len := 256 }) = [] ∧ tiles.unstale := by
  refine ⟨by decide +kernel, ⟨_, _, by decide +kernel, rfl, ?_⟩, ?_, ?_, unstale_of_empty (by decide +kernel)⟩
  all_goals and_intros <;> decide +kernel

/-- A pattern of two FP32 elements a row, at 0x100. -/
def streamable : State := withRegs user [(1, 0x100), (2, 4), (3, 2 + 2 ^ 48), (4, 64)]

/-- Its stream in v1; a row of two elements of a decided stream in flight. -/
def streamed : State := after (exec (.smode 1 1) streamable)
@[inherit_doc streamed] def fetching : State :=
  after (exec (.streamRowFetch 0 1) (withHandles user [(1, .stream {
    uid := 0, base := 0x100, stride := 4, shape := 1 + 2 ^ 49, rowStride := 64, decided := some { fe := false, fmt := 0, geo := 0 }, consumed := 0 })] []))

/-- StreamResults: the four registers; a stream; a wanted row; a row in flight whose elements meet no event. -/
theorem test_stream_hypotheses :
    (let w := (streamable.reg 3).toNat
     streamable.me.nurse = false ∧ (1 : SReg).toNat ≤ 124 ∧ w < 2 ^ 63 ∧ w / 2 ^ 44 % 16 = 0 ∧ w / 2 ^ 37 % 8 = 0 ∧ 1 ≤ w / 2 ^ 48 % 2 ^ 15 ∧
       w / 2 ^ 48 % 2 ^ 15 ≤ 16384 ∧ w % 2 ^ 32 ≠ 0 ∧ w / 2 ^ 32 % 32 ≤ 18 ∧ streamable.me.a.otherStreams 1 ≤ 3) ∧
    (∃ x q reader, streamed.me.a.vhandle 1 = .stream x ∧ (0 : CtxId).toNat = streamed.me.id ∧ streamed.me.rowWanted 1 = some (x, q, reader) ∧
      streamed.me.rowBlocked (x.footprint streamed.myTenant q) reader = false) ∧
    ∃ r x p, fetching.me.rowInFlight 1 = some r ∧ fetching.me.streamOf r.uid = some x ∧ x.decided = some p ∧ p.geo ≠ 4 ∧
      (∀ reader, fetching.me.rowBlocked r.footprint reader = false ∧ ∀ ts, fetching.me.rowHeldBack ts reader = false) ∧
      (let g : Stg := { s := fetching, brood := [], len := x.len, at_ := 0, carries := [] }
       ∀ j, j < x.len → (g.rowElem x p r.row j).events = [] ∧ (g.rowElem x p r.row j).stall = false) := by
  have hw : (streamed.me.rowWanted 1).any (fun w => streamed.me.a.vhandle 1 == .stream w.1 &&
      !streamed.me.rowBlocked (w.1.footprint streamed.myTenant w.2.1) w.2.2) = true := by decide +kernel
  have hf : (fetching.me.rowInFlight 1).any (fun r => (fetching.me.streamOf r.uid).any fun x => x.decided.any fun p =>
      let g : Stg := { s := fetching, brood := [], len := x.len, at_ := 0, carries := [] }
      decide (p.geo ≠ 4 ∧ ∀ j, j < x.len → (g.rowElem x p r.row j).events = [] ∧ (g.rowElem x p r.row j).stall = false)) = true := by decide +kernel
  obtain ⟨⟨x, q, reader⟩, h1, h2⟩ := any_some hw
  obtain ⟨r, h3, h4⟩ := any_some hf
  obtain ⟨y, h5, h6⟩ := any_some h4
  obtain ⟨p, h7, h8⟩ := any_some h6
  simp only [Bool.and_eq_true, beq_iff_eq, Bool.not_eq_true'] at h2
  refine ⟨by decide +kernel, ⟨x, q, reader, h2.1, by decide +kernel, h1, h2.2⟩, ⟨r, y, p, h3, h5, h7, (of_decide_eq_true h8).1, fun reader => ?_, (of_decide_eq_true h8).2⟩⟩
  have h : fetching.me.items = [] ∧ fetching.me.held = [] := by decide +kernel
  simp [Ctx.rowBlocked, Ctx.rowHeldBack, h.1, h.2]

/-- An accumulator of three elements, owned, in the comb's core; the context's element base is its first. -/
def covering : State :=
  withCore (withRegs cells [(1, 3), (2, 0), (3, 1), (4, 0x10003)]) fun k => { k with
    combOwner := none, cvown := 4, covs := [(0, { words := [], n := 3, wt := true, gb := 0, poison := [] })] }

/-- CoverageUnits: a word that configures, at both bounds, and one that does not; three best values and a cell for them. -/
theorem test_coverage_hypotheses :
    (let good (w : Nat) : Bool := w / 2 ^ 17 % 2 ^ 15 == 0 && decide (1 ≤ w % 2 ^ 16) &&
       decide (w % 2 ^ 16 ≤ if w.testBit 16 then 8192 else 16384) && !nan32 (w / 2 ^ 32)
     good 1 = true ∧ good 16384 = true ∧ good 0x12000 = true ∧ good 0 = false ∧ good 16385 = false ∧ good 0x12001 = false) ∧
    (covering.me.nurse = false ∧ covering.me.pend = [] ∧ covering.me.run = none ∧ covering.me.held = [] ∧ covering.ownsCov 0 = true ∧
      covering.me.a.deadRead 2 = false ∧ covering.me.a.streaming 7 = false) ∧
    ∃ p r, (let c := Sparse.get Cov.reset (covering.core covering.me.core).covs (0 : CovReg).toNat
        let n := covering.me.a.csr.vl.toNat
        n = 3 ∧ c.n ≠ 0 ∧ c.n ≤ 16384 ∧ c.gb.toNat ≤ covering.me.a.csr.elbase.toNat ∧
          covering.me.a.csr.elbase.toNat + n ≤ c.gb.toNat + c.n ∧ c.poison = []) ∧
      covering.me.a.takeCell (cellBytes 3 (some .f32) 0) = some (p, r) ∧ p % 4096 + 4 * 3 ≤ 4096 ∧ p < 2 ^ 64 ∧
      covering.spanReady (BitVec.ofNat 64 p) (4 * 3) .write := by
  refine ⟨by decide +kernel, by decide +kernel, _, _, by decide +kernel, rfl, ?_⟩
  and_intros <;> decide +kernel

/-- Gains 1.0, 2.0, a NaN in v1, their ties in v2. -/
def gains : State :=
  let s := withHandles user [(1, .cell { addr := 0x100, len := 3, fmt := some .f32, eg := 0 }), (2, .cell { addr := 0x200, len := 3, fmt := some .n8, eg := 0 })] []
  { s with mem := [(0, 0x7F), (0x102, 0x80), (0x103, 0x3F), (0x107, 0x40), (0x10A, 0xC0), (0x10B, 0x7F)] }

/-- CoverageUnits: cvsel without and with ties; the second gain is the greatest. -/
theorem test_select_hypotheses :
    (gains.me.nurse = false ∧ gains.me.pend = [] ∧ gains.me.run = none ∧ gains.me.held = [] ∧ gains.me.ahead = []) ∧
    gains.me.a.vhandle 3 = .empty ∧ gains.me.a.csr.deadTrap = false ∧
    (∃ c e, gains.me.a.vhandle 1 = .cell c ∧ gains.me.a.vhandle 2 = .cell e ∧ c.fmt = some .f32 ∧ c.eg = 0 ∧ c.len ≠ 0 ∧ e.len = c.len ∧ e.eg = 0 ∧
      e.fmt = some .n8 ∧ gains.cellReady c 4 ∧ gains.cellReady e 1) ∧ gains.unstale ∧
    (let gain (i : Nat) : Nat := leNat ((List.range 4).map fun k => gains.coreByte 0 (0x100 + 4 * i + k))
     nan32 (gain 0) = false ∧ nan32 (gain 1) = false ∧ nan32 (gain 2) = true ∧ key32 (gain 0) < key32 (gain 1)) := by
  refine ⟨by decide +kernel, by decide +kernel, by decide +kernel, ⟨_, _, rfl, rfl, rfl, rfl, by decide, rfl, rfl, rfl, ?_, ?_⟩,
    unstale_of_empty (by decide +kernel), by decide +kernel⟩ <;> (unfold State.cellReady State.spanReady; decide +kernel)

/-- An object at 0x1000, in the first slice of the quad; CTRL holds a word. -/
def object (ctrl : Nat) : State :=
  let s := withCore (withRegs cells [(1, 0x1000), (2, 1), (3, 0xFF)]) fun k => { k with
    combOwner := none, tlb := [fetchPage 0 0 0, fetchPage 0 0x1000 0x3000000000] }
  withDie { s with mem := Sparse.setRun 0 s.mem 0x3000000000 (leBytes ctrl 8) } fun d => { d with
    tenants := [(0, { Tenant.reset with valid := true, quads := 1 })] }

/-- The translation of its address. -/
def objectXlat : Xlat := { va := 0x1000, pa := 0x3000000000, entry := fetchPage 0 0x1000 0x3000000000, found := 0, drew := false }

theorem test_object_at (k : Access) (ctrl : Nat) (h : ctrl ∈ [0, 1, 2, 0x0001000100000000, 0x0001000000000000]) : (object ctrl).ObjectAt 0x1000 k objectXlat := by
  have hg : granule objectXlat.pa = some 3145728 := by decide +kernel
  have hd : ((((object ctrl).die (object ctrl).me.die).tenant (object ctrl).me.a.csr.tenant).dirtyb.toNat) = 0 := by
    revert ctrl; decide +kernel
  refine ⟨⟨by decide, ?_, ?_, ?_, by decide +kernel⟩, ?_, by decide +kernel, ?_⟩
  · cases k <;> (revert ctrl; decide +kernel)
  · cases k <;> (revert ctrl; decide +kernel)
  · revert ctrl; decide +kernel
  · revert ctrl; decide +kernel
  · intro i _ ht
    rcases ht with ⟨h, _⟩ | ⟨_, g, h1, h2⟩
    · cases h
    · rw [hg] at h1; cases h1
      rw [hd] at h2
      have : objectXlat.pa = 0x3000000000 := rfl
      omega

/-- ObjectUpdates and ObjectWaits: objects with PHASE 0 and 1, in error, with one arrival to come. -/
theorem test_object_hypotheses (ctrl : Nat) (h : ctrl ∈ [0, 1, 2, 0x0001000100000000, 0x0001000000000000]) :
    (object ctrl).Quiet ∧ (object ctrl).me.nurse = false ∧ (object ctrl).me.ahead = [] ∧ (object ctrl).WritesDone ∧
      (object ctrl).reg 1 = 0x1000 ∧ ((object ctrl).reg 2).toNat = 1 ∧ ((object ctrl).reg 3).toNat % 256 = 255 ∧
      ((object ctrl).reg 2).toNat / 2 ^ 23 % 2 ^ 40 = 0 ∧ (object ctrl).homePoison objectXlat.pa 64 = false ∧
      (∀ x ∈ [(0, 8), (0, 24), (32, 32)], (object ctrl).homePoison (objectXlat.pa + x.1) x.2 = false) ∧ objectXlat.found = 0 ∧
      (object ctrl).pathToHome objectXlat.pa = false ∧ (object ctrl).pathOverlaps objectXlat.pa 64 = false ∧ (object ctrl).me.a.csr.sup = false ∧
      (object ctrl).ctrl (object ctrl).me objectXlat.pa = ctrl ∧
      ∃ p r, (object ctrl).me.a.takeCell (cellBytes 3 none 0) = some (p, r) ∧ p % 4096 + 1 ≤ 4096 ∧ p < 2 ^ 64 ∧
        (object ctrl).spanReady (BitVec.ofNat 64 p) 1 .write := by
  have hp : (object ctrl).myCore.path = [] := by revert ctrl; decide +kernel
  refine ⟨⟨rfl, rfl, rfl, rfl, rfl⟩, ?_, rfl, ⟨by rw [hp]; exact fun _ h => (by cases h), fun _ h => (by cases h)⟩, ?_, ?_, ?_, ?_, ?_, ?_, rfl, ?_, ?_, ?_, ?_,
    ⟨_, _, rfl, ?_, ?_, ⟨?_, ?_, ?_⟩⟩⟩ <;> (revert ctrl; decide +kernel)
/-- A row of 64 bytes at 0x100 to be copied to 0x1100, in the page of the object at 0x1000. -/
def copying : State :=
  { object 0 with me := { (object 0).me with a := { (object 0).me.a with
      regs := [(1, 0x1000), (5, 0x1100), (8, 0x100), (9, 64), (10, 64), (11, 1)] } } }

/-- Transfers: a row of 64 bytes, and none. -/
theorem test_transfer_issue_hypotheses :
    (copying.me.nurse = false ∧ copying.me.pend = [] ∧ copying.me.run = none ∧ copying.me.held = [] ∧ copying.me.a.brood = [] ∧
      (8 : SReg).toNat ≤ 124 ∧ (∀ n ∈ [(8 : SReg), 9, 10, 11, 5, 1], copying.me.a.deadRead n = false)) ∧
    (let w := (copying.reg 10).toNat
     let h := (copying.reg 11).toNat
     let dst := copying.reg 5
     let o := copying.reg 1
     w * h = 64 ∧ w * (copying.reg 12).toNat = 0 ∧ w ≤ 131072 ∧ h ≤ 131072 ∧ dst.toNat / 131072 = (dst.toNat + w * h - 1) / 131072 ∧
       (sourceRun (copying.reg 8) (copying.reg 9) w h).overlaps { base := dst.toNat, len := w * h } = false ∧ o.toNat % 64 = 0 ∧
       copying.mapFault dst.toNat (w * h) .write = none ∧ copying.mapFault o.toNat 64 .atomic = none ∧
       copying.spanLink dst.toNat (w * h) .write = none ∧ copying.spanLink o.toNat 64 .atomic = none ∧
       copying.inQuad (copying.physAt o .atomic).toNat = true ∧
       (∀ p ∈ pagePieces dst.toNat (w * h), copying.inQuad (copying.physAt (word p.1) .write).toNat = true) ∧
       copying.sourcePending (sourceRun (copying.reg 8) (copying.reg 9) w h) = false ∧ (copying.inFlight copying.me.quad).length < 32) := by
  decide +kernel

/-- The transfer held, and in flight. -/
def heldTransfer : State := after (exec (.bxfer 0 5 8 1) copying)
@[inherit_doc heldTransfer] def transferring : State := after (exec (.foragerLaunch 0) heldTransfer)

theorem test_transfer_launch_hypotheses :
    let m := heldTransfer.ctx (0 : CtxId).toNat
    m.sinkless ∧
      (∃ x dst o src stride w h g n opa bases, m.held = [x] ∧ x.isTransfer = true ∧
        x.args = dst :: o :: src :: stride :: w :: h :: g :: n :: opa :: bases) ∧
      (∀ y ∈ (heldTransfer.core m.core).path, y.of m = false) ∧ heldTransfer.podPending m = false ∧ (heldTransfer.inFlight m.quad).length < 32 := by
  have hh : ((heldTransfer.ctx (0 : CtxId).toNat).held.head?).any (fun x =>
      (heldTransfer.ctx (0 : CtxId).toNat).held == [x] && x.isTransfer && decide (9 ≤ x.args.length)) = true := by decide +kernel
  obtain ⟨x, -, h⟩ := any_some hh
  simp only [Bool.and_eq_true, beq_iff_eq, decide_eq_true_eq] at h
  refine ⟨⟨by decide +kernel, by decide +kernel⟩, ⟨x, ?_⟩, by decide +kernel⟩
  have hl := h.2
  match x.args, hl with
  | a :: b :: c :: d :: e :: f :: g :: i :: j :: rest, _ => exact ⟨a, b, c, d, e, f, g, i, j, rest, h.1.1, h.1.2, rfl⟩

/-- The dirty bits of writes stand apart, as a Bool. -/
theorem dirty_apart {s : State} {c : Ctx} {pas : List Nat} {p : Nat → Bool}
    (h : (pas.all fun pa => (s.dirtyByte c pa).all fun b => !p b) = true) : s.dirtyApart c pas p := by
  intro pa hpa b hb
  have := List.all_eq_true.mp h pa hpa
  rw [hb] at this
  simpa using this

/-- Transfers: the chunk of the 64 bytes at 0x1100, which is to be copied the first time, and again. -/
theorem test_chunk_hypotheses : ∃ m, transferring.transfers.find? (fun y => y.id == 0) = some m ∧ m.stalled = none ∧ m.graph = 0 ∧
    (8 : BitVec 8).toNat ∈ m.chunks ∧ (8 : BitVec 8).toNat ∉ m.landed ∧ m.chunkBytes 8 = (0, 64) ∧ m.objPa = 0x3000000000 ∧ m.destPa 0 = 0x3000000100 ∧
    transferring.dirtyApart m.agent (((List.range 64).map fun i => m.objPa + i) ++ (List.range 64).map fun i => m.destPa 0 + i)
      (fun a => (decide (m.objPa ≤ a) && decide (a < m.objPa + 64)) || (decide (m.destPa 0 ≤ a) && decide (a < m.destPa 0 + 64))) ∧
    transferring.homePoison m.objPa 64 = false ∧ transferring.homePoison (m.destPa 0) 64 = false ∧
    (∀ k, k < 64 → m.destPa k = m.destPa 0 + k) ∧
    (∀ k, k < 64 → ∃ y, transferring.lookup m.agent (m.sourceVa k) .read = .ok y ∧ y.found = 0 ∧ y.pa = 0x100 + k ∧
      transferring.reach m.agent y.pa = .here ∧ region y.pa ≠ .pod ∧ transferring.homePoison y.pa 1 = false) ∧
    transferring.ctrl m.agent m.objPa / 2 % 2 = 0 ∧ m.objPa % 64 = 0 ∧ 8 ∉ m.recopied ∧ 8 ∈ { m with recopied := [8] }.recopied ∧ (transferring.die (m.quad / 36)).trslots = 0 := by
  have hm : (transferring.transfers.find? fun y => y.id == 0).any (fun m => m.stalled == none && m.graph == 0 && m.chunks.contains 8 &&
      m.landed == [] && m.chunkBytes 8 == (0, 64) && m.objPa == 0x3000000000 && m.destPa 0 == 0x3000000100 &&
      ((((List.range 64).map fun i => m.objPa + i) ++ (List.range 64).map fun i => m.destPa 0 + i).all fun pa => (transferring.dirtyByte m.agent pa).all
        fun b => !((decide (m.objPa ≤ b) && decide (b < m.objPa + 64)) || (decide (m.destPa 0 ≤ b) && decide (b < m.destPa 0 + 64)))) &&
      !transferring.homePoison m.objPa 64 && !transferring.homePoison (m.destPa 0) 64 &&
      ((List.range 64).all fun k => m.destPa k == m.destPa 0 + k && (match transferring.lookup m.agent (m.sourceVa k) .read with | .ok y => some y | _ => none).any fun (y : Xlat) =>
        y.found == 0 && y.pa == 0x100 + k && decide (transferring.reach m.agent y.pa = Reach.here) && decide (region y.pa ≠ Region.pod) &&
          !transferring.homePoison y.pa 1) &&
      decide (transferring.ctrl m.agent m.objPa / 2 % 2 = 0) && m.recopied == [] && decide ((transferring.die (m.quad / 36)).trslots = 0)) = true := by
    decide +kernel
  obtain ⟨m, found, h⟩ := any_some hm
  simp only [Bool.and_eq_true, and_assoc, beq_iff_eq, List.contains_iff_mem, decide_eq_true_eq, Bool.not_eq_true'] at h
  obtain ⟨going, plain, chunk, none_, bytes, object, dest, apart, cleanObj, cleanDest, each, phase, once, untraced⟩ := h
  have hk : ∀ k, k < 64 → _ := fun k hk => List.all_eq_true.mp each k (List.mem_range.mpr hk)
  refine ⟨m, found, going, plain, chunk, by rw [none_]; decide, bytes, object, dest, dirty_apart apart, cleanObj, cleanDest, ?_, ?_, phase, by rw [object], by rw [once]; decide, List.mem_singleton.mpr rfl, untraced⟩
  · intro k hlt
    have := hk k hlt
    simp only [Bool.and_eq_true, beq_iff_eq] at this
    exact this.1
  · intro k hlt
    have := hk k hlt
    simp only [Bool.and_eq_true] at this
    obtain ⟨y, e, hy⟩ := any_some this.2
    simp only [Bool.and_eq_true, beq_iff_eq, decide_eq_true_eq, Bool.not_eq_true'] at hy
    exact ⟨y, found_of e, hy.1.1.1.1, hy.1.1.1.2, hy.1.1.2, hy.1.2, hy.2⟩

/-- Two contexts of one launch; the first waits at a barrier of its core, the second as told. -/
def barrier (w : Wait) : State :=
  let l : Launch := {
    seq := 1, tenant := 0, kernel := parseKernel (List.replicate 128 0), state := .placed, ctxs := [0, 1], members := [0, 1], images := [],
    fault := none, rserr := 0, freezing := none, old := [] }
  let s := withDie user fun d => { d with launches := [l] }
  { s with me := { s.me with launch := 1, wait := .bar .core false }, others := [{ s.me with id := 1, launch := 1, wait := w }] }

/-- BarriersAndBindings: a launch; both wait; one does not; a parity error of the wires, the first and the second. -/
theorem test_barrier_hypotheses :
    (let s := barrier (.bar .core true)
     (s.ctx (0 : CtxId).toNat).wait = .bar .core false ∧ s.participants (s.ctx 0) .core = some [(0, 1), (1, 1)] ∧
       (∀ p ∈ [(0, 1), (1, 1)], s.arrived .core p = true) ∧ s.barHeld (s.ctx 0) .core = false ∧ s.waiting .core (0, 1) = true ∧
       s.waitersOf (s.ctx 0) .core = [0, 1] ∧
       (∀ id ∈ [0, 1], id < 4096 ∧ (s.ctx id).a.csr.sup = false ∧ (s.die (s.ctx id).die).trslots = 0) ∧
       (s.ctx 1).wait = .bar .core true) ∧
    (let s := barrier .none
     (s.ctx (0 : CtxId).toNat).wait = .bar .core false ∧ s.participants (s.ctx 0) .core = some [(0, 1), (1, 1)] ∧
       ∃ p ∈ [(0, 1), (1, 1)], s.arrived .core p = false) ∧
    (let s := withDie (barrier .none) fun d => { d with
       launches := d.launches.map fun l => { l with kernel := { l.kernel with tag := 0x3000000000000000 } } }
     s.participants (s.ctx 0) .pkg = none) ∧
    (((barrier .none).die 0).launch? 1).isSome = true := by decide +kernel

/-- BarriersAndBindings: at the ends of a length's range, and past them. -/
theorem test_bind_hypotheses :
    (let s := withRegs user [(1, 0x1000), (2, 0x40), (3, 64), (4, 2 ^ 30), (5, 2 ^ 30 + 64), (6, 65)]
     s.me.nurse = false ∧ s.me.pend = [] ∧ s.me.run = none ∧ s.me.held = [] ∧ (∀ n ∈ [(1 : SReg), 2, 3, 4, 5, 6], s.me.a.deadRead n = false) ∧
       (s.reg 2).toNat % 64 = 0 ∧ (s.reg 3).toNat % 64 = 0 ∧ 64 ≤ (s.reg 3).toNat ∧ (s.reg 4).toNat ≤ 2 ^ 30 ∧ (s.reg 4).toNat % 64 = 0 ∧
       2 ^ 30 < (s.reg 5).toNat ∧ (s.reg 6).toNat % 64 ≠ 0 ∧ ((s.core s.me.core).binds.filter fun x => x.ctx == s.me.id).length = 0) := by decide +kernel

/-- The nurse core of die 0, with context 0 running or halted and a tenant. -/
def serving (st : RunState) : State :=
  let l : Launch := {
    seq := 7, tenant := 0, kernel := parseKernel (List.replicate 128 0), state := .placed, ctxs := [0], members := [0], images := [],
    fault := none, rserr := 0, freezing := none, old := [] }
  let s := { nurse with others := [{ Ctx.vacant 0 with state := st, launch := 7 }] }
  let s := withDie s fun d => { d with launches := [l], tenants := [(0, { Tenant.reset with valid := true, quads := 1 })], inbox := [{ tenant := 3, slot := 5 }] }
  { s with me := { s.me with a := { s.me.a with regs := [(1, 0), (2, 0x1000), (3, 5), (4, 0x240), (5, 8), (6, 1)] } } }

/-- The same with a kernel record at 0x240: quad 0, one context a core. -/
def launching : State := { serving .running with mem := [(0, 0x7F), (0x260, 1), (0x279, 1)] }

/-- NurseInstructions: freeze of no context, to a misaligned buffer, of a halted one, of a running one. -/
theorem test_freeze_hypotheses :
    (let s := serving .running
     s.me.nurse = true ∧ s.me.held = [] ∧ s.me.ahead = [] ∧ (∀ n ∈ [(1 : SReg), 2], s.me.a.deadRead n = false)) ∧
    (let s := serving .running
     let id := (s.reg 1).toNat % 4096
     let c := s.ctx id
     id / 16 % 64 < 36 ∧ id / 1024 = s.me.die ∧ c.state = .running ∧ (s.reg 2).toNat % 64 = 0 ∧ (s.reg 3).toNat % 64 ≠ 0 ∧
       region (s.reg 2).toNat ≠ .nothing ∧ region (s.reg 2).toNat ≠ .pod ∧ s.freezable id) ∧
    (let s := serving .halted
     (s.ctx 0).state = .halted ∧ s.occupied 0 = true ∧ (s.reg 2).toNat % 64 = 0) ∧
    ((serving .vacant).ctx ((serving .vacant).reg 1).toNat).state = .vacant := by
  unfold State.freezable Ctx.sinkless; decide +kernel

/-- NurseInstructions: launch of a record that is good, and of one that names no quad; a LAUNCH message that asked for it, and none. -/
theorem test_launch_hypotheses :
    (let s := launching
     let va := (s.reg 4).toNat
     va % 64 = 0 ∧ region va ≠ .nothing ∧ region (va + 64) ≠ .nothing ∧ s.corePoison s.me.core va 128 = false ∧ (s.reg 1).toNat % 16 = 0 ∧
       s.refusal s.me.die 0 (parseKernel (s.coreBytes s.me.core va 128)) (s.coreBytes s.me.core va 128) = none) ∧
    (let s := launching
     let k := parseKernel (s.coreBytes s.me.core 0x1000 128)
     (∀ q, q < 36 → k.qset.getLsbD q = false) ∧ s.refusal s.me.die 0 k (s.coreBytes s.me.core 0x1000 128) = some 1) ∧
    (let asked (s : State) := (s.die s.me.die).taken.find? fun m => m.tenant == 0 && messageType m.msg == 1 && m.record == s.coreBytes s.me.core (s.reg 4).toNat 128
     let record := launching.coreBytes launching.me.core (launching.reg 4).toNat 128
     asked launching = none ∧ (asked (withDie launching fun d => { d with taken := [{ tenant := 0, msg := [1, 0], record := record }] })).isSome = true) := by decide +kernel

/-- NurseInstructions: a message for the mask of s5, and none for that of s6; a LAUNCH, an ANSWER and a message of no known type. -/
theorem test_lwait_hypotheses :
    let s := launching
    let offered (m : SReg) (i : Nat) : Bool := (s.reg m).getLsbD ((0 + i) % 16) && (s.die 0).inbox.any fun x => x.tenant == (0 + i) % 16
    (s.die 0).lastTaken = none ∧ (∀ i, i < 16 → offered 6 i = false) ∧ offered 5 3 = true ∧ (∀ j, j < 3 → offered 5 j = false) ∧
      ((s.die 0).inbox.find? fun m => m.tenant == 3).isSome = true ∧
      (let kind (s : State) : Nat := leNat ((s.home (((s.die 0).tenant 3).inbox.toNat + 256 * 5) 256).take 1)
       let kernel := parseKernel (((s.home (((s.die 0).tenant 3).inbox.toNat + 256 * 5) 256).drop 64).take 128)
       kind s = 0 ∧ kind { s with mem := [(0x500, 2)] } = 2 ∧ kind { s with mem := [(0x500, 1)] } = 1 ∧ kernel.frzs = 0 ∧ kernel.restores = false ∧
         ((s.die 0).tenant 3).imageKey = none) := by decide +kernel

/-- A context whose page table stands on die 1, over a link under retrain, with empty TLBs. -/
def afar : State :=
  let s := withDie (withCore user fun k => { k with tlb := [] }) fun d => { d with
    tlb := [], tenants := [(0, { Tenant.reset with valid := true, ptroot := 0xC00000000 })] }
  { s with pkg := { s.pkg with links := (List.range 16).map fun k => (k, { Link.reset with state := .retraining }) } }

/-- MaintenanceInstructions: a supervisor's tlbinv; a group map with every partition, and one without; a fetch that no table maps, and one of a
poisoned word; a context of a placed launch with nothing pending. -/
theorem test_maintenance_hypotheses :
    (supervisor.me.a.csr.sup = true ∧ supervisor.tlbBlocker supervisor.me.die 0 ((supervisor.dieTlbs 0).filter fun _ => true) = none) ∧
    (let asked (x j : Nat) : Nat := x / 16 ^ j % 16
     (∀ j, j < 8 → ¬(4 ≤ asked 0x33221100 j ∧ asked 0x33221100 j ≤ 13)) ∧
       (∀ p, p < 4 → ∃ j, j < 8 ∧ (asked 0x33221100 j = p ∨ asked 0x33221100 j = 15)) ∧
       (∃ g ∈ dispatched.busyGroups 0, g < 8 ∧ asked 0x33221101 g ≠ (dispatched.core 0).pmap.toNat / 16 ^ g % 16) ∧ pending.me.nurse = false ∧
       (∃ j, j < 8 ∧ 4 ≤ asked 0x33221104 j ∧ asked 0x33221104 j ≤ 13) ∧ user.busyGroups user.me.core = []) ∧
    (let s := { user with me := { user.me with a := { user.me.a with pc := 0x1000 } } }
     s.lookup s.me s.me.a.ipc.toNat .fetch = .fault .page) ∧
    (let s := { user with poison := [0] }
     (match s.lookup s.me s.me.a.ipc.toNat .fetch with | .ok x => s.homePoison x.pa 4 | _ => false) = true) ∧
    (match afar.lookup afar.me afar.me.a.ipc.toNat .fetch with | .waits _ _ => true | _ => false) = true ∧
    (let s := barrier .none
     ∃ l, (s.die s.me.die).launch? s.me.launch = some l ∧ l.state = .placed ∧ s.me.pend = [] ∧ s.me.run = none ∧ s.me.held = []) := by
  and_intros
  all_goals decide +kernel

/-- A step over handles whose pass is done. -/
def stepped : State :=
  after (exec (.stripFinish 0 0) (after (exec (.stripDispatch 0 0) (after (exec (.passTake 0) (after (exec (.comba false 1 2 3) stepping)))))))

/-- CombStepsAndFullTables: the step, with the gate open and shut. -/
theorem test_step_commit_hypotheses : ∃ r p n e as bs, (0 : CtxId).toNat = stepped.me.id ∧ stepped.me.run = some r ∧ r.done = true ∧ r.items = [p] ∧
    r.slots = [(n, e)] ∧ p.assigned = [] ∧ e.a.streamReg = none ∧ e.b.streamReg = none ∧ e.b.bank = none ∧ p.before.csr.mprog = 0 ∧ e.dst2 ≤ 64 ∧
    stepped.me.held = [] ∧ partGet e r.parts n = .operands as bs ∧ e.op = .comba false 1 2 3 ∧ stepped.gateShut stepped.me.core = false ∧
    (withDie stepped fun d => { d with gate := 0 }).gateShut stepped.me.core = true := by
  have h : stepped.me.run.any (fun r => r.done && r.items.length == 1 && (r.items.head?.any fun p => p.assigned == [] && p.before.csr.mprog == 0) &&
      r.slots.length == 1 && (r.slots.head?.any fun x => x.2.a.streamReg == none && x.2.b.streamReg == none && x.2.b.bank == none &&
        decide (x.2.dst2 ≤ 64) && x.2.op == .comba false 1 2 3 && (match partGet x.2 r.parts x.1 with | .operands _ _ => true | _ => false))) = true := by
    decide +kernel
  obtain ⟨r, h0, h⟩ := any_some h
  simp only [Bool.and_eq_true, beq_iff_eq] at h
  obtain ⟨⟨⟨⟨h1, h2⟩, h3⟩, h4⟩, h5⟩ := h
  obtain ⟨p, hp, h3⟩ := any_some h3
  obtain ⟨x, hx, h5⟩ := any_some h5
  obtain ⟨p', hp'⟩ := List.length_eq_one_iff.mp h2
  obtain ⟨x', hx'⟩ := List.length_eq_one_iff.mp h4
  rw [hp'] at hp; rw [hx'] at hx
  cases hp; cases hx
  simp only [Bool.and_eq_true, beq_iff_eq, decide_eq_true_eq] at h3 h5
  obtain ⟨⟨⟨⟨⟨a1, a2⟩, a3⟩, a4⟩, a5⟩, a6⟩ := h5
  have hparts : ∃ as bs, partGet x.2 r.parts x.1 = .operands as bs := by
    cases hq : partGet x.2 r.parts x.1 <;> rw [hq] at a6 <;> first | exact ⟨_, _, rfl⟩ | cases a6
  obtain ⟨as, bs, hab⟩ := hparts
  exact ⟨r, p, x.1, x.2, as, bs, by decide +kernel, h0, h1, hp', hx', h3.1, a1, a2, a3, h3.2, a4, by decide +kernel, hab, a5, by decide +kernel,
    by decide +kernel⟩

/-- Every entry of the brood table taken by nodes of no operands. -/
def full : State :=
  match broodEntry noded.me.a.brood 0 with
  | some e => { noded with me := { noded.me with a := { noded.me.a with
      vh := [(3, .node 0)], brood := (List.range 256).map fun n => (n, { e with seq := BitVec.ofNat 32 n }) } } }
  | none => noded

/-- CombStepsAndFullTables: a full table, whose oldest node has a cell to go to; a table with room. -/
theorem test_full_table_hypotheses :
    (full.me.state = .running ∧ full.me.wait = .none ∧ full.me.busy = false ∧ full.me.resume = none ∧ full.me.a.freeEntry = none ∧
      ((full.me.a.oldestFirst ((full.me.a.brood.filter fun e => e.2.kind != .sink).map fun e => e.1)).head?.any fun n => (full.me.a.inOrder.stagesFor [n]).isSome) = true) ∧ noded.me.a.freeEntry ≠ none := by
  decide +kernel

/-- WaitsAndWalksComplete: the waits; a page that the TLB of the core, of the die, and a table in memory hold. -/
def waiting (w : Wait) : State := { user with me := { user.me with wait := w } }

/-- The TLB holds page 0 only; a table at 0x10000, its own next level, maps page 1. -/
def walking : State :=
  let s := withDie user fun d => { d with tenants := [(0, { Tenant.reset with valid := true, ptroot := 0x10000 })] }
  { s with mem := [(0, 0x7F), (0x10000, 1), (0x10002, 0x10), (0x10008, 0x0F), (0x1000A, 1)] }

/-- A translation is found, and is as told. -/
def finds (l : Found) (p : Xlat → Bool) : Bool := match l with | .ok x => p x | _ => false

theorem test_wait_completes_hypotheses :
    ((waiting (.wfe none true)).ctx (0 : CtxId).toNat).wait = .wfe none true ∧ ((waiting (.wfe none false)).ctx 0).event = false ∧
      ((waiting (.yield false)).ctx (0 : CtxId).toNat).wait = .yield false ∧ (user.die ((0 : CoreId).toNat / 144)).trslots = 0 ∧
      (user.ctx 0).state ≠ .vacant ∧ finds (user.lookup (user.ctx 0) 0 .read) (fun x => x.found == 0) = true ∧
      (let s := withDie (withCore user fun k => { k with tlb := [] }) fun d => { d with tlb := [fetchPage 0 0 0] }
       finds (s.lookup (s.ctx 0) 0 .write) (fun x => x.found == 1) = true) ∧
      finds (walking.lookup (walking.ctx 0) 0x1000 .write) (fun x => x.found == 2 && x.entry.pte == 0x10008) = true := by decide +kernel

/-- CoreSoftErrors: a strip on a group, not yet run again and run again; a held effect. -/
def rerun : State :=
  { dispatched with me := { dispatched.me with run := dispatched.me.run.map fun r => { r with strips := r.strips.map fun t => { t with rerun := true } } } }

theorem test_soft_error_hypotheses :
    (∀ s ∈ [dispatched, rerun], (s.die 0).trslots = 0 ∧ s.onGroup 0 (0 : BitVec 3).toNat = some s.me ∧
      s.me.run.any (fun r => r.strips.length == 1 && r.strips.all fun t => t.group == 0 && !t.finished) = true) ∧
    dispatched.me.run.any (fun r => r.strips.all fun t => !t.rerun &&
      !(r.work.run dispatched r.view.seq (min (128 * t.num + 128) r.work.len - t.lo) t.lo r.carries).stall) = true ∧
    rerun.me.run.any (fun r => r.strips.all fun t => t.rerun) = true ∧
    (let c := heldTransfer.ctx (ctxidOf 0 (0 : BitVec 2).toNat)
     c.state = .running ∧ c.run = none ∧ c.held.length = 1 ∧ c.pend = []) := by decide +kernel

/-- TenantsAndDies: a quad and a key slot that another tenant has, and ones that are free; tenants to be created, one with a quad of another; a die in reset, and one that is not. -/
theorem test_tenant_hypotheses :
    (let s := serving .running
     (∃ y, y < 16 ∧ y ≠ (1 : TenantId).toNat ∧ ((s.die 0).tenant y).valid = true ∧ (((s.die 0).tenant y).quads.toNat &&& 1) ≠ 0) ∧
       (∀ y, y < 16 → ¬(y ≠ (1 : TenantId).toNat ∧ ((s.die 0).tenant y).valid = true ∧ (((s.die 0).tenant y).quads.toNat &&& 2) ≠ 0)) ∧
       ((s.die 0).tenant 0).valid = true ∧ ((s.die 0).tenant 0).keyslot = 0 ∧ (∀ y, y < 16 → ((s.die 0).tenant y).keyslot ≠ 1) ∧
       ((s.die 0).tenant 1).valid = false ∧ (∀ z, z < 16 → ((s.die 0).tenant z).quads &&& ((s.die 0).tenant 1).quads = 0) ∧
       (let u := withDie s fun d => { d with tenants := [(0, { Tenant.reset with valid := true, quads := 1 }), (1, { Tenant.reset with quads := 3 })] }
        (((u.die 0).tenant 0).quads.toNat &&& ((u.die 0).tenant 1).quads.toNat) ≠ 0)) ∧
    (State.reset.die 0).inReset = true ∧ (State.reset.die 0).trslots = 0 ∧ (State.reset.die 0).lost = false ∧
    (withDie user fun d => { d with inReset := false }).me.die = 0 ∧ ((withDie user fun d => { d with inReset := false }).die 0).inReset = false ∧
    ((withDie user fun d => { d with lost := true }).die 0).lost = true ∧
    ((serving .running).die 0).lost = false ∧ (((serving .running).die 0).launch? 7).any (fun l => l.state == .placed) = true := by decide +kernel

/-- One launch as it waits, or has ended, of one context on quad 0, with slots of a page for freezing. -/
def launch (st : LaunchState) (frzs : Nat) : Launch :=
  { seq := 9, tenant := 0, kernel := { parseKernel (List.replicate 128 0) with qset := 1, ctx := 1, frzs := frzs }, state := st, ctxs := [],
    members := [], images := [], fault := none, rserr := 0, freezing := none, old := [] }

/-- Die 0 out of reset, with tenant 0 and one launch. -/
def hosting (l : Launch) (rest : List Launch) : State :=
  withDie user fun d => { d with inReset := false, launches := l :: rest, tenants := [(0, { Tenant.reset with valid := true, quads := 1, inbox := 0x2000 })] }

/-- A message of a type: its sequence number 0, P0 and P1. -/
def message (kind p0 p1 : Nat) : List Byte := leBytes kind 8 ++ leBytes p0 8 ++ leBytes p1 8 ++ List.replicate 232 0

/-- The firmware of die 0 has taken a message of tenant 0. -/
def taking (s : State) (msg : List Byte) : State := withDie s fun d => { d with taken := [{ tenant := 0, msg := msg, record := [] }] }

/-- A transfer of launch 9 that waits for an answer. -/
def moving : Transfer :=
  { id := 0, quad := 0, ctx := 0, tenant := 0, launch := 9, pc := 0, src := 0, rowStride := 0, rowBytes := 1, rows := 1, dst := 0, dstPa := [0], obj := 0,
    objPa := 0, graph := 0, n := 1, landed := [], recopied := [], stalled := some (3, .page, 0x5000), slots := none }

/-- LaunchesAreServed: an empty queue; a launch that fits; an ended one; a FREEZE of no launch, of one without slots, of one that runs
and may be frozen at once, of one that another message or this one has frozen. -/
theorem test_launch_served_hypotheses :
    ((user.die 0).queue = []) ∧
    (let s := hosting (launch .waiting 0) []
     (s.die 0).queue = [launch .waiting 0] ∧ (s.placement [] 0 (launch .waiting 0)).any (fun p => decide (p.map fun x => x.1).Nodup && !p.isEmpty) = true) ∧
    (let s := hosting (launch .ended 0) []
     (s.die 0).launch? (9 : Word32).toNat = some (launch .ended 0) ∧ s.launchDrains 0 9 = false) ∧
    (let find (s : State) (m : List Byte) := (s.die 0).launches.find? fun l => l.seq == leNat ((m.drop 8).take 8) && l.tenant == 0
     let s (l : Launch) (p0 : Nat) : State :=
       let s := taking (hosting l []) (message 3 p0 0)
       { s with me := { s.me with launch := 9 } }
     let run : Launch := { launch .placed 4096 with ctxs := [0] }
     let frozen : Launch := { launch .moved 4096 with freezing := some (0, [64]) }
     let other : Launch := { launch .moved 4096 with freezing := some (7, [64]) }
     let drains (l : Launch) : State := { s l 9 with transfers := [moving] }
     (s run 5).acting 0 0 3 (message 3 5 0) = true ∧ find (s run 5) (message 3 5 0) = none ∧
       (∀ l ∈ [run, { run with kernel := { run.kernel with frzs := 0 } }, frozen, other, launch .ended 4096],
         (s l 9).acting 0 0 3 (message 3 9 0) = true ∧ find (s l 9) (message 3 9 0) = some l ∧ (s l 9).launchDrains 0 9 = false ∧
           (drains l).launchDrains 0 9 = true) ∧
       (s run 9).runningOf run = [0] ∧ ((s run 9).ctx 0).launch = 9 ∧ (s run 9).freezable 0 ∧ (drains run).freezable 0 ∧
       ((s run 9).contiguous (tenantAgent 0 0) 0 4096).any (fun pa => pa % 64 == 0) = true) := by
  unfold State.freezable Ctx.sinkless; decide +kernel

/-- A snapshot at 0x4000 whose only section is CONTEXT, of 256 bytes, which saves PC 0x240 and sequence number 5. -/
def saved : State :=
  let s := hosting { launch .waiting 0 with images := [0x4000] } []
  { s with mem := Sparse.setRun 0 s.mem 0x4000 (leBytes 0x4E535A42 4 ++ leBytes 0x0100 2 ++ leBytes 1 2 ++ leBytes 384 8 ++ List.replicate 48 0 ++
      leBytes 1 8 ++ leBytes 128 4 ++ leBytes 256 4 ++ List.replicate 48 0 ++ leBytes 0x240 8 ++ leBytes 5 8) }

/-- A launch of every position of quad 0 waits at priority 1, and one of context 0 is placed at a priority. -/
def crowded (prio : Nat) : State :=
  let v : Launch := { launch .placed 0x4000 with ctxs := [0], members := [0] }
  let v : Launch := { v with kernel := { v.kernel with frzb := 0x10000, prio := prio } }
  let h : Launch := launch .waiting 0
  let h : Launch := { h with seq := 10, kernel := { h.kernel with ctx := 4, prio := 1 } }
  let s := hosting h [v]
  { s with me := { s.me with launch := 9 } }

/-- RestoresAndPriorityFreeze: a placeable launch with a snapshot of a context without a stopped pass; a head that does not fit, with one launch in its way
that may be frozen at once, and with none of a lower priority. -/
theorem test_restore_hypotheses :
    (match (saved.die 0).queue with
     | [h] => (saved.placement [] 0 h).any (fun plan => plan.map (fun x => (x.1, x.2.image)) == [(1, some 0x4000)]) &&
         decide (h.tenant < 16) && decide (h.kernel.prio < 4) &&
         let ctx := sectionOf (parseSections (saved.snapshotAt h.tenant 0x4000)) 1
         wordAt ctx 0 == 0x240 && !(wordAt ctx (16 + 8 * 4)).getLsbD 31
     | _ => false) = true ∧
    (match (crowded 0).die 0 |>.queue, ((crowded 0).die 0).launch? 9 with
     | [h], some v =>
       let s := crowded 0
       (s.placement [] 0 h).isNone && s.victims 0 h == [v] && (s.placement v.ctxs 0 h).isSome && ((s.die 0).launch? h.seq == some h) && v.images.isEmpty &&
         h.seq != v.seq && s.runningOf v == [0] && (s.ctx 0).launch == v.seq &&
         (s.freezeLaunch 0 v (fun i => v.kernel.frzb.toNat + v.kernel.frzs * i) .frozen).all (fun x => (x.1.placement [] 0 h).isSome)
     | _, _ => false) = true ∧ (crowded 0).freezable 0 ∧
    (match (crowded 1).die 0 |>.queue with
     | [h] => ((crowded 1).placement [] 0 h).isNone && ((crowded 1).victims 0 h).isEmpty
     | _ => false) = true := by
  unfold State.freezable Ctx.sinkless; decide +kernel

/-- Context 0 of the launch, waiting for the answer to a request of token 3. -/
def asking (from_ : Requester) : State :=
  let s := hosting { launch .placed 0 with ctxs := [0] } []
  let s := withDie s fun d => { d with requests := [{ token := 3, tenant := 0, launch := 9, from_ := from_, va := 0x5000 }] }
  { s with
    me := { s.me with launch := 9, service := some { token := 3, kind := .read, answer := none, va := 0x5000, cause := 5 } },
    transfers := [moving] }

/-- HostMessages: no endpoint; a full inbox and a free slot; no such request, one of a context, a stream and a transfer, with nothing in the way of
its page; a buffer that no table maps, and one that a page of 1 GB does. -/
theorem test_host_message_hypotheses :
    (user.endpoint 0 0 (message 1 0 0) = false ∧ (hosting (launch .placed 0) []).endpoint 0 0 (message 1 0 0) = true) ∧
    (∀ k ∈ [2, 3, 4, 5], (hosting (launch .placed 0) []).acting 0 0 k (message k 3 0) = false ∧
      (taking (asking (.context 0)) (message k 3 0)).acting 0 0 k (message k 3 0) = true) ∧
    (let s := withDie (hosting (launch .placed 0) []) fun d => { d with inbox := (List.range 64).map fun k => { tenant := 0, slot := k } }
     ∀ k, k < 64 → ((s.die 0).inbox.any fun m => m.tenant == 0 && m.slot == k) = true) ∧
    (hosting (launch .placed 0) []).requestOf 0 0 3 = none ∧
    (∀ q ∈ [Requester.context 0, .stream 0 1 2, .transfer 0], ((asking q).requestOf 0 0 3).any (fun r => r.from_ == q && r.token == 3 && r.launch == ((asking q).ctx 0).launch) = true ∧
      (asking q).tlbBlocker 0 0 (((asking q).dieTlbs 0).filter fun e => e.tenant == 0 && e.va / 2 ^ e.bits == 0x5000 / 2 ^ e.bits) = none) ∧
    (let c := (asking (.context 0)).ctx 0
     c.launch = 9 ∧ c.state = .running ∧ c.service.any (fun v => v.token == 3 && v.answer.isNone) = true ∧
       (((asking (.context 0)).die 0).launch? 9).any (fun l => l.state == .placed) = true) ∧
    ((asking (.transfer 0)).transfers.find? (fun y => y.id == 0)).any (fun m => m.stalled.isSome) = true ∧
    (let s := hosting (launch .placed 0) []
     ((pagePieces 0x100000 397824).any fun p => (s.translate (tenantAgent 0 0) p.1 .write).toOption.isNone) = true) ∧
    (let s := withCore (hosting (launch .placed 0) []) fun k => { k with tlb := [{ fetchPage 0 0 0 with bits := 30 }] }
     ((pagePieces 0x100000 397824).all fun p => (s.translate (tenantAgent 0 0) p.1 .write).toOption.any fun y => y.pa == 0x100000 + (p.1 - 0x100000) && inMemory y.pa) = true) := by
  decide +kernel

/-- A load of context 0 from the first package. -/
def asked : PodRequest :=
  { id := 4, ctx := 0, tenant := 0, ptid := 7, die := 0, launch := 9, va := 0x100, pa := 0x4000000000100, kind := .read 8, instr := .ldd none 0 1 10 }

/-- The package, the second of its pod, open to package tenant 7, which tenant 0 grants the first 4 KB; a request of context 0 unanswered. -/
def granted : State :=
  let s := hosting (launch .placed 0) []
  { s with
    pkg := { s.pkg with
      podid := 0x1001, pods := [(0, { ptid := 5, grants := [(0, { base := 0, len := 0x1000, ptid := 7, perm := 3 })] })],
      requests := [asked] },
    me := { s.me with wait := .remote 4 } }

/-- PodWindow: a grant on its alignment and off it; a graph that is valid and one that is not; a granted write, read and
atomic; a request whose answer comes. -/
theorem test_pod_hypotheses :
    ((0x40 : Word).toNat % 64 = 0 ∧ (0x41 : Word).toNat % 64 ≠ 0) ∧
    ((List.replicate 32 (0 : Byte)).length = 32 ∧ graphByte (List.replicate 32 0) 0 = 0 ∧ (1 : BitVec 4) ≠ 0 ∧
      graphByte (0xFF :: List.replicate 31 0) 0 ≠ 0 ∧ goodGraph (0xFF :: List.replicate 31 0) = false) ∧
    user.pkg.podid.getLsbD 12 = false ∧
    (granted.granting 7 0x100 (.write [1, 2]) = some 0 ∧ granted.partOfPoison 0x100 2 = false ∧
      granted.granting 7 0x100 (.atomic .add true 1 0) = some 0 ∧ 0x100 % 8 = 0 ∧ granted.homePoison 0x100 8 = false ∧
      (granted.dirtyByte (tenantAgent 0 0) 0x100).all (fun b => !(decide (0x100 ≤ b) && decide (b < 0x108))) = true) ∧
    granted.granting 7 0x100 (.read 8) = some 0 ∧
    ((granted.pkg.requests.find? fun q => q.id == 4).any (fun r => r.ctx == 0 && r.kind == .read 8 && r.instr == .ldd none 0 1 10) = true ∧
      (granted.ctx 0).wait = .remote 4 ∧ (granted.ctx 0).a.rep = none ∧ (granted.ctx 0).busy = false ∧ (granted.ctx 0).a.csr.sup = false ∧
      (granted.ctx 0).nurse = false ∧ (granted.die (granted.ctx 0).die).trslots = 0 ∧ (granted.die 0).launch? 9 ≠ none) := by decide +kernel

/-- PodWindow: requests for this package itself, with a grant and without; one for no memory; one for another package. -/
theorem test_own_package_hypotheses :
    (let own (off : Nat) (p : BitVec 16) : PodRequest := { asked with pa := 0x4004000000000 + off, ptid := p, kind := .write [1, 2] }
     let grants (r : PodRequest) : Option Nat := granted.granting r.ptid (podOffset r.pa) r.access
     granted.ownPackage (own 0x100 7).pa && podOffset (own 0x100 7).pa == 0x100 && grants (own 0x100 7) == some 0 && grants (own 0x100 6) == none &&
       podOffset (own 0x3800000000 7).pa == 0x3800000000 && !granted.ownPackage asked.pa && podOffset asked.pa == 0x100) = true := by decide +kernel

/-- A link direction from die 0 to die 1 in a state, with two unreturned slots and an audit on its way. -/
def linked (st : LinkState) : State :=
  let c : ChannelCounts :=
    { sent := 2, fk := 0, freed := 2, sentPar := parity 2, fkPar := parity 0, freedPar := parity 2, audit := some 1, reserved := 0 }
  { user with pkg := { user.pkg with links := [(1, { state := st, channels := [(0, c)], retry := [0], nextFlit := 1 })] } }

/-- LinkFlowControl: counts with their parities and a count without; returns up to the audit, past it, and above the capacity; a channel with an audit
and one without; a slot of SIDE against the direction; each state of a link. -/
theorem test_link_hypotheses :
    (let c := ((linked .up).link (0 : DieId).toNat (1 : DieId).toNat).channel .req
     c.sound = true ∧ { c with fkPar := !c.fkPar }.sound = false ∧ c.audit = some 1 ∧ 1 ≤ ((1 : Word32) - c.fk).toNat ∧
       ((1 : Word32) - c.fk).toNat < 2 ∧ 2 ≤ (c.sent - c.fk).toNat ∧ (c.sent - c.fk).toNat < 3) ∧
    ((linked .up).linkUp 0 1 = true ∧ ((linked .up).link 1 0).maySend .side = true ∧ (0 : DieId).toNat ≠ (1 : DieId).toNat) ∧
    (linked .retraining).linkUp 0 1 = false ∧
    ((linked .up).link 0 1).channel .side = ChannelCounts.reset ∧ (ChannelCounts.reset).audit = none ∧
    ((linked .retraining).link 0 1).state = .retraining ∧ ((linked .lost).link 0 1).state = .lost := by decide +kernel

/-- A write of context 0 on its core's path. -/
def travelling (s : State) (pa : Nat) : State :=
  let w : PathWrite := { ctx := 0, tenant := 0, launch := s.me.launch, pc := 0, va := 0x100, pa := pa, data := [1, 2], poison := false }
  withCore s fun k => { k with path := [w] }

/-- WritesReachTheirHomes: a write to its own die, over a link under retrain, to another package, over links that are lost; a link under retrain
with no pass, row or transfer in flight. -/
theorem test_path_hypotheses :
    (let s := travelling user 0x100
     (s.core (0 : CoreId).toNat).path[0]?.any (fun w => w.pa == 0x100) = true ∧ s.reach (s.ctx 0) 0x100 = .here ∧ region 0x100 ≠ .pod ∧
       (s.route 0 0).getD [] = [] ∧ s.partOfPoison 0x100 2 = false ∧
       (s.dirtyByte (s.ctx 0) 0x100).all (fun b => !(decide (0x100 ≤ b) && decide (b < 0x102))) = true) ∧
    (travelling (linked .retraining) 0xC00000100).reach (user.ctx 0) 0xC00000100 = .waits 0 1 ∧
    (let full : State := { user with pkg := { user.pkg with links := [(1, { Link.reset with retry := List.range 4096 })] } }
     let s := travelling full 0xC00000100
     s.reach (s.ctx 0) 0xC00000100 = .here ∧ ((s.route 0 1).getD []).any (fun h => !(s.link h.1 h.2).maySend .req) = true) ∧
    (let s := travelling granted 0x4000000000100
     s.pkg.requests.any (fun r => r.ctx == 0 && r.pa / 64 == 0x4000000000100 / 64) = true) ∧
    (travelling user 0x4000000000200).reach (user.ctx 0) 0x4000000000200 = .fails .remote ∧
    (travelling granted 0x4000000000200).reach (granted.ctx 0) 0x4000000000200 = .here ∧ region 0x4000000000200 = .pod ∧
    (granted.pkg.requests.all fun r => !(r.ctx == 0 && r.pa / 64 == 0x4000000000200 / 64)) = true ∧
    (let gone : State := { user with pkg := { user.pkg with links := (List.range 16).map fun k => (k, { Link.reset with state := .lost }) } }
     (travelling gone 0xC00000100).reach (user.ctx 0) 0xC00000100 = .fails .linkLost ∧ region 0xC00000100 ≠ .pod ∧ (user.ctx 0).state = .running) ∧
    (let s := linked .retraining
     (s.link 0 1).state = .retraining ∧ s.me.run = none ∧ s.me.rows = [] ∧ s.others = [] ∧ s.transfers = []) := by decide +kernel

theorem test_no_pass_anywhere : ∀ id, ((linked .retraining).ctx id).run = none ∧ ((linked .retraining).ctx id).rows = [] := by
  intro id
  unfold State.ctx
  split
  · decide +kernel
  · exact ⟨rfl, rfl⟩

/-- ErrorsAndPower: addresses with and without a die; a tenant that owns a slice's quad, and the key of a line of DRAM; steps down and up at each bound; readings of 64
monitors that allow 3.6 GHz at 0.75 V, and readings that allow 3.0 GHz and no more (no reading allows none). -/
theorem test_power_hypotheses :
    (region 0x3000000000).die? = some 0 ∧ (region 0x7FFFFFFFFFFFFFFF).die? = none ∧
    (let s := withDie user fun d => d.setTenant 0 fun t => { t with valid := true, quads := 1, key := 5 }
     region 0x3000000000 = .sram 0 0 ∧ region 0 = .dram 0 ∧ ((s.die 0).tenant 0).valid = true ∧ ((s.die 0).tenant 0).quads.getLsbD 0 = true ∧
       Sparse.get 0 { s with keys := [(0, 5)] }.keys 0 = ((s.die 0).tenant 0).key ∧ ((s.die 0).tenant 0).key ≠ 0) ∧
    (let d : Die := user.die 0
     d.trslots = 0 ∧ 16 < d.mvlcap ∧ 2000 < d.clock ∧ 0 < d.gate ∧ ¬(16 < { d with mvlcap := 16 }.mvlcap) ∧ { d with clock := 2000 }.clock ≤ 2000 ∧
       { d with gate := 0 }.gate = 0 ∧ d.lastRise = none ∧ 16 ≤ d.gate ∧ d.topClock ≤ d.clock ∧ 64 ≤ d.mvlcap ∧ { d with gate := 15 }.gate < 16 ∧
       { d with clock := 3500 }.clock < d.topClock) ∧
    (let s := withDie (hosting (launch .placed 0) []) id
     (serving .running).pkg.powerCut = false ∧ (s.die 0).inReset = false ∧ (s.die 0).topClock = 3600 ∧ State.reset.die 0 = { State.reset.die 0 with inReset := true } ∧
       (∀ y ∈ List.replicate 64 250000, (y + 25000) * 3600 ≤ 1000000000) ∧ (List.replicate 64 250000).length = 64 ∧
       (∀ y ∈ List.replicate 64 300000, (y + 25000) * 3000 ≤ 1000000000 ∧ ∀ i, i ≤ 5 → ¬((y + 25000) * (3600 - 100 * i) ≤ 1000000000)) ∧
       (3600 - 2000) / 100 = 16 ∧ 3000 = 3600 - 100 * 6) := by decide +kernel

/-- A waggle unit that takes a record every 1024 ticks into one slot at 0x4000. -/
def waggling : State := withDie user fun d => { d with wgctl := 0x10A, wgbase := 0x4000, wgslots := 1 }

/-- SamplesAndRegisters: a sample that is due on die 0 alone; a core of the die; a debug slot for a launch that allows none. -/
theorem test_sample_hypotheses :
    (let least (d : Nat) : Nat := max (waggling.die d).wgstart.toNat (match (waggling.die d).sampled with | some u => u.toNat + 1 | none => 0)
     let unit (d : Nat) : Nat := 2 ^ ((waggling.die d).wgctl.toNat % 32)
     let due (d : Nat) : Prop := (waggling.die d).wgctl.getLsbD 8 = true ∧ (0 : Word).toNat % unit d = 0 ∧ least d ≤ (0 : Word).toNat ∧
       (0 : Word).toNat < least d + unit d
     due 0 ∧ (0 : Word).toNat ≤ waggling.pkg.tick.toNat ∧ (∀ e, e < 4 → e ≠ 0 → ¬due e) ∧ (waggling.die 0).wgslots ≠ 0) ∧
    (∀ d, d < 4 → (user.die d).wgctl.getLsbD 8 = false) ∧ (user.die 0).wgslots = 0 ∧
    ((144 : CoreId).toNat / 144 ≠ 0 ∧ (0 : CoreId).toNat / 144 = 0) ∧
    (let v : Word := 0x9001
     v.getLsbD 0 = true ∧ field v 12 32 = 9 ∧
       ∀ l ∈ ((hosting (launch .placed 0) []).die 0).launches, l.seq = field v 12 32 → l.kernel.mode.testBit 0 = false) := by decide +kernel

/-- StepRunsDecodedInstruction: a context at a boundary, whose fetch the TLB holds: a word that decodes, and one that does not; a fetch that no table maps,
one that waits on a link, one of a poisoned word. -/
theorem test_step_hypotheses :
    (∀ s ∈ [user, user 0, afar, { user with poison := [0] }, { user with me := { user.me with a := { user.me.a with pc := 0x1000 } } }],
      s.pkg.powerCut = false ∧ s.turns = [] ∧ s.me.state = .running ∧ s.me.wait = .none ∧ s.me.lostWrite = none ∧ s.me.softError = none ∧
        s.mustWait = false ∧ s.forceAgain.2 = [] ∧ s.me.ahead = []) ∧
    (∀ x ∈ [{ va := 0, pa := 0, entry := fetchPage 0 0 0, found := 0, drew := false }], ∀ w ∈ [0x7F, 0],
      (user w).lookup (user w).me (user w).me.a.ipc.toNat .fetch = .ok x ∧ (user w).watched (user w).me (user w).me.a.ipc.toNat 4 .fetch = false ∧
        (user w).fetch (user w).me.a.ipc = .ok x w ∧ x.found = 0 ∧ (user w).traceSlots [] (user w).me.a.ipc.toNat 4 .fetch = [] ∧
        (user w).fetchDrew x.pa = false ∧ (user w).homePoison x.pa 4 = false ∧ (user w).reach (user w).me x.pa = .here ∧ region x.pa ≠ .pod) ∧
    decode (user.issueWord 0x7F) = .ok (.nop 0) ∧ decode ((user 0).issueWord 0) = .error .undefinedWord ∧
    (let s := { user with me := { user.me with a := { user.me.a with pc := 0x1000 } } }
     s.lookup s.me s.me.a.ipc.toNat .fetch = .fault .page) ∧
    (match afar.lookup afar.me afar.me.a.ipc.toNat .fetch with | .waits _ _ => true | _ => false) = true ∧
    (let s := { user with poison := [0] }
     s.fetch s.me.a.ipc = .fault .poison) :=
  ⟨by decide +kernel, by decide +kernel, rfl, rfl, by decide +kernel, by decide +kernel, by decide +kernel⟩

/-- EncodeDecodeRoundTrip: a well-formed instruction has a word. -/
theorem test_encode_hypotheses : (Instr.wcall 2 16).wellFormed = true ∧ encode (.wcall 2 16) = some 0x20040137 := by decide +kernel

/-- MemoryStaysCanonical and InstructionsKeepRules: a canonical machine, and a step and an instruction that go on. -/
theorem test_canonical_hypotheses : Memory.wf user.mem = true ∧ user.wf = true ∧ user.me.nurse = false ∧ user.me.held = [] ∧
    (encode (.add 1 2 3)).isSome = true ∧ Res.goesOn (exec (.add 1 2 3) user) = true ∧ user.me.a.pc.toNat % 4 = 0 ∧
    user.me.a.csr.win.toNat / 2 ^ 8 % 64 ≤ 24 ∧ user.me.a.csr.sup = false ∧ ∃ t, step user = .next t := by
  and_intros
  any_goals decide +kernel
  have h : (match step user with | .next _ => true | _ => false) = true := by decide +kernel
  cases hs : step user with
  | next t => exact ⟨t, rfl⟩
  | fault f => rw [hs] at h; cases h
  | refused r => rw [hs] at h; cases h

/-! ## Single steps, their results calculated by hand from the rules named -/

/-- What sD reads after one instruction. -/
def result (s : State) (i : Instr) (d : SReg) : Word := (after (exec i s)).reg d

/-- 05 R129: sums wrap, shifts read six bits, the quotient of the most negative number by -1, division by zero, the high half of a product. -/
theorem test_integer_results :
    let s := withRegs user [(1, -1), (2, 2), (3, 0x8000000000000000), (4, 65)]
    result s (.add 5 1 2) 5 = 1 ∧ result s (.sub 2 2 1) 2 = 3 ∧ result s (.shl 5 2 4) 5 = 4 ∧ result s (.sra 5 3 4) 5 = 0xC000000000000000 ∧
      result s (.divS 5 3 1) 5 = 0x8000000000000000 ∧ result s (.remS 5 3 1) 5 = 0 ∧ result s (.divZ 5 2 0) 5 = -1 ∧ result s (.remZ 5 2 0) 5 = 2 ∧
      result s (.mulhS 5 1 2) 5 = -1 ∧ result s (.mulhZ 5 1 2) 5 = 1 ∧ result s (.slt 5 1 2) 5 = 1 ∧ result s (.sltn 5 1 2) 5 = 0 ∧
      result s (.add 0 1 2) 0 = 0 := by decide +kernel

/-- 05 R130 to R133: addi extends the sign and andi does not; counts; a byte swap; bit fields; lui extends the sign. -/
theorem test_immediate_and_bit_results :
    let s := withRegs user [(1, -1), (2, 0x0102030405060708), (3, 0xF0)]
    result s (.addi 5 0 0x7FF) 5 = -1 ∧ result s (.andi 5 1 0x7FF) 5 = 0x7FF ∧ result s (.clz 5 0) 5 = 64 ∧ result s (.ctz 5 3) 5 = 4 ∧
      result s (.popc 5 3) 5 = 4 ∧ result s (.bswap 5 2) 5 = 0x0807060504030201 ∧ result s (.bfxS 5 3 4 3) 5 = -1 ∧ result s (.bfxZ 5 3 4 3) 5 = 15 ∧
      result s (.bfi 2 1 8 7) 2 = 0x010203040506FF08 ∧ result s (.lui 5 0x20000) 5 = 0xFFFFFFFFF0000000 ∧ result s (.fsh 3 2 4) 3 = 0xF0 := by
  decide +kernel

/-- 05 R134 to R138, 03 R89: 1 + 2^-24 is a tie and gives 1 with INX; -0 below +0; a comparison with a NaN; 1.0 to BF16. -/
theorem test_float_results :
    let s := withRegs user [(1, 0x3F800000), (2, 0x33800000), (3, 0x80000000), (4, 0x7FC00000)]
    result s (.fadd 5 1 2) 5 = 0x3F800000 ∧ (after (exec (.fadd 5 1 2) s)).me.a.csr.flags = 0x10 ∧ result s (.fmin 5 0 3) 5 = 0x80000000 ∧
      result s (.fmax 5 3 0) 5 = 0 ∧ result s (.fcmpLt 5 1 4) 5 = 0 ∧ (after (exec (.fcmpLt 5 1 4) s)).me.a.csr.flags = 1 ∧
      result s (.fcmpUn 5 1 4) 5 = 1 ∧ result s (.fcvtFromF32 .bf16 5 1) 5 = 0x3F80 ∧ result s (.fdiv 5 1 0) 5 = 0x7F800000 := by decide +kernel

/-- 05 R147, R148, R153: bytes are little-endian; ldb extends a sign where it is asked; an atomic gives the old value and its own store is seen. -/
theorem test_memory_results :
    let s := { withRegs user [(1, 0x100), (2, 0x80FF)] with mem := [(0, 0x7F), (0x100, 0x80), (0x101, 0x01)] }
    result s (.ldb true none 0 1 5) 5 = 0xFFFFFFFFFFFFFF80 ∧ result s (.ldb false none 0 1 5) 5 = 0x80 ∧ result s (.ldh false none 0 1 5) 5 = 0x180 ∧
      (after (exec (.sth none 1 1 2) s)).coreByte 0 0x102 = 0xFF ∧ (after (exec (.sth none 1 1 2) s)).coreByte 0 0x103 = 0x80 ∧
      result s (.amoadd .rlx .ctx false 2 1 5) 5 = 0x180 ∧ Sparse.get 0 (after (exec (.amoadd .rlx .ctx false 2 1 5) s)).mem 0x101 = 0x82 := by
  decide +kernel

/-- 05 R139 to R143: a branch taken backwards; a jump that reads a before it writes d; a windowed call, after which p16 is s0's own position. -/
theorem test_control_results :
    let s := { user with me := { user.me with a := { user.me.a with pc := 0x100, regs := [(1, 0x200)] } } }
    (after (exec (.beq 0 0 0x7FE) s)).me.a.pc = 0xF8 ∧ (after (exec (.bne 0 0 0x7FE) s)).me.a.pc = 0x104 ∧
      (after (exec (.jalr 1 1 1) s)).me.a.pc = 0x204 ∧ result s (.jalr 1 1 1) 1 = 0x104 ∧
      (after (exec (.wcall 1 4) s)).me.a.csr.win = 0x101 ∧ Sparse.get 0 (after (exec (.wcall 1 4) s)).me.a.regs 16 = 0x104 ∧
      (after (exec (.wret 1) (after (exec (.wcall 1 4) s)))).me.a.pc = 0x104 := by decide +kernel

/-- 01 R33, R34, 19 R370 to R372: trap, an undefined word, a privileged instruction in user mode, and eret. -/
theorem test_trap_results :
    let s := withRegs user [(1, 0x77)]
    (after (exec (.trap 1) s)).me.a.csr.cause = 0x13 ∧ (after (exec (.trap 1) s)).me.a.csr.faultva = 0x77 ∧
      (after (exec (.trap 1) s)).me.a.pc = 0xFFFFFF0000000000 ∧ (after (exec .undefinedWord s)).me.a.csr.cause = 1 ∧
      (after (exec .eret s)).me.a.csr.cause = 0x17 ∧ (after (exec .eret supervisor)).me.a.csr.sup = false ∧
      (after (exec .undefinedWord supervisor)).me.state = .stopped := by decide +kernel

/-- 01 R13, R22, 04 R115, R116: a WDEPTH above 24, a reserved RM, a vector length, an ill-formed request. -/
theorem test_csr_results :
    let s := withRegs supervisor [(1, 0x3F1F), (2, 0x1F), (3, 100)]
    (after (exec (.csrw 0 1 0x48) s)).me.a.csr.win = 0x181F ∧ (after (exec (.csrw 0 2 2) s)).me.a.csr.vmode = 0x18 ∧
      (after (exec (.setvli 5 3 0) s)).me.a.csr.vl = 100 ∧ (after (exec (.setvli 5 3 19) s)).me.a.csr.vtype = 0x80000000 ∧
      result s (.setvli 5 3 19) 5 = 0 := by decide +kernel

/-- 05 R146, 02 R67: a count of k0 over three elements, once its pass is done. -/
theorem test_count_result : (after (exec (.sinkComplete 0) done)).reg 5 = 3 ∧ (after (exec (.sinkComplete 0) done)).me.a.csr.strip = 0 := by
  decide +kernel

/-- 02 R39, R40: a node; its sequence number; the handle that names it. -/
theorem test_node_result : noded.me.a.vhandle 3 = .node 0 ∧ noded.me.a.seq = 1 ∧ (broodEntry noded.me.a.brood 0).any (fun e => e.len == 3) = true := by
  decide +kernel

end Sys2Proof.Tests
end

section
/-!
SUPPORT. Proofs about the state of a context (01): the window, trap entry, and the CSR map.
-/

namespace Sys2Proof.Machine

/-! ## The scalar window (01 R12) -/

/-- WINB is the five low bits of WIN. -/
theorem Csrs.winb_eq (c : Csrs) : c.winb = c.win.toNat % 32 := by
  unfold Csrs.winb field
  omega

/-- A register other than s0 reads the physical register that it names, unless that is dead. -/
theorem Arch.reg_of_live (a : Arch) (n : SReg) (hn : n ≠ 0) (h : a.dead.getLsbD (a.phys n) = false) :
    a.reg n = Sparse.get 0 a.regs (a.phys n) := by
  rw [Arch.reg, if_neg hn, h, if_neg Bool.false_ne_true]

/-- A write to a register other than s0 changes the value of the physical register that it names alone. -/
theorem Arch.get_regs_setReg (a : Arch) (n : SReg) (v : Word) (hn : n ≠ 0) (q : Nat) :
    Sparse.get 0 (a.setReg n v).regs q = if q = a.phys n then v else Sparse.get 0 a.regs q := by
  simp only [Arch.setReg, hn, if_false, Arch.setPhys]
  split
  · subst q; exact Sparse.get_set_same _ _ _ _
  · exact Sparse.get_set_other _ _ _ _ _ ‹_›

/-- The position 16 * WINB has no name: no register but s0 stands there. -/
theorem Arch.phys_ne_base (a : Arch) (n : SReg) (hn : n ≠ 0) : a.phys n ≠ 16 * a.csr.winb := by
  have hlt := n.isLt
  have hpos : n.toNat ≠ 0 := fun h => hn (BitVec.eq_of_toNat_eq h)
  simp only [Arch.phys, Csrs.winb_eq]
  omega

/-- Settles O2: the window rules of a read, of a write and of the names, each by its own lemma. -/
theorem windowNaming : Obligations.WindowNaming := by
  unfold Obligations.WindowNaming
  intro a n v
  refine ⟨⟨a.reg_zero, a.setReg_zero v⟩, fun hn => ?_⟩
  rw [← Csrs.winb_eq]
  exact ⟨a.reg_of_live n hn, a.get_regs_setReg n v hn, a.phys_ne_base n hn, fun m _ hmn h => hmn (a.phys_inj m n h)⟩

/-! ## Fields of a word -/

/-- The bits of a number made of a low part of lo bits, a field of n bits and a high part. -/
theorem testBit_parts (lo n hi mid low k : Nat) (hlow : low < 2 ^ lo) (hmid : mid < 2 ^ n) :
    (2 ^ lo * (2 ^ n * hi + mid) + low).testBit k =
      if k < lo then low.testBit k else if k - lo < n then mid.testBit (k - lo) else hi.testBit (k - lo - n) := by
  rw [Nat.testBit_two_pow_mul_add _ hlow, Nat.testBit_two_pow_mul_add _ hmid]

/-- A field that is replaced holds the new value, and every other bit is as before. -/
theorem getLsbD_setField (w : Word) (lo n v k : Nat) (h : lo + n ≤ 64) :
    (setField w lo n v).getLsbD k = if lo ≤ k ∧ k < lo + n then v.testBit (k - lo) else w.getLsbD k := by
  have hlow : w.toNat % 2 ^ lo < 2 ^ lo := Nat.mod_lt _ (Nat.two_pow_pos _)
  have hmid : w.toNat / 2 ^ lo % 2 ^ n < 2 ^ n := Nat.mod_lt _ (Nat.two_pow_pos _)
  have hval : v % 2 ^ n < 2 ^ n := Nat.mod_lt _ (Nat.two_pow_pos _)
  have hsplit : w.toNat = 2 ^ lo * (2 ^ n * (w.toNat / 2 ^ lo / 2 ^ n) + w.toNat / 2 ^ lo % 2 ^ n) + w.toNat % 2 ^ lo := by
    rw [Nat.div_add_mod, Nat.div_add_mod]
  have hset : w.toNat - w.toNat / 2 ^ lo % 2 ^ n * 2 ^ lo + v % 2 ^ n * 2 ^ lo =
      2 ^ lo * (2 ^ n * (w.toNat / 2 ^ lo / 2 ^ n) + v % 2 ^ n) + w.toNat % 2 ^ lo := by
    generalize w.toNat / 2 ^ lo / 2 ^ n = hi at hsplit ⊢
    generalize w.toNat / 2 ^ lo % 2 ^ n = mid at hsplit ⊢
    generalize w.toNat % 2 ^ lo = low at hsplit ⊢
    rw [hsplit, Nat.mul_add, Nat.mul_add, Nat.mul_comm mid, Nat.mul_comm (v % 2 ^ n)]
    omega
  by_cases hk : k < 64
  · rw [setField, BitVec.getLsbD_ofNat, hset, testBit_parts _ _ _ _ _ _ hlow hval, decide_eq_true hk,
      Bool.true_and, ← BitVec.testBit_toNat, hsplit, testBit_parts _ _ _ _ _ _ hlow hmid, ← hsplit]
    rcases Nat.lt_or_ge k lo with hlo | hlo
    · rw [if_pos hlo, if_pos hlo, if_neg (show ¬(lo ≤ k ∧ k < lo + n) by omega)]
    · rw [if_neg (Nat.not_lt.mpr hlo), if_neg (Nat.not_lt.mpr hlo)]
      by_cases hn : k - lo < n
      · rw [if_pos hn, if_pos (show lo ≤ k ∧ k < lo + n by omega), Nat.testBit_mod_two_pow, decide_eq_true hn, Bool.true_and]
      · rw [if_neg hn, if_neg hn, if_neg (show ¬(lo ≤ k ∧ k < lo + n) by omega)]
  · rw [BitVec.getLsbD_of_ge _ _ (by omega), BitVec.getLsbD_of_ge _ _ (by omega), if_neg (by omega)]

/-! ## Trap entry in user mode (01 R33) -/

/-- Trap entry sets SUP, and PSUP to the old SUP; the rest of STATUS stays. -/
theorem Arch.getLsbD_trap_status (t : TrapInfo) (a : Arch) (k : Nat) :
    (a.trap t).csr.status.getLsbD k = if k = 0 then true else if k = 1 then a.csr.sup else a.csr.status.getLsbD k := by
  have hs : (a.trap t).csr.status = setField (setField a.csr.status 1 1 (if a.csr.sup then 1 else 0)) 0 1 1 := by
    unfold Arch.trap; split <;> rfl
  rw [hs, getLsbD_setField _ _ _ _ _ (by decide), getLsbD_setField _ _ _ _ _ (by decide)]
  rcases k with _ | _ | k
  · rfl
  · cases a.csr.sup <;> rfl
  · rw [if_neg (show ¬(0 ≤ k + 1 + 1 ∧ k + 1 + 1 < 0 + 1) by omega), if_neg (show ¬(1 ≤ k + 1 + 1 ∧ k + 1 + 1 < 1 + 1) by omega),
      if_neg (show ¬k + 1 + 1 = 0 by omega), if_neg (show ¬k + 1 + 1 = 1 by omega)]

/-- CAUSE of a trap in a pass: the code, bit 8, the sink slot and WR. -/
theorem TrapInfo.word_pass (c : Cause) (va : Word) (write : Bool) (el pc : Word) (seq : Word32) (slot : Nat) (h : slot < 4) :
    ({ cause := c, va := va, write := write, pass := some (el, pc, seq, slot) } : TrapInfo).word =
      BitVec.ofNat 64 (c.code + 2 ^ 8 + slot * 2 ^ 9 + if write then 2 ^ 12 else 0) := by
  simp [TrapInfo.word, Machine.word, Nat.mod_eq_of_lt (show slot < 8 by omega)]

/-- A trap at issue that is taken in user mode is the trap entry of the statements. -/
theorem State.trapped_trap (s : State) (c : Cause) (va : Word) (write : Bool) (hs : s.me.a.csr.sup = false) :
    s.Trapped (s.setArch (Arch.trap { cause := c, va := va, write := write, pass := none })) c.code va write where
  regs := by simp [Arch.trap, TrapInfo.word, Machine.word, supervisorEntry]
  sup := ⟨by rw [State.setArch_me_a, Arch.getLsbD_trap_status, if_pos rfl],
    by rw [State.setArch_me_a, Arch.getLsbD_trap_status, if_neg Nat.one_ne_zero, if_pos rfl, hs]⟩
  status k hk := by
    rw [State.setArch_me_a, Arch.getLsbD_trap_status, if_neg (by omega), if_neg (by omega)]
  frame := rfl

/-- A trap of an instruction, taken at once. -/
theorem State.trap_now (s : State) (c : Cause) (h : s.TrapsNow) : ∃ t, s.trap c = .next t ∧ s.Trapped t c.code 0 false := by
  obtain ⟨hn, hs, hq, hr⟩ := h
  exact ⟨_, by rw [State.trap, s.trapAtIssue_idle _ _ _ hq, s.takeTrap_user _ hn hs hr], s.trapped_trap c 0 false hs⟩

/-! ## The end of a launch, as the context that moves sees it (19 R361, R369) -/

/-- A die that is changed reads as changed, every other as before. -/
theorem State.die_setDie (s : State) (d k : Nat) (f : Die → Die) :
    (s.setDie d f).die k = if k = d then f (s.die d) else s.die k := by
  unfold State.die State.setDie
  split
  · subst k; exact Sparse.get_set_same _ _ _ _
  · exact Sparse.get_set_other _ _ _ _ _ ‹_›

/-- What the end of a launch keeps: the context that moves, memory, and the size of every trace ring. -/
structure State.KeepsMover (s t : State) : Prop where
  me : t.me = s.me
  mem : t.mem = s.mem
  rings : ∀ d, (t.die d).trslots = (s.die d).trslots

theorem State.KeepsMover.refl (s : State) : s.KeepsMover s := ⟨rfl, rfl, fun _ => rfl⟩

theorem State.KeepsMover.trans {s t u : State} (h : s.KeepsMover t) (k : t.KeepsMover u) : s.KeepsMover u :=
  ⟨k.me.trans h.me, k.mem.trans h.mem, fun d => (k.rings d).trans (h.rings d)⟩

/-- A change of a die that leaves its trace ring alone. -/
theorem State.keepsMover_setDie (s : State) (d : Nat) (f : Die → Die) (hf : (f (s.die d)).trslots = (s.die d).trslots) :
    s.KeepsMover (s.setDie d f) := by
  refine ⟨rfl, rfl, fun k => ?_⟩
  rw [State.die_setDie]
  split
  · subst k; exact hf
  · rfl

/-- A run of operations keeps the mover when each does, from every state whose mover has stopped. -/
theorem State.keepsMover_foldl {α : Type} (f : State → α → State) (l : List α)
    (hf : ∀ (s : State) (x : α), s.me.stop = s.me → s.KeepsMover (f s x)) (s : State) (h : s.me.stop = s.me) : s.KeepsMover (l.foldl f s) := by
  induction l generalizing s with
  | nil => exact .refl s
  | cons x r ih =>
    have hx := hf s x h
    exact hx.trans (ih _ (by rw [hx.me, h]))

/-- A context that has stopped does not change when it is stopped again. -/
theorem Ctx.stop_stop (c : Ctx) : c.stop.stop = c.stop := rfl

section
variable (s : State) (h : s.me.stop = s.me)
include h

/-- The contexts of a launch stop; the mover had stopped already. -/
theorem State.keepsMover_stopContexts (ids : List Nat) : s.KeepsMover (s.stopContexts ids) := by
  refine State.keepsMover_foldl _ ids (fun s id h => ?_) s h
  have hm : s.KeepsMover (s.modifyCtx id Ctx.stop) := by
    unfold State.modifyCtx
    split
    · exact ⟨h, rfl, fun _ => rfl⟩
    · exact ⟨rfl, rfl, fun _ => rfl⟩
  exact hm.trans ⟨rfl, rfl, fun _ => rfl⟩

/-- One launch ends. -/
theorem State.keepsMover_endLaunch (d seq : Nat) (f : FaultReport) : s.KeepsMover (s.endLaunch d seq f) := by
  unfold State.endLaunch
  split
  · exact .refl s
  · split
    · exact .refl s
    · exact .refl s
    · exact (s.keepsMover_stopContexts h _).trans (State.keepsMover_setDie _ _ _ rfl)
    all_goals exact s.keepsMover_setDie _ _ rfl

/-- A launch ends, and with it its package group (21 R395). -/
theorem State.keepsMover_endGroup (d seq : Nat) (f : FaultReport) : s.KeepsMover (s.endGroup d seq f) := by
  unfold State.endGroup
  split
  · exact .refl s
  · extract_lets _ t
    have told : s.KeepsMover t := by
      dsimp only [t]
      split <;> exact ⟨rfl, rfl, fun _ => rfl⟩
    have first := told.trans (State.keepsMover_endLaunch _ (by rw [told.me, h]) d seq f)
    refine first.trans (State.keepsMover_foldl _ _ (fun s e h => ?_) _ (by rw [first.me, h]))
    refine State.keepsMover_foldl _ _ (fun s m h => ?_) s h
    split
    · exact s.keepsMover_endLaunch h _ _ _
    · exact .refl s

end

/-- A trace record changes no context. -/
@[simp] theorem State.trace_me (s : State) (die kind : Nat) (addr el : Word) (name : List Byte) :
    (s.trace die kind addr el name).me = s.me := by
  simp only [State.trace]
  split <;> rfl

/-- Without a trace ring no record is written (21 R412). -/
theorem State.trace_off (s : State) (die kind : Nat) (addr el : Word) (name : List Byte) (h : (s.die die).trslots = 0) :
    s.trace die kind addr el name = s := if_pos h

/-- The RAS record of a POISON trap changes no context. -/
@[simp] theorem State.poisonRas_me (s : State) (c : Ctx) (name : List Byte) (code : Nat) (va : Word) :
    (s.poisonRas c name code va).me = s.me := by
  unfold State.poisonRas
  split
  · exact State.trace_me _ _ _ _ _ _
  · rfl

/-- Without a trace ring the RAS record of a POISON trap changes no memory. -/
theorem State.poisonRas_mem (s : State) (c : Ctx) (name : List Byte) (code : Nat) (va : Word) (h : (s.die c.die).trslots = 0) :
    (s.poisonRas c name code va).mem = s.mem := by
  unfold State.poisonRas
  split
  · have sent : s.KeepsMover (s.sendRas c.die c.a.csr.tenant va name) := by
      unfold State.sendRas State.sendEvent
      exact s.keepsMover_setDie _ _ rfl
    show (State.trace _ _ _ _ _ _).mem = _
    rw [State.trace_off _ _ _ _ _ _ ((sent.rings _).trans h), sent.mem]
  · rfl

/-- The double trap (19 R369): the context stops, and with the trace ring off no memory changes. -/
theorem State.takeTrap_double (s : State) (t : TrapInfo) (hn : s.me.nurse = false) (hs : s.me.a.csr.sup = true) :
    ∃ u, s.takeTrap t = .next u ∧ u.me = s.me.stop ∧ ((s.die s.me.die).trslots = 0 → u.mem = s.mem) := by
  have hm : s.modifyCtx s.me.id Ctx.stop = { s with me := s.me.stop } := if_pos rfl
  have ended := State.keepsMover_endGroup { s with me := s.me.stop } s.me.stop_stop s.me.die s.me.launch (s.me.faultReport 4 t.word)
  refine ⟨_, by rw [State.takeTrap, hn, hs, hm]; rfl, ?_, fun hr => ?_⟩
  · rw [State.poisonRas_me, ended.me]
  · rw [State.poisonRas_mem _ _ _ _ _ ((ended.rings _).trans hr), ended.mem]

/-- A double trap of an instruction with no sink pending. -/
theorem State.trap_double (s : State) (c : Cause) (hn : s.me.nurse = false) (hs : s.me.a.csr.sup = true) (hq : s.me.busy = false) :
    ∃ t, s.trap c = .next t ∧ t.me.a = s.me.a.combless ∧ t.me.state = .stopped := by
  obtain ⟨t, ht, hme, -⟩ := s.takeTrap_double { cause := c, va := 0, write := false, pass := none } hn hs
  exact ⟨t, by rw [State.trap, s.trapAtIssue_idle _ _ _ hq, ht], by rw [hme]; rfl, by rw [hme]; rfl⟩

/-- Settles O8: trap entry in user mode by what Arch.trap writes, the double trap by what the end of a launch keeps. -/
theorem trapEntry : Obligations.TrapEntry := by
  unfold Obligations.TrapEntry
  intro s c va write hn hr
  refine ⟨fun hs => ⟨⟨_, s.takeTrap_user _ hn hs hr, s.trapped_trap c va write hs⟩, fun el pc seq slot hslot => ?_⟩, fun hs => ?_⟩
  · have hcause := TrapInfo.word_pass c va write el pc seq slot hslot
    have hseq := (BitVec.ofNat_toNat 64 seq).symm
    refine ⟨_, s.takeTrap_user _ hn hs hr, hcause, rfl, rfl, hseq, rfl, rfl, rfl, ?_, ?_, rfl, rfl, rfl, rfl, rfl⟩
    · rw [State.setArch_me_a, Arch.getLsbD_trap_status, if_pos rfl]
    · rw [State.setArch_me_a, Arch.getLsbD_trap_status, if_neg Nat.one_ne_zero, if_pos rfl, hs]
  · obtain ⟨t, ht, hme, hmem⟩ := s.takeTrap_double { cause := c, va := va, write := write, pass := none } hn hs
    exact ⟨t, ht, by rw [hme]; rfl, by rw [hme]; rfl, hmem hr⟩

/-! ## The CSR map (01 R36) -/

/-- An entry of the map names a register of the model, with its rights and its value. -/
theorem Csr.ofNumber_of_mem (e : Nat × Rights × (Csrs → Word) × Word) (he : e ∈ csrMap) :
    ∃ r, Csr.ofNumber e.1 = some r ∧ r.rights = e.2.1 ∧ ∀ c : Csrs, c.get r = e.2.2.1 c := by
  revert e
  simp only [csrMap, List.cons_append, List.nil_append, List.forall_mem_cons, List.not_mem_nil, false_implies, implies_true, and_true]
  repeat' apply And.intro
  all_goals exact ⟨_, rfl, rfl, fun _ => rfl⟩

/-- A number that the map finds names the register of its entry. -/
theorem Csr.ofNumber_of_find (n : Nat) (e : Nat × Rights × (Csrs → Word) × Word) (h : csrMap.find? (fun e => e.1 == n) = some e) :
    ∃ r, Csr.ofNumber n = some r ∧ r.rights = e.2.1 ∧ ∀ c : Csrs, c.get r = e.2.2.1 c := by
  have hfound := List.find?_some h
  have hn : e.1 = n := eq_of_beq hfound
  exact hn ▸ Csr.ofNumber_of_mem e (List.mem_of_find?_eq_some h)

/-- A number that the map does not find names no register. -/
theorem Csr.ofNumber_of_find_none (n : Nat) (h : csrMap.find? (fun e => e.1 == n) = none) : Csr.ofNumber n = none := by
  refine Option.eq_none_iff_forall_ne_some.mpr fun r hr => ?_
  unfold Csr.ofNumber at hr
  split at hr
  all_goals cases hr
  all_goals cases h

/-! ## CSR access (19 R375) -/

/-- A supervisor reads every register, and everyone reads those that are not S. -/
theorem Rights.deny_read (r : Rights) (sup : Bool) (h : sup = true ∨ r ≠ .s) : r.deny sup false = false := by
  cases r with
  | s => rw [h.resolve_right fun hs => hs rfl]; rfl
  | u | ur | ro => rfl

/-- s0 is read in every state (01 R12). -/
theorem State.readable_zero (s : State) : s.readable [0] := by simp [State.readable, Arch.deadRead]

/-- With no pass stopped none is given up. -/
theorem State.dropStopped_idle (s : State) (hs : s.me.stopped = none) (hr : s.me.resume = none) : s.dropStopped = s := by
  rw [State.dropStopped, hs, hr]
  exact if_pos (Bool.or_true _)

section
variable (s : State) (d a : SReg) (n : BitVec 11) (f : Option (Word → Word → Word)) (r : Csr)

/-- A number that names no register traps ILLEGAL. -/
theorem State.csrAccess_unassigned (h : Csr.ofNumber n.toNat = none) : s.csrAccess d a n f = s.trap .illegal := by
  simp only [State.csrAccess, h]

/-- An access that the rights deny traps PRIV. -/
theorem State.csrAccess_denied (h : Csr.ofNumber n.toNat = some r) (hd : r.rights.deny (s.me.nurse || s.me.a.csr.sup) f.isSome = true) :
    s.csrAccess d a n f = s.trap .priv := by
  simp only [State.csrAccess, h, hd, if_true]

/-- A read that the rights allow, with no sink pending, writes the register to d and goes on. -/
theorem State.csrAccess_read (h : Csr.ofNumber n.toNat = some r) (hd : r.rights.deny (s.me.nurse || s.me.a.csr.sup) false = false)
    (hq : s.me.busy = false) : s.csrAccess d 0 n none = .next (s.setReg d (s.me.a.csr.get r)).apart.retire := by
  simp only [State.csrAccess, h, Option.isSome_none, hd]
  rw [if_neg Bool.false_ne_true, s.reading_ok [0] _ s.readable_zero, hq]
  rfl

/-- A write that the rights allow, with no sink pending and no pass stopped, stores its value and writes the old one to d. -/
theorem State.csrAccess_write (g : Word → Word → Word) (h : Csr.ofNumber n.toNat = some r)
    (hd : r.rights.deny (s.me.nurse || s.me.a.csr.sup) true = false) (ha : s.readable [a]) (hq : s.me.busy = false)
    (hs : s.me.stopped = none) (hr : s.me.resume = none) :
    s.csrAccess d a n (some g) =
      .next (((s.setCsr fun c => c.put r (g (s.me.a.csr.get r) (s.reg a))).setReg d (s.me.a.csr.get r)).apart.retire) := by
  simp only [State.csrAccess, h, Option.isSome_some, hd]
  rw [if_neg Bool.false_ne_true, s.reading_ok [a] _ ha, hq]
  show Host.Outcome.next ((s.setCsr _).dropStopped.setReg d _).apart.retire = _
  rw [State.dropStopped_idle (s.setCsr _) hs hr]

end

/-- Each of the four CSR instructions is an access of its register. -/
theorem exec_csr (s : State) (d a : SReg) (n : BitVec 11) :
    ∀ i ∈ [Instr.csrr d n, .csrw d a n, .csrset d a n, .csrclr d a n], ∃ b f, exec i s = s.csrAccess d b n f := by
  simp only [List.forall_mem_cons]
  exact ⟨⟨0, none, rfl⟩, ⟨a, _, rfl⟩, ⟨a, _, rfl⟩, ⟨a, _, rfl⟩, List.forall_mem_nil _⟩

/-- Those that write are accesses with a write, csrset and csrclr where a is not s0 (19 R375). -/
theorem exec_csr_write (s : State) (d a : SReg) (n : BitVec 11) :
    ∀ i ∈ (Instr.csrw d a n :: if a = 0 then [] else [.csrset d a n, .csrclr d a n]), ∃ g, exec i s = s.csrAccess d a n (some g) := by
  rw [List.forall_mem_cons]
  refine ⟨⟨_, rfl⟩, ?_⟩
  split
  · exact List.forall_mem_nil _
  · rename_i ha
    simp only [List.forall_mem_cons]
    exact ⟨⟨_, by rw [exec_csrset, execCsrset, if_neg ha]⟩, ⟨_, by rw [exec_csrclr, execCsrclr, if_neg ha]⟩, List.forall_mem_nil _⟩

/-! ## VTYPE (01 R20) -/

/-- A field that a mask keeps whole. -/
theorem field_and (v m : Word) (lo n : Nat) (h : field m lo n = 2 ^ n - 1) : field (v &&& m) lo n = field v lo n := by
  unfold field at h ⊢
  rw [BitVec.toNat_and, Nat.and_div_two_pow, Nat.and_mod_two_pow, h, Nat.and_two_pow_sub_one_eq_mod, Nat.mod_mod]

/-- A request for VTYPE that is supported: ILL clear, and a combination of FMT and EG of 04 R116. -/
def VtypeSupported (v : Nat) : Prop :=
  v / 2 ^ 31 % 2 = 0 ∧ v % 32 ≤ 18 ∧
    (v / 2 ^ 8 % 4 = 0 ∨ (v % 32 = 0 ∧ v / 2 ^ 8 % 4 ≤ 2) ∨ v % 32 = 1 ∨ v % 32 = 2)

/-- The combinations of FMT and EG that are supported (04 R116). -/
theorem supportedFormat_eq_true (fmt eg : Nat) :
    supportedFormat fmt eg = true ↔ fmt ≤ 18 ∧ (eg = 0 ∨ (fmt = 0 ∧ eg ≤ 2) ∨ fmt = 1 ∨ fmt = 2) := by
  simp [supportedFormat, or_assoc]

/-- The check by which vtypeOf refuses a request, on the value before the mask. -/
theorem vtypeRefused_eq_false_iff (v : Word) :
    (bit (v &&& Csr.vtype.mask) 31 || !supportedFormat (field (v &&& Csr.vtype.mask) 0 5) (field (v &&& Csr.vtype.mask) 8 2)) = false ↔
      VtypeSupported v.toNat := by
  have hill : bit (v &&& Csr.vtype.mask) 31 = decide (v.toNat / 2 ^ 31 % 2 = 1) := by
    rw [bit, BitVec.getLsbD_and, show Csr.vtype.mask.getLsbD 31 = true from rfl, Bool.and_true, ← BitVec.testBit_toNat,
      Nat.testBit_eq_decide_div_mod_eq]
  rw [hill, field_and _ _ 0 5 rfl, field_and _ _ 8 2 rfl, Bool.or_eq_false_iff, Bool.not_eq_false',
    decide_eq_false_iff_not, supportedFormat_eq_true]
  unfold field VtypeSupported
  omega

/-- With bit 31 clear the mask of VTYPE keeps bits 15 to 0 alone. -/
theorem and_vtype_mask (v : Word) (h : v.getLsbD 31 = false) : v &&& Csr.vtype.mask = v &&& 0xFB1F := by
  have hm : Csr.vtype.mask = BitVec.twoPow 64 31 ||| 0xFB1F := rfl
  rw [hm, BitVec.and_or_distrib_left, BitVec.and_twoPow, h, if_neg Bool.false_ne_true, BitVec.zero_or]

/-- A supported request is stored and leaves VL (01 R20). -/
theorem Csrs.setVtype_supported (c : Csrs) (v : Word) (h : VtypeSupported v.toNat) :
    c.setVtype v = { c with vtype := v &&& 0xFB1F } := by
  have ⟨hclear, _⟩ := h
  have hill : v.getLsbD 31 = false := by
    rw [← BitVec.testBit_toNat, Nat.testBit_eq_decide_div_mod_eq, hclear]; rfl
  have hv : vtypeOf v = v &&& 0xFB1F := by
    rw [vtypeOf, (vtypeRefused_eq_false_iff v).mpr h, and_vtype_mask v hill]; rfl
  have hb : bit (v &&& 0xFB1F) 31 = false := by rw [bit, BitVec.getLsbD_and, hill]; rfl
  rw [Csrs.setVtype, hv, hb]
  rfl

/-- A request that is not supported stores ILL alone, and VL reads 0 (01 R20). -/
theorem Csrs.setVtype_unsupported (c : Csrs) (v : Word) (h : ¬VtypeSupported v.toNat) :
    c.setVtype v = { c with vtype := 0x80000000, vl := 0 } := by
  have hv : vtypeOf v = 0x80000000 := by
    rw [← vtypeRefused_eq_false_iff, Bool.not_eq_false] at h
    rw [vtypeOf, h]; rfl
  rw [Csrs.setVtype, hv]
  rfl

/-! ## The map and its rights -/

/-- The end of every CSR instruction: that no sink joins a pass before it (02 R48) touches no register. -/
theorem State.registerResult_apart (s : State) (d : SReg) (v : Word) : s.RegisterResult (s.setReg d v).apart.retire d v 0 := by
  obtain ⟨⟨⟨result, live, others, csr, rest⟩, next⟩, -, -⟩ := s.wrote_setReg d v
  exact ⟨⟨result, live, others, csr, rest⟩, next⟩

/-- VTYPE and VL after a supervisor's csrw of VTYPE are what setVtype gives: neither d nor the next PC changes them. -/
theorem State.csrw_vtype (s : State) (d a : SReg) (hq : s.me.busy = false) (hs : s.me.stopped = none) (hr : s.me.resume = none)
    (hsup : s.me.a.csr.sup = true) (ha : s.readable [a]) :
    ∃ t, exec (.csrw d a 1) s = .next t ∧ t.me.a.csr.vtype = (s.me.a.csr.setVtype (s.reg a)).vtype ∧
      t.me.a.csr.vl = (s.me.a.csr.setVtype (s.reg a)).vl := by
  have hd : Csr.vtype.rights.deny (s.me.nurse || s.me.a.csr.sup) true = false := by rw [hsup, Bool.or_true]; rfl
  refine ⟨_, s.csrAccess_write d a 1 .vtype _ rfl hd ha hq hs hr, ?_⟩
  rw [State.retire_me_a, Arch.next_frame, State.apart_me_a, State.setReg_me_a, State.setCsr_me_a, Arch.setReg_csr]
  exact ⟨rfl, rfl⟩

/-- Settles O15: each right by the lemma of the access that it denies or allows; a write of VTYPE by setVtype. -/
theorem csrMapAndRights : Obligations.CsrMapAndRights := by
  unfold Obligations.CsrMapAndRights
  intro s d a n x writes all
  refine ⟨fun hx hnow i hi => ?unassigned, fun e he => ?_⟩
  case unassigned =>
    obtain ⟨b, f, hexec⟩ := exec_csr s d a n i hi
    obtain ⟨t, ht, htrap⟩ := s.trap_now .illegal hnow
    exact ⟨t, by rw [hexec, s.csrAccess_unassigned d b n f (Csr.ofNumber_of_find_none _ hx), ht], htrap⟩
  obtain ⟨r, hr, hrights, hget⟩ := Csr.ofNumber_of_find _ e he
  refine ⟨fun hnow hright i hi => ?supervisorOnly, fun hnow hright i hi => ?readOnly, fun hn hsup hq hright i hi => ?double,
    fun hq hallow => ?read, fun hn1 hq hs hres hsup ha => ?vtype⟩
  case supervisorOnly =>
    obtain ⟨b, f, hexec⟩ := exec_csr s d a n i hi
    have hd : r.rights.deny (s.me.nurse || s.me.a.csr.sup) f.isSome = true := by
      rw [hrights, hright, hnow.context, hnow.user]; rfl
    obtain ⟨t, ht, htrap⟩ := s.trap_now .priv hnow
    exact ⟨t, by rw [hexec, s.csrAccess_denied d b n f r hr hd, ht], htrap⟩
  case readOnly =>
    obtain ⟨g, hexec⟩ := exec_csr_write s d a n i hi
    have hd : r.rights.deny (s.me.nurse || s.me.a.csr.sup) (some g).isSome = true := by
      rw [hrights, hnow.context, hnow.user]
      rcases hright with h | h <;> rw [h] <;> rfl
    obtain ⟨t, ht, htrap⟩ := s.trap_now .priv hnow
    exact ⟨t, by rw [hexec, s.csrAccess_denied d a n (some g) r hr hd, ht], htrap⟩
  case double =>
    obtain ⟨g, hexec⟩ := exec_csr_write s d a n i hi
    have hd : r.rights.deny (s.me.nurse || s.me.a.csr.sup) (some g).isSome = true := by rw [hrights, hright]; rfl
    obtain ⟨t, ht, hstop⟩ := s.trap_double .priv hn hsup hq
    exact ⟨t, by rw [hexec, s.csrAccess_denied d a n (some g) r hr hd, ht], hstop⟩
  case read =>
    have hd : r.rights.deny (s.me.nurse || s.me.a.csr.sup) false = false := by
      rw [hrights]
      refine Rights.deny_read _ _ ?_
      rcases hallow with h | h | h
      · exact .inl (by rw [h, Bool.or_true])
      · exact .inl (by rw [h, Bool.true_or])
      · exact .inr h
    rw [← hget]
    exact ⟨_, s.csrAccess_read d n r hr hd hq, s.registerResult_apart d _, rfl⟩
  case vtype =>
    subst hn1
    obtain ⟨t, ht, hvtype, hvl⟩ := s.csrw_vtype d a hq hs hres hsup ha
    refine ⟨t, ht, fun h => ?_, fun h => ?_⟩
    · rw [hvtype, hvl, Csrs.setVtype_supported _ _ h]; exact ⟨rfl, rfl⟩
    · rw [hvtype, hvl, Csrs.setVtype_unsupported _ _ h]; exact ⟨rfl, rfl⟩

end Sys2Proof.Machine
end

section
/-!
SUPPORT. Proofs about the number formats (03): rounding to a multiple, the patterns of class F, and rounding into a layout.
-/

namespace Sys2Proof.Machine

/-! ## Rounding to a multiple of a quantum (03 R89, R90) -/

/-- Whether the multiple above is taken, of n kept units and rem discarded ones, of 2 * half to the quantum (03 R89, R90). -/
def roundsUp (r : Rounding) (neg : Bool) (n rem half : Nat) (sticky : Bool) : Bool :=
  match r.mode with
  | 0 => decide (half < rem) || decide (rem = half) && (sticky || n % 2 == 1)
  | 1 => false
  | 2 => (decide (rem ≠ 0) || sticky) && !neg
  | 3 => (decide (rem ≠ 0) || sticky) && neg
  | 4 => decide (half ≤ rem)
  | _ => decide (2 ^ 32 ≤ rem * 2 ^ 32 / (2 * half) + r.w % 2 ^ 32)

/-- A quantum no coarser than the last digit loses nothing of an exact value. -/
theorem roundAt_fine (r : Rounding) (neg : Bool) (m : Nat) (e q : Int) (h : q ≤ e) :
    roundAt r neg m e false q = (m * 2 ^ (e - q).toNat, false) := by
  simp [roundAt, h]

/-- A quantum above the last digit keeps the quotient, or one more. -/
theorem roundAt_coarse (r : Rounding) (neg : Bool) (m : Nat) (e : Int) (sticky : Bool) (q : Int) (half : Nat) (h : e < q)
    (hg : 2 ^ (q - e).toNat = 2 * half) :
    roundAt r neg m e sticky q =
      (m / (2 * half) + (roundsUp r neg (m / (2 * half)) (m % (2 * half)) half sticky).toNat, decide (m % (2 * half) ≠ 0) || sticky) := by
  have hhalf : 2 * half / 2 = half := Nat.mul_div_cancel_left _ Nat.two_pos
  have step (n : Nat) (b c : Bool) (hbc : b = c) : (if b = true then n + 1 else n) = n + c.toNat := by
    subst hbc; cases b <;> rfl
  simp only [roundAt, if_neg (Int.not_le.mpr h), hg, hhalf, Prod.mk.injEq, and_true]
  refine step _ _ _ ?_
  generalize m % (2 * half) = rem
  have nearest (a b : Bool) : (decide (rem > half) || decide (rem = half) && a || decide (rem = half) && !a && b) =
      (decide (half < rem) || decide (rem = half) && (a || b)) := by
    cases a <;> simp
  rcases r with ⟨_ | _ | _ | _ | _ | mode, sat, w⟩
  case zero => exact nearest _ _
  case succ.succ.succ.succ.zero =>
    show (decide (rem > half) || decide (rem = half) && sticky || decide (rem = half) && !sticky) = decide (half ≤ rem)
    cases sticky <;> simp [Nat.le_iff_lt_or_eq, eq_comm]
  all_goals rfl

/-- The quantum above the last digit is an even number of units. -/
theorem exists_half_quantum (e q : Int) (h : e < q) : ∃ half, 0 < half ∧ 2 ^ (q - e).toNat = 2 * half := by
  refine ⟨2 ^ ((q - e).toNat - 1), Nat.two_pow_pos _, ?_⟩
  rw [← Nat.pow_succ', Nat.succ_eq_add_one, Nat.sub_add_cancel (by omega)]

/-- In the five modes a sticky fraction is half a unit more, at twice the scale. -/
theorem roundsUp_sticky (r : Rounding) (neg : Bool) (n rem half : Nat) (hmode : r.mode ≤ 4) :
    roundsUp r neg n rem half true = roundsUp r neg n (2 * rem + 1) (2 * half) false := by
  rcases r with ⟨_ | _ | _ | _ | _ | mode, sat, w⟩
  case zero =>
    have hodd : ¬2 * rem + 1 = 2 * half := by omega
    have habove : half < rem ∨ rem = half ↔ 2 * half < 2 * rem + 1 := by omega
    simp [roundsUp, hodd, ← habove]
  case succ.zero => simp [roundsUp]
  case succ.succ.zero => simp [roundsUp]
  case succ.succ.succ.zero => simp [roundsUp]
  case succ.succ.succ.succ.zero =>
    have hhalf : half ≤ rem ↔ 2 * half ≤ 2 * rem + 1 := by omega
    simp [roundsUp, hhalf]
  case succ.succ.succ.succ.succ => dsimp only at hmode; omega

/-- Nothing discarded is never rounded up. -/
theorem roundsUp_nothing (r : Rounding) (neg : Bool) (n half : Nat) (hpos : 0 < half) : roundsUp r neg n 0 half false = false := by
  have hw : r.w % 2 ^ 32 < 2 ^ 32 := Nat.mod_lt _ (Nat.two_pow_pos _)
  unfold roundsUp
  split
  case h_6 => simpa using Nat.not_le.mpr hw
  all_goals simp [Nat.ne_of_lt hpos, Nat.ne_of_gt hpos]

/-- The five modes keep the sticky fraction as half a unit. -/
theorem roundAt_sticky (r : Rounding) (neg : Bool) (m : Nat) (e q : Int) (h : e < q) (hmode : r.mode ≤ 4) :
    roundAt r neg m e true q = roundAt r neg (2 * m + 1) (e - 1) false q := by
  obtain ⟨half, hpos, hg⟩ := exists_half_quantum e q h
  have hg' : 2 ^ (q - (e - 1)).toNat = 2 * (2 * half) := by
    rw [← hg, ← Nat.pow_succ']
    congr 1
    omega
  have hn : (2 * m + 1) / (2 * (2 * half)) = m / (2 * half) := by
    rw [← Nat.div_div_eq_div_mul, show (2 * m + 1) / 2 = m by omega]
  have hrem : (2 * m + 1) % (2 * (2 * half)) = 2 * (m % (2 * half)) + 1 := by
    rw [Nat.mod_mul, show (2 * m + 1) / 2 = m by omega, show (2 * m + 1) % 2 = 1 by omega, Nat.add_comm]
  rw [roundAt_coarse r neg m e true q half h hg, roundAt_coarse r neg _ _ false q _ (by omega) hg', hn, hrem,
    roundsUp_sticky r neg _ _ half hmode]
  simp

section
variable (r : Rounding) (neg : Bool) (m : Nat) (e q : Int) (h : e < q)
include h

/-- A rounding of an exact value in terms of the kept and the discarded part. -/
theorem roundAt_split : ∃ half rem, rem < 2 * half ∧ 2 ^ (q - e).toNat = 2 * half ∧
    ∃ n, m = n * (2 * half) + rem ∧ (roundAt r neg m e false q).2 = decide (rem ≠ 0) ∧
      ((roundAt r neg m e false q).1 = n ∧ roundsUp r neg n rem half false = false ∨
        (roundAt r neg m e false q).1 = n + 1 ∧ roundsUp r neg n rem half false = true) := by
  obtain ⟨half, hpos, hg⟩ := exists_half_quantum e q h
  refine ⟨half, m % (2 * half), Nat.mod_lt _ (by omega), hg, m / (2 * half), (Nat.div_add_mod' _ _).symm, ?_⟩
  rw [roundAt_coarse r neg m e false q half h hg]
  cases roundsUp r neg (m / (2 * half)) (m % (2 * half)) half false <;> simp

/-- A mode that never takes the multiple above gives the greatest one that is not above. -/
theorem roundAt_toward (hup : ∀ n rem half, roundsUp r neg n rem half false = false) :
    let y := (roundAt r neg m e false q).1
    let g := 2 ^ (q - e).toNat
    y * g ≤ m ∧ m < y * g + g := by
  obtain ⟨half, rem, hrem, hg, n, hm, -, hy⟩ := roundAt_split r neg m e q h
  rw [hup] at hy
  obtain ⟨hy, -⟩ | ⟨-, hy⟩ := hy
  · simp only [hg, hy]; omega
  · cases hy

/-- A mode that takes the multiple above when anything is discarded gives the least one that is not below. -/
theorem roundAt_away (hup : ∀ n rem half, roundsUp r neg n rem half false = decide (rem ≠ 0)) :
    let y := (roundAt r neg m e false q).1
    let g := 2 ^ (q - e).toNat
    m ≤ y * g ∧ y * g < m + g := by
  obtain ⟨half, rem, hrem, hg, n, hm, -, hy⟩ := roundAt_split r neg m e q h
  rw [hup, decide_eq_false_iff_not, decide_eq_true_iff, Classical.not_not] at hy
  obtain ⟨hy, h0⟩ | ⟨hy, h0⟩ := hy
  · simp only [hg, hy]; omega
  · simp only [hg, hy, Nat.add_mul]; omega

/-- A mode that goes up from the half on gives one of the nearest multiples. -/
theorem roundAt_near (hup : ∀ n rem half, (half < rem → roundsUp r neg n rem half false = true) ∧
      (rem < half → roundsUp r neg n rem half false = false)) :
    let y := (roundAt r neg m e false q).1
    let g := 2 ^ (q - e).toNat
    2 * m ≤ 2 * (y * g) + g ∧ 2 * (y * g) ≤ 2 * m + g := by
  obtain ⟨half, rem, hrem, hg, n, hm, -, hy⟩ := roundAt_split r neg m e q h
  obtain ⟨habove, hbelow⟩ := hup n rem half
  obtain ⟨hy, h0⟩ | ⟨hy, h0⟩ := hy
  · have : rem ≤ half := Nat.not_lt.mp fun hlt => by rw [habove hlt] at h0; cases h0
    simp only [hg, hy]; omega
  · have : half ≤ rem := Nat.not_lt.mp fun hlt => by rw [hbelow hlt] at h0; cases h0
    simp only [hg, hy, Nat.add_mul]; omega

/-- The second component says whether an exact value changes. -/
theorem roundAt_snd : (roundAt r neg m e false q).2 = decide ((roundAt r neg m e false q).1 * 2 ^ (q - e).toNat ≠ m) := by
  obtain ⟨half, rem, hrem, hg, n, hm, hinexact, hy⟩ := roundAt_split r neg m e q h
  rw [hinexact, hg, decide_eq_decide]
  obtain ⟨hy, -⟩ | ⟨hy, hup⟩ := hy
  · rw [hy]; omega
  · have : rem ≠ 0 := by
      rintro rfl
      rw [roundsUp_nothing r neg n half (by omega)] at hup
      cases hup
    rw [hy, Nat.add_mul]; omega

/-- To nearest even, of two multiples as near the even one is taken. -/
theorem roundAt_nearestEven (hmode : r.mode = 0) :
    let y := (roundAt r neg m e false q).1
    let g := 2 ^ (q - e).toNat
    (2 * m ≤ 2 * (y * g) + g ∧ 2 * (y * g) ≤ 2 * m + g) ∧ (2 * m = 2 * (y * g) + g ∨ 2 * (y * g) = 2 * m + g → y % 2 = 0) := by
  have hrule (n rem half : Nat) : roundsUp r neg n rem half false = (decide (half < rem) || decide (rem = half) && n % 2 == 1) := by
    rw [roundsUp, hmode]; rfl
  refine ⟨roundAt_near r neg m e q h fun n rem half => ?_, ?_⟩
  · rw [hrule]
    exact ⟨fun hlt => by simp [hlt], fun hlt => by simp [Nat.not_lt.mpr (Nat.le_of_lt hlt), Nat.ne_of_lt hlt]⟩
  · obtain ⟨half, rem, hrem, hg, n, hm, -, hy⟩ := roundAt_split r neg m e q h
    simp only [hrule, Bool.or_eq_false_iff, Bool.or_eq_true, Bool.and_eq_false_iff, Bool.and_eq_true, decide_eq_false_iff_not,
      decide_eq_true_iff, beq_eq_false_iff_ne, beq_iff_eq] at hy
    obtain ⟨hy, hup⟩ | ⟨hy, hup⟩ := hy
    · simp only [hg, hy]; omega
    · simp only [hg, hy, Nat.add_mul]; omega

/-- To nearest with ties away, of two multiples as near the greater is taken. -/
theorem roundAt_nearestAway (hmode : r.mode = 4) :
    let y := (roundAt r neg m e false q).1
    let g := 2 ^ (q - e).toNat
    (2 * m ≤ 2 * (y * g) + g ∧ 2 * (y * g) ≤ 2 * m + g) ∧ 2 * m ≠ 2 * (y * g) + g := by
  have hrule (n rem half : Nat) : roundsUp r neg n rem half false = decide (half ≤ rem) := by rw [roundsUp, hmode]; rfl
  refine ⟨roundAt_near r neg m e q h fun n rem half => ?_, ?_⟩
  · rw [hrule]
    exact ⟨fun hlt => by simp [Nat.le_of_lt hlt], fun hlt => by simp [hlt]⟩
  · obtain ⟨half, rem, hrem, hg, n, hm, -, hy⟩ := roundAt_split r neg m e q h
    simp only [hrule, decide_eq_false_iff_not, decide_eq_true_iff] at hy
    obtain ⟨hy, hup⟩ | ⟨hy, hup⟩ := hy
    · simp only [hg, hy]; omega
    · simp only [hg, hy, Nat.add_mul]; omega

/-- Under stochastic rounding the first 32 discarded bits and the random word decide, sticky fraction or not. -/
theorem roundAt_stochastic (sticky : Bool) (hmode : r.mode = 5) (hw : r.w < 2 ^ 32) :
    let g := 2 ^ (q - e).toNat
    (roundAt r neg m e sticky q).1 = m / g + if 2 ^ 32 ≤ m % g * 2 ^ 32 / g + r.w then 1 else 0 := by
  obtain ⟨half, hpos, hg⟩ := exists_half_quantum e q h
  simp only [roundAt_coarse r neg m e sticky q half h hg, roundsUp, hmode, Nat.mod_eq_of_lt hw, hg, Bool.toNat, Bool.cond_decide]

end

/-- A value with a sticky fraction has changed. -/
theorem roundAt_sticky_snd (r : Rounding) (neg : Bool) (m : Nat) (e q : Int) : (roundAt r neg m e true q).2 = true := by
  simp [roundAt]

/-! ## Patterns of the layouts of class F (03 R73) -/

/-- What the layouts of class F share: twice the bias is the number of exponents less two, and only E4M3 has no infinities. -/
structure RegularLayout (l : BinFmt) : Prop where
  mbits_pos : 0 < l.mbits
  bias_pos : 0 < l.bias
  exponents : 2 ^ l.ebits = 2 * l.bias + 2
  special : l.infs = true ∨ l = Fmt.e4m3.layout

/-- Every layout of class F is regular. -/
theorem regularLayout_of_class (f : Fmt) (h : f.cls = .f) : RegularLayout f.layout := by
  cases f with
  | f32 | bf16 | f16 | e5m2 | e4m3 => exact ⟨by decide, by decide, rfl, by decide⟩
  | _ => cases h

/-- A pattern of class F has a sign bit, an exponent field and a mantissa field. -/
theorem layout_bits (f : Fmt) (h : f.cls = .f) : f.bits = f.layout.ebits + f.layout.mbits + 1 := by
  cases f with
  | f32 | bf16 | f16 | e5m2 | e4m3 => rfl
  | _ => cases h

/-- The pattern of a sign, an exponent field and a mantissa field. -/
def ofFields (l : BinFmt) (neg : Bool) (E M : Nat) : Nat := 2 ^ l.mbits * (2 ^ l.ebits * neg.toNat + E) + M

/-- Every pattern has its three fields. -/
theorem exists_ofFields (l : BinFmt) (v : Nat) (hv : v < 2 ^ (l.ebits + l.mbits + 1)) :
    ∃ neg E M, E < 2 ^ l.ebits ∧ M < 2 ^ l.mbits ∧ v = ofFields l neg E M := by
  have htop : v / 2 ^ l.mbits / 2 ^ l.ebits < 2 := by
    rw [Nat.div_div_eq_div_mul, ← Nat.pow_add, Nat.div_lt_iff_lt_mul (Nat.two_pow_pos _), ← Nat.pow_succ', Nat.add_comm l.mbits]
    exact hv
  refine ⟨decide (v / 2 ^ l.mbits / 2 ^ l.ebits = 1), v / 2 ^ l.mbits % 2 ^ l.ebits, v % 2 ^ l.mbits, Nat.mod_lt _ (Nat.two_pow_pos _),
    Nat.mod_lt _ (Nat.two_pow_pos _), ?_⟩
  have hneg : (decide (v / 2 ^ l.mbits / 2 ^ l.ebits = 1)).toNat = v / 2 ^ l.mbits / 2 ^ l.ebits := by
    rcases Nat.lt_succ_iff_lt_or_eq.mp htop with h | h
    · rw [Nat.lt_one_iff.mp h]; rfl
    · rw [h]; rfl
  rw [ofFields, hneg, Nat.div_add_mod, Nat.div_add_mod]

section
variable (l : BinFmt) (neg : Bool) (E M : Nat) (hE : E < 2 ^ l.ebits) (hM : M < 2 ^ l.mbits)
include hM

theorem ofFields_mod : ofFields l neg E M % 2 ^ l.mbits = M := by
  rw [ofFields, Nat.mul_add_mod, Nat.mod_eq_of_lt hM]

include hE

theorem ofFields_div : ofFields l neg E M / 2 ^ l.mbits % 2 ^ l.ebits = E := by
  rw [ofFields, Nat.mul_add_div (Nat.two_pow_pos _), Nat.div_eq_of_lt hM, Nat.add_zero, Nat.mul_add_mod, Nat.mod_eq_of_lt hE]

theorem testBit_ofFields : (ofFields l neg E M).testBit (l.ebits + l.mbits) = neg := by
  rw [ofFields, testBit_parts _ _ _ _ _ _ hM hE, if_neg (by omega), if_neg (by omega),
    show l.ebits + l.mbits - l.mbits - l.ebits = 0 by omega]
  cases neg <;> rfl

end

/-- The fields as the model adds them up, the sign in front. -/
theorem sign_eq_ofFields (l : BinFmt) (neg : Bool) (E M : Nat) :
    (if neg then 2 ^ (l.ebits + l.mbits) else 0) + E * 2 ^ l.mbits + M = ofFields l neg E M := by
  have hsign : (if neg then 2 ^ (l.ebits + l.mbits) else 0) = 2 ^ l.mbits * (2 ^ l.ebits * neg.toNat) := by
    cases neg with
    | true => rw [if_pos rfl, Bool.toNat_true, Nat.mul_one, Nat.add_comm, Nat.pow_add]
    | false => rfl
  rw [ofFields, Nat.mul_add, hsign, Nat.mul_comm E]

/-! ## Packing and unpacking -/

/-- The exponent field of the largest finite value. -/
def topExponent (l : BinFmt) : Nat := if l.infs then 2 * l.bias else 2 * l.bias + 1

theorem maxM_lt (l : BinFmt) : l.maxM < 2 ^ (l.mbits + 1) := by
  have := Nat.two_pow_pos (l.mbits + 1)
  unfold BinFmt.maxM
  split <;> omega

section
variable (l : BinFmt) (hl : RegularLayout l)
include hl

theorem maxQ_eq : l.maxQ = (topExponent l : Int) - l.bias - l.mbits := by
  obtain ⟨hm, hb, he, hinf | rfl⟩ := hl
  · simp [BinFmt.maxQ, topExponent, hinf]; omega
  · rfl

theorem minQ_lt_maxQ : l.minQ < l.maxQ := by
  rw [maxQ_eq l hl, BinFmt.minQ, topExponent]
  obtain ⟨hm, hb, he, hinf | rfl⟩ := hl
  · simp [hinf]; omega
  · decide

theorem two_pow_le_maxM : 2 ^ l.mbits ≤ l.maxM := by
  have h2 : 2 ≤ 2 ^ l.mbits := Nat.le_self_pow (Nat.ne_of_gt hl.mbits_pos) 2
  unfold BinFmt.maxM
  rw [Nat.pow_succ']
  split <;> omega

/-- Exponent field zero holds the subnormal values and zero. -/
theorem unpack_subnormal (neg : Bool) (M : Nat) (hM : M < 2 ^ l.mbits) : unpack l (ofFields l neg 0 M) = .fin neg M l.minQ false := by
  have hpos := Nat.two_pow_pos l.ebits
  have he : (0 : Nat) ≠ 2 ^ l.ebits - 1 := by have := hl.exponents; omega
  simp [unpack, ofFields_mod l neg 0 M hM, ofFields_div l neg 0 M hpos hM, testBit_ofFields l neg 0 M hpos hM, he, BinFmt.minQ]

theorem topExponent_lt : topExponent l < 2 ^ l.ebits ∧ (l.infs = true → topExponent l < 2 ^ l.ebits - 1) := by
  have he := hl.exponents
  unfold topExponent
  split <;> simp [*]

/-- The other exponent fields hold the normal values, up to the largest finite one. -/
theorem unpack_normal (neg : Bool) (E M : Nat) (hM : M < 2 ^ l.mbits) (hpos : 0 < E)
    (htop : E < topExponent l ∨ E = topExponent l ∧ M + 2 ^ l.mbits ≤ l.maxM) :
    unpack l (ofFields l neg E M) = .fin neg (M + 2 ^ l.mbits) ((E : Int) - l.bias - l.mbits) false := by
  obtain ⟨hlt, hinf⟩ := topExponent_lt l hl
  have hE : E < 2 ^ l.ebits := by omega
  have hnan : ¬((l.infs = false ∧ l.ebits = 4) ∧ E = 15 ∧ M = 7) := by
    rintro ⟨⟨hfin, -⟩, rfl, rfl⟩
    obtain rfl : l = Fmt.e4m3.layout := hl.special.resolve_left (by simp [hfin])
    revert htop
    decide
  have hfield : l.infs = true → E ≠ 2 ^ l.ebits - 1 := fun h => by have := hinf h; omega
  simp only [unpack, ofFields_mod l neg E M hM, ofFields_div l neg E M hE hM, testBit_ofFields l neg E M hE hM]
  rw [if_neg (by simpa using hfield), if_neg (by simpa [and_assoc] using hnan), if_neg (Nat.ne_of_gt hpos)]

/-- The normal value of a significand and a quantum. -/
theorem unpack_quantum (neg : Bool) (M : Nat) (q : Int) (hM : M < 2 ^ l.mbits) (hlow : l.minQ ≤ q)
    (hhigh : q < l.maxQ ∨ q = l.maxQ ∧ M + 2 ^ l.mbits ≤ l.maxM) :
    unpack l (ofFields l neg (q + l.mbits + l.bias).toNat M) = .fin neg (M + 2 ^ l.mbits) q false := by
  rw [maxQ_eq l hl] at hhigh
  rw [BinFmt.minQ] at hlow
  rw [unpack_normal l hl neg _ M hM (by omega) (by omega)]
  congr 1
  omega

end

/-- A significand below the leading place packs into exponent field zero. -/
theorem pack_subnormal (l : BinFmt) (neg : Bool) (n : Nat) (q : Int) (h : n < 2 ^ l.mbits) : pack l neg n q = ofFields l neg 0 n := by
  rw [← sign_eq_ofFields, pack, if_pos h, Nat.zero_mul, Nat.add_zero]

/-- A full significand packs with its leading bit implied. -/
theorem pack_normal (l : BinFmt) (neg : Bool) (M : Nat) (q : Int) (h : M < 2 ^ l.mbits) :
    pack l neg (M + 2 ^ l.mbits) q = ofFields l neg (q + l.mbits + l.bias).toNat M := by
  rw [← sign_eq_ofFields, pack, if_neg (by omega), if_neg (by rw [Nat.pow_succ']; omega), Nat.add_sub_cancel]

/-- A significand that rounding carried into one more bit packs with the next exponent. -/
theorem pack_carry (l : BinFmt) (neg : Bool) (q : Int) : pack l neg (2 ^ (l.mbits + 1)) q = ofFields l neg (q + 1 + l.mbits + l.bias).toNat 0 := by
  rw [← sign_eq_ofFields, pack, if_neg (by rw [Nat.pow_succ']; omega), if_pos rfl, Nat.add_zero]

/-- What is packed is the value n * 2^q. -/
theorem unpack_pack (l : BinFmt) (hl : RegularLayout l) (neg : Bool) (n : Nat) (q : Int) (hlow : l.minQ ≤ q)
    (hfull : l.minQ < q → 2 ^ l.mbits ≤ n) (hn : n ≤ 2 ^ (l.mbits + 1)) (hhigh : q < l.maxQ ∨ q = l.maxQ ∧ n ≤ l.maxM) :
    ∃ k g, unpack l (pack l neg n q) = .fin neg k g false ∧ k * 2 ^ (g - min g q).toNat = n * 2 ^ (q - min g q).toNat := by
  rcases Nat.lt_or_ge n (2 ^ l.mbits) with hsub | hge
  · have hnot : ¬l.minQ < q := fun h => absurd (hfull h) (Nat.not_le.mpr hsub)
    obtain rfl : q = l.minQ := Int.le_antisymm (Int.not_lt.mp hnot) hlow
    exact ⟨n, l.minQ, by rw [pack_subnormal l neg n _ hsub, unpack_subnormal l hl neg n hsub], rfl⟩
  rcases Nat.lt_or_eq_of_le hn with hlt | rfl
  · obtain ⟨M, rfl⟩ := Nat.exists_eq_add_of_le' hge
    have hM : M < 2 ^ l.mbits := by rw [Nat.pow_succ'] at hlt; omega
    exact ⟨_, q, by rw [pack_normal l neg M q hM, unpack_quantum l hl neg M q hM hlow hhigh], rfl⟩
  · have hq : q < l.maxQ := hhigh.resolve_right fun h => by have := maxM_lt l; omega
    have hpow := Nat.two_pow_pos l.mbits
    have hmax := two_pow_le_maxM l hl
    refine ⟨2 ^ l.mbits, q + 1, ?_, ?_⟩
    · rw [pack_carry, unpack_quantum l hl neg 0 (q + 1) hpow (by omega) (by omega), Nat.zero_add]
    · rw [show min (q + 1) q = q by omega, show (q + 1 - q).toNat = 1 by omega, Int.sub_self, Nat.pow_succ 2 l.mbits]
      simp

/-! ## Special patterns -/

/-- A NaN pattern gives its sign. -/
theorem unpack_of_isNan (l : BinFmt) (v : Nat) (h : (unpack l v).isNan = true) :
    ∃ quiet, unpack l v = .nan (v.testBit (l.ebits + l.mbits)) quiet := by
  revert h
  unfold unpack
  dsimp only
  split
  · split
    · intro h; cases h
    · exact fun _ => ⟨_, rfl⟩
  · split
    · exact fun _ => ⟨_, rfl⟩
    · split
      · intro h; cases h
      · intro h; cases h

/-- The canonical NaN of a sign is that of the statements. -/
theorem canonicalNan_layout (f : Fmt) (hf : f.cls = .f) (neg : Bool) : canonicalNan f.layout neg = signBit f neg + (topPatterns f).2.2 := by
  cases f with
  | f32 | bf16 | f16 | e5m2 | e4m3 => cases neg <;> rfl
  | _ => cases hf

/-- The top bit of a number that has no other above it. -/
theorem testBit_top (v k : Nat) (hv : v < 2 ^ (k + 1)) : v.testBit k = decide (2 ^ k ≤ v) := by
  have hpos := Nat.two_pow_pos k
  have hlt : v / 2 ^ k < 2 := (Nat.div_lt_iff_lt_mul hpos).mpr (by rwa [← Nat.pow_succ'])
  rw [Nat.testBit_eq_decide_div_mod_eq, Nat.mod_eq_of_lt hlt, decide_eq_decide, ← Nat.one_mul (2 ^ k), ← Nat.le_div_iff_mul_le hpos, Nat.one_mul]
  omega

theorem roundTo_unpack_nan (f : Fmt) (hf : f.cls = .f) (r : Rounding) (v : Nat) (hv : v < 2 ^ f.bits)
    (hnan : (unpack f.layout v).isNan = true) :
    roundTo f.layout r (unpack f.layout v) =
      (signBit f (decide (2 ^ (f.bits - 1) ≤ v)) + (topPatterns f).2.2, if (unpack f.layout v).signals then [.inv] else []) := by
  obtain ⟨quiet, h⟩ := unpack_of_isNan _ v hnan
  have hbits := layout_bits f hf
  rw [hbits] at hv
  rw [h, roundTo, canonicalNan_layout f hf, testBit_top v _ hv, hbits, Nat.add_sub_cancel]
  cases quiet <;> rfl

/-! ## Rounding into a layout (03 R90, R94, R95) -/

/-- The place to which a value rounds: the last one of a full significand, and no finer than the subnormal one (03 R89). -/
def quantum (l : BinFmt) (m : Nat) (e : Int) : Int := max l.minQ (topBit m e - l.mbits)

/-- The rounding in force: a stochastic one goes to nearest even beyond the largest finite value (03 R90). -/
def capped (l : BinFmt) (r : Rounding) (m : Nat) (e : Int) (sticky : Bool) : Rounding :=
  if r.mode == 5 && exceeds m e sticky l.maxM l.maxQ then { r with mode := 0 } else r

/-- The five modes are in force as they are. -/
theorem capped_of_mode (l : BinFmt) (r : Rounding) (m : Nat) (e : Int) (sticky : Bool) (h : r.mode ≤ 4) : capped l r m e sticky = r := by
  rw [capped, if_neg]
  simp only [Bool.and_eq_true, beq_iff_eq]
  omega

/-- Overflow is the same for stochastic rounding and for nearest even. -/
theorem overflowed_capped (l : BinFmt) (r : Rounding) (neg : Bool) (m : Nat) (e : Int) (sticky : Bool) :
    overflowed l (capped l r m e sticky) neg = overflowed l r neg := by
  unfold capped
  split
  case isTrue h =>
    simp only [Bool.and_eq_true, beq_iff_eq] at h
    simp [overflowed, h.1]
  case isFalse => rfl

theorem quantum_eq (l : BinFmt) (m : Nat) (e : Int) :
    (if topBit m e - l.mbits < l.minQ then l.minQ else topBit m e - l.mbits) = quantum l m e := by
  unfold quantum
  split <;> omega

section
variable (l : BinFmt) (r : Rounding) (neg : Bool) (m : Nat) (e : Int) (sticky : Bool) (n : Nat × Bool)
  (hn : roundAt (capped l r m e sticky) neg m e sticky (quantum l m e) = n)
include hn

/-- A rounded significand within the range is packed; its flags are UNF, where it is tiny after rounding to u, and INX. -/
theorem roundFinite_inRange (u : Nat × Bool) (hu : roundAt (capped l r m e sticky) neg m e sticky (topBit m e - l.mbits) = u)
    (h : quantum l m e < l.maxQ ∨ quantum l m e = l.maxQ ∧ n.1 ≤ l.maxM) :
    roundFinite l r neg m e sticky =
      (pack l neg n.1 (quantum l m e),
        if n.2 = true then
          if topBit m e - l.mbits < l.minQ ∧ ¬(u.1 = 2 ^ (l.mbits + 1) ∧ topBit m e - l.mbits + 1 = l.minQ) then [.unf, .inx] else [.inx]
        else []) := by
  have hpast : ¬(n.1 ≠ 0 ∧ (l.maxQ < quantum l m e ∨ quantum l m e = l.maxQ ∧ l.maxM < n.1)) := by omega
  unfold capped at hn hu
  simp only [roundFinite, quantum_eq, hn, hu]
  have hnot (b : Bool) : (!b) = true ↔ ¬b = true := by cases b <;> decide
  rw [if_neg (by simpa using hpast)]
  simp only [Bool.and_eq_true, decide_eq_true_eq, hnot, beq_iff_eq]

/-- A rounded significand past the range overflows. -/
theorem roundFinite_past (hn0 : n.1 ≠ 0) (h : l.maxQ < quantum l m e) : roundFinite l r neg m e sticky = overflowed l r neg := by
  have hover := overflowed_capped l r neg m e sticky
  unfold capped at hn hover
  simp only [roundFinite, quantum_eq, hn]
  rw [if_pos (by simp [hn0, h]), hover]

end

/-! ## The size of a rounded significand -/

/-- What is kept of m * 2^e at a quantum. -/
def keptAt (m : Nat) (e q : Int) : Nat := if q ≤ e then m * 2 ^ (e - q).toNat else m / 2 ^ (q - e).toNat

theorem roundAt_fst (r : Rounding) (neg : Bool) (m : Nat) (e : Int) (sticky : Bool) (q : Int) :
    (roundAt r neg m e sticky q).1 = keptAt m e q ∨ (roundAt r neg m e sticky q).1 = keptAt m e q + 1 := by
  have step (up : Bool) (n : Nat) : (if up = true then n + 1 else n) = n ∨ (if up = true then n + 1 else n) = n + 1 := by
    cases up with
    | false => exact .inl rfl
    | true => exact .inr rfl
  exact step _ _

theorem keptAt_lt (m : Nat) (e q : Int) (k : Nat) (h : topBit m e < q + k) : keptAt m e q < 2 ^ k := by
  have hm : m < 2 ^ (Nat.log2 m + 1) := Nat.lt_log2_self
  unfold topBit at h
  unfold keptAt
  split
  case isTrue hq =>
    calc m * 2 ^ (e - q).toNat < 2 ^ (Nat.log2 m + 1) * 2 ^ (e - q).toNat := Nat.mul_lt_mul_of_pos_right hm (Nat.two_pow_pos _)
      _ = 2 ^ (Nat.log2 m + 1 + (e - q).toNat) := (Nat.pow_add ..).symm
      _ ≤ 2 ^ k := Nat.pow_le_pow_right Nat.two_pos (by omega)
  case isFalse hq =>
    refine Nat.div_lt_of_lt_mul (Nat.lt_of_lt_of_le hm ?_)
    rw [← Nat.pow_add]
    exact Nat.pow_le_pow_right Nat.two_pos (by omega)

theorem le_keptAt (m : Nat) (e q : Int) (k : Nat) (hm : m ≠ 0) (h : q + k ≤ topBit m e) : 2 ^ k ≤ keptAt m e q := by
  have hlow : 2 ^ Nat.log2 m ≤ m := Nat.log2_self_le hm
  unfold topBit at h
  unfold keptAt
  split
  case isTrue hq =>
    calc 2 ^ k ≤ 2 ^ (Nat.log2 m + (e - q).toNat) := Nat.pow_le_pow_right Nat.two_pos (by omega)
      _ = 2 ^ Nat.log2 m * 2 ^ (e - q).toNat := Nat.pow_add ..
      _ ≤ m * 2 ^ (e - q).toNat := Nat.mul_le_mul_right _ hlow
  case isFalse hq =>
    rw [Nat.le_div_iff_mul_le (Nat.two_pow_pos _), ← Nat.pow_add]
    exact Nat.le_trans (Nat.pow_le_pow_right Nat.two_pos (by omega)) hlow

/-- A rounded significand takes at most one bit more than its leading place. -/
theorem roundAt_le (r : Rounding) (neg : Bool) (m : Nat) (e : Int) (sticky : Bool) (q : Int) (k : Nat) (h : topBit m e < q + k) :
    (roundAt r neg m e sticky q).1 ≤ 2 ^ k := by
  have hlt := keptAt_lt m e q k h
  rcases roundAt_fst r neg m e sticky q with h | h <;> omega

/-- A rounded significand keeps its leading place. -/
theorem le_roundAt (r : Rounding) (neg : Bool) (m : Nat) (e : Int) (sticky : Bool) (q : Int) (k : Nat) (hm : m ≠ 0) (h : q + k ≤ topBit m e) :
    2 ^ k ≤ (roundAt r neg m e sticky q).1 := by
  have hle := le_keptAt m e q k hm h
  rcases roundAt_fst r neg m e sticky q with h | h <;> omega

/-! ## Every value rounds to itself (03 R73, R97) -/

/-- An exact value whose last digit is its quantum is packed as it is, without a flag. -/
theorem roundTo_exact (l : BinFmt) (r : Rounding) (neg : Bool) (m : Nat) (q : Int) (hm : m ≠ 0) (hq : quantum l m q = q)
    (h : q < l.maxQ ∨ q = l.maxQ ∧ m ≤ l.maxM) : roundTo l r (.fin neg m q false) = (pack l neg m q, []) := by
  have hn : roundAt (capped l r m q false) neg m q false (quantum l m q) = (m, false) := by
    rw [hq, roundAt_fine _ _ _ _ _ Int.le_rfl, Int.sub_self, Int.toNat_zero, Nat.pow_zero, Nat.mul_one]
  rw [roundTo, if_neg (by simp [hm]), roundFinite_inRange l r neg m q false _ hn _ rfl (by rwa [hq]), hq]
  rfl

theorem roundTo_subnormal (l : BinFmt) (hl : RegularLayout l) (r : Rounding) (neg : Bool) (M : Nat) (hM : M < 2 ^ l.mbits) :
    roundTo l r (.fin neg M l.minQ false) = (ofFields l neg 0 M, []) := by
  rcases Nat.eq_zero_or_pos M with rfl | hpos
  · rw [roundTo, if_pos ⟨rfl, rfl⟩, ← sign_eq_ofFields, Nat.zero_mul]
    rfl
  · have hlog := (Nat.log2_lt (Nat.ne_of_gt hpos)).mpr hM
    rw [roundTo_exact l r neg M _ (Nat.ne_of_gt hpos) _ (.inl (minQ_lt_maxQ l hl)), pack_subnormal l neg M _ hM]
    rw [quantum, topBit]
    omega

theorem roundTo_normal (l : BinFmt) (r : Rounding) (neg : Bool) (M : Nat) (q : Int) (hM : M < 2 ^ l.mbits) (hlow : l.minQ ≤ q)
    (hhigh : q < l.maxQ ∨ q = l.maxQ ∧ M + 2 ^ l.mbits ≤ l.maxM) :
    roundTo l r (.fin neg (M + 2 ^ l.mbits) q false) = (ofFields l neg (q + l.mbits + l.bias).toNat M, []) := by
  have hpos := Nat.two_pow_pos l.mbits
  have hlog : Nat.log2 (M + 2 ^ l.mbits) = l.mbits := by
    rw [Nat.log2_eq_iff (by omega), Nat.pow_succ']
    omega
  rw [roundTo_exact l r neg _ _ (by omega) _ hhigh, pack_normal l neg M q hM]
  rw [quantum, topBit, hlog]
  omega

/-- A pattern past the largest finite one is an infinity or a NaN. -/
theorem unpack_special (l : BinFmt) (hl : RegularLayout l) (neg : Bool) (E M : Nat) (hE : E < 2 ^ l.ebits) (hM : M < 2 ^ l.mbits)
    (hpast : ¬(E < topExponent l ∨ E = topExponent l ∧ M + 2 ^ l.mbits ≤ l.maxM)) :
    (unpack l (ofFields l neg E M)).isNan = true ∨
      l.infs = true ∧ ofFields l neg E M = infinity l neg ∧ unpack l (ofFields l neg E M) = .inf neg := by
  simp only [unpack, ofFields_mod l neg E M hM, ofFields_div l neg E M hE hM, testBit_ofFields l neg E M hE hM]
  rcases hl.special with hinf | rfl
  · have hmax : l.maxM = 2 ^ (l.mbits + 1) - 1 := by simp [BinFmt.maxM, hinf]
    have htop : E = 2 ^ l.ebits - 1 := by
      rw [hmax, Nat.pow_succ', topExponent, if_pos hinf] at hpast
      have := hl.exponents
      omega
    rw [if_pos (by simp [hinf, htop])]
    rcases Nat.eq_zero_or_pos M with rfl | hpos
    · exact .inr ⟨hinf, by rw [← sign_eq_ofFields, htop]; rfl, if_pos rfl⟩
    · exact .inl (by rw [if_neg (Nat.ne_of_gt hpos)]; rfl)
  · have hall : E = 15 ∧ M = 7 := by
      change E < 16 at hE
      change M < 8 at hM
      change ¬(E < 15 ∨ E = 15 ∧ M + 8 ≤ 14) at hpast
      omega
    obtain ⟨rfl, rfl⟩ := hall
    exact .inl rfl

/-- A pattern that is no NaN holds a value that rounds to it. -/
theorem roundTo_unpack (l : BinFmt) (hl : RegularLayout l) (r : Rounding) (v : Nat) (hv : v < 2 ^ (l.ebits + l.mbits + 1))
    (hnan : (unpack l v).isNan = false) : roundTo l r (unpack l v) = (v, []) := by
  obtain ⟨neg, E, M, hE, hM, rfl⟩ := exists_ofFields l v hv
  rcases Nat.eq_zero_or_pos E with rfl | hpos
  · rw [unpack_subnormal l hl neg M hM, roundTo_subnormal l hl r neg M hM]
  by_cases htop : E < topExponent l ∨ E = topExponent l ∧ M + 2 ^ l.mbits ≤ l.maxM
  · have hmax := maxQ_eq l hl
    rw [unpack_normal l hl neg E M hM hpos htop, roundTo_normal l r neg M _ hM (by rw [BinFmt.minQ]; omega) (by omega)]
    congr
    omega
  · obtain hn | ⟨hinf, hpattern, hvalue⟩ := unpack_special l hl neg E M hE hM htop
    · rw [hn] at hnan; cases hnan
    · rw [hvalue, roundTo, if_pos hinf, hpattern]

/-! ## Results within and past the range (03 R90, R94, R95) -/

/-- A significand u of at most k + 2 bits is below the smallest normal one, d places above, unless it was carried to just that. -/
theorem lt_two_pow_iff_not_carried (u k d : Nat) (hu : u ≤ 2 ^ (k + 1)) (hd : 0 < d) : u < 2 ^ (k + d) ↔ ¬(u = 2 ^ (k + 1) ∧ d = 1) := by
  rcases Nat.lt_or_eq_of_le (show 1 ≤ d from hd) with h | rfl
  · have : 2 ^ (k + 1) < 2 ^ (k + d) := Nat.pow_lt_pow_right Nat.one_lt_two (by omega)
    omega
  · omega

section
variable (l : BinFmt) (r : Rounding) (neg : Bool) (m : Nat) (e : Int) (sticky : Bool) (hm : m ≠ 0)
include hm

/-- A magnitude past the range of its format overflows. -/
theorem roundTo_past (hl : RegularLayout l) (h : l.maxQ < topBit m e - l.mbits) : roundTo l r (.fin neg m e sticky) = overflowed l r neg := by
  have hpast : l.maxQ < quantum l m e := by rw [quantum]; omega
  have hq : quantum l m e = topBit m e - l.mbits := by have := minQ_lt_maxQ l hl; rw [quantum]; omega
  have hn := le_roundAt (capped l r m e sticky) neg m e sticky (quantum l m e) l.mbits hm (by omega)
  have hpos := Nat.two_pow_pos l.mbits
  rw [roundTo, if_neg (fun h => hm h.1), roundFinite_past l r neg m e sticky _ rfl (by omega) hpast]

section
variable (hmode : r.mode ≤ 4)
  (h : quantum l m e < l.maxQ ∨ quantum l m e = l.maxQ ∧ (roundAt r neg m e sticky (quantum l m e)).1 ≤ l.maxM)
include hmode h

/-- A result within the range is packed; it is tiny where its magnitude, rounded with unbounded exponent, is below the smallest normal one. -/
theorem roundTo_inRange :
    roundTo l r (.fin neg m e sticky) =
      (pack l neg (roundAt r neg m e sticky (quantum l m e)).1 (quantum l m e),
        if (roundAt r neg m e sticky (quantum l m e)).2 = true then
          if topBit m e - l.mbits < l.minQ ∧
            (roundAt r neg m e sticky (topBit m e - l.mbits)).1 < 2 ^ (l.mbits + (l.minQ - (topBit m e - l.mbits)).toNat)
          then [.unf, .inx] else [.inx]
        else []) := by
  have hcap := capped_of_mode l r m e sticky hmode
  have hu := roundAt_le r neg m e sticky (topBit m e - l.mbits) (l.mbits + 1) (by omega)
  have htiny (hlow : topBit m e - l.mbits < l.minQ) := lt_two_pow_iff_not_carried _ _ (l.minQ - (topBit m e - l.mbits)).toNat hu (by omega)
  have hone : topBit m e - l.mbits + 1 = l.minQ ↔ (l.minQ - (topBit m e - l.mbits)).toNat = 1 := by omega
  rw [roundTo, if_neg (fun h => hm h.1), roundFinite_inRange l r neg m e sticky _ (by rw [hcap]) _ (by rw [hcap]) h]
  simp only [hone, and_congr_right htiny]

/-- What is delivered within the range is the rounded multiple. -/
theorem unpack_roundTo (hl : RegularLayout l) :
    ∃ k g, unpack l (roundTo l r (.fin neg m e sticky)).1 = .fin neg k g false ∧
      k * 2 ^ (g - min g (quantum l m e)).toNat =
        (roundAt r neg m e sticky (quantum l m e)).1 * 2 ^ (quantum l m e - min g (quantum l m e)).toNat := by
  have hlow : l.minQ ≤ quantum l m e := Int.le_max_left _ _
  have hfree : topBit m e - l.mbits ≤ quantum l m e := Int.le_max_right _ _
  have hfull (hlt : l.minQ < quantum l m e) := le_roundAt r neg m e sticky (quantum l m e) l.mbits hm (by rw [quantum] at hlt ⊢; omega)
  have hn := roundAt_le r neg m e sticky (quantum l m e) (l.mbits + 1) (by omega)
  rw [roundTo_inRange l r neg m e sticky hm hmode h]
  exact unpack_pack l hl neg _ _ hlow hfull hn h

end
end

/-- Beyond the range, the patterns of the statements (03 R95). -/
theorem largest_layout (f : Fmt) (hf : f.cls = .f) (neg : Bool) : largest f.layout neg = signBit f neg + (topPatterns f).1 := by
  cases f with
  | f32 | bf16 | f16 | e5m2 | e4m3 => cases neg <;> rfl
  | _ => cases hf

/-- A format has infinities where the statements name the pattern of one. -/
theorem infinity_layout (f : Fmt) (hf : f.cls = .f) (inf : Nat) (h : (topPatterns f).2.1 = some inf) (neg : Bool) :
    f.layout.infs = true ∧ infinity f.layout neg = signBit f neg + inf := by
  cases f with
  | f32 | bf16 | f16 | e5m2 => cases h; cases neg <;> exact ⟨rfl, rfl⟩
  | e4m3 => cases h
  | _ => cases hf

theorem infs_eq_false (f : Fmt) (hf : f.cls = .f) (h : (topPatterns f).2.1 = none) : f.layout.infs = false := by
  cases f with
  | e4m3 => rfl
  | f32 | bf16 | f16 | e5m2 => cases h
  | _ => cases hf

/-- Only FP32 is as wide as FP32. -/
theorem mbits_ne_iff (f : Fmt) (hf : f.cls = .f) : f.layout.mbits ≠ 23 ↔ f ≠ .f32 := by
  cases f with
  | f32 | bf16 | f16 | e5m2 | e4m3 => decide
  | _ => cases hf

section
variable (f : Fmt) (hf : f.cls = .f) (r : Rounding) (neg : Bool)
include hf

theorem overflowed_saturated (h : r.sat = true ∧ f ≠ .f32) : overflowed f.layout r neg = (signBit f neg + (topPatterns f).1, [.sat, .inx]) := by
  rw [overflowed, if_pos (by simpa [mbits_ne_iff f hf] using h), largest_layout f hf]

section
variable (h : ¬(r.sat = true ∧ f ≠ .f32))
include h

theorem overflowed_nan (hinf : (topPatterns f).2.1 = none) : overflowed f.layout r neg = (signBit f neg + (topPatterns f).2.2, [.ovf, .inx]) := by
  rw [overflowed, if_neg (by simpa [mbits_ne_iff f hf] using h), infs_eq_false f hf hinf, canonicalNan_layout f hf]
  rfl

theorem overflowed_infinity (inf : Nat) (hinf : (topPatterns f).2.1 = some inf) :
    overflowed f.layout r neg =
      (signBit f neg + if r.mode = 1 ∨ (r.mode = 2 ∧ neg = true) ∨ (r.mode = 3 ∧ neg = false) then (topPatterns f).1 else inf,
        [.ovf, .inx]) := by
  obtain ⟨hinfs, hvalue⟩ := infinity_layout f hf inf hinf neg
  rw [overflowed, if_neg (by simpa [mbits_ne_iff f hf] using h), hinfs, largest_layout f hf, hvalue]
  simp only [Bool.not_true, Bool.false_eq_true, if_false, Bool.or_eq_true, Bool.and_eq_true, decide_eq_true_iff, Bool.not_eq_true', or_assoc]
  split <;> rfl

end
end

/-- The flags of a result within the range. -/
theorem mem_rangeFlags (inexact tiny : Prop) [Decidable inexact] [Decidable tiny] (fl : List Flag)
    (h : fl = if inexact then if tiny then [.unf, .inx] else [.inx] else []) :
    (Flag.inx ∈ fl ↔ inexact) ∧ (Flag.unf ∈ fl ↔ inexact ∧ tiny) ∧ ∀ y ∈ fl, y = .inx ∨ y = .unf := by
  subst h
  by_cases hi : inexact
  · by_cases ht : tiny
    · simp [hi, ht]
    · simp [hi, ht]
  · simp [hi]

/-- Settles O6: one lemma for each mode of roundAt, the round trip of patterns, and the two cases of roundFinite. -/
theorem roundingModes : Obligations.RoundingModes := by
  unfold Obligations.RoundingModes
  refine ⟨fun mode sat neg w m e q hw => ?modes, fun f r v hf hv => ?values, fun f r neg sticky m e hf hm => ?results⟩
  case modes =>
    intro r0 r
    refine ⟨roundAt_fine r0 neg m e q, fun h => ?_⟩
    intro g away toward near
    refine ⟨roundAt_snd r0 neg m e q h, fun hmode => roundAt_nearestEven r0 neg m e q h hmode,
      fun hmode => ?towardZero, fun hmode => ?up, fun hmode => ?down, fun hmode => roundAt_nearestAway r0 neg m e q h hmode,
      fun hmode => roundAt_stochastic r0 neg m e q h false hmode hw, fun hmode => roundAt_sticky r0 neg m e q h hmode, fun hmode => ?sticky⟩
    case towardZero => exact roundAt_toward r0 neg m e q h fun _ _ _ => by simp only [roundsUp, r0, hmode]
    case up =>
      cases neg with
      | true => exact roundAt_toward r0 true m e q h fun _ _ _ => by simp [roundsUp, r0, hmode]
      | false => exact roundAt_away r0 false m e q h fun _ _ _ => by simp [roundsUp, r0, hmode]
    case down =>
      cases neg with
      | true => exact roundAt_away r0 true m e q h fun _ _ _ => by simp [roundsUp, r0, hmode]
      | false => exact roundAt_toward r0 false m e q h fun _ _ _ => by simp [roundsUp, r0, hmode]
    case sticky =>
      refine Prod.ext ?_ (roundAt_sticky_snd r0 neg m e q)
      exact (roundAt_stochastic r0 neg m e q h true hmode hw).trans (roundAt_stochastic r0 neg m e q h false hmode hw).symm
  case values =>
    refine ⟨fun hnan => ?_, roundTo_unpack_nan f hf r v hv⟩
    rw [layout_bits f hf] at hv
    exact roundTo_unpack f.layout (regularLayout_of_class f hf) r v hv hnan
  case results =>
    intro l free q n z
    have hl := regularLayout_of_class f hf
    refine ⟨fun hmode h => ⟨unpack_roundTo l r neg m e sticky hm hmode h hl, ?flags⟩, fun h => ?past⟩
    case flags => exact mem_rangeFlags _ _ _ (congrArg Prod.snd (roundTo_inRange l r neg m e sticky hm hmode h))
    case past =>
      intro top
      have hz : z = overflowed l r neg := roundTo_past l r neg m e sticky hm hl h
      rw [hz]
      split
      case isTrue hs => exact overflowed_saturated f hf r neg hs
      case isFalse hs =>
        split
        case h_1 hinf => exact overflowed_nan f hf r neg hs hinf
        case h_2 inf hinf => exact overflowed_infinity f hf r neg hs inf hinf

end Sys2Proof.Machine
end
